-- ==== Sys2Proof/Word.lean ====
section
/-! DEFINITION. The word types of the ZN46: what the manual treats as bits, and the numbers that
name channels, keys, slots and outputs. -/

namespace Sys2Proof

/-- A byte of a frame body, of the start image or of a channel value. -/
abbrev Byte := BitVec 8

/-- A station address, 0–31; 0 is no station's (Table 0-3). -/
abbrev Addr := BitVec 5

/-- A channel version, 0–4095 (R53). -/
abbrev Version := BitVec 12

/-- An infrared code value, 32 bits (Table 8-3, Table 12-6). -/
abbrev CodeValue := BitVec 32

/-- A channel number, 0–63. -/
abbrev Chan := Fin 64

/-- A key number, row × 6 + column (R119). -/
abbrev Key := Fin 48

/-- A run slot, 0 or 1 (R155). -/
abbrev SlotId := Fin 2

/-- A load output or an indicator, 0–7. -/
abbrev OutId := Fin 8

/-- A code set, 0–3 (R131). -/
abbrev SetId := Fin 4

/-- A macro, 0–15 (R154). -/
abbrev MacroId := Fin 16

/-- A moment or a duration in units of 0.5 µs, the coarsest unit in which every duration of the
manual is a whole number (DESIGN CHOICE, log entry 1). -/
abbrev Time := Nat

end Sys2Proof
end

