-- ==== Sys2Proof/Config.lean ====
section
/-! DEFINITION. What the manual leaves open, as constants without a body: nothing can evaluate them
or prove a value of them. -/

namespace Sys2Proof

/-- A fresh free choice at each draw, applied to the counter `State.draws`: it settles an order
that no rule gives (R88 on several entries; R75 on a notice from a frame whose triples are not
judged). Log entry 3. -/
opaque Config.order : Nat → Nat

end Sys2Proof
end

