-- ==== Sys2Proof/Syntax.lean ====
section
/-! DEFINITION. The commands: one constructor for each row of spec/opcode_table.json. Every command
carries `dt`, when it comes after the command before it (log entry 1). -/

namespace Sys2Proof

/-- A frame as a receiver has read it, from the first class bit to the last frame check bit
(Table 1-2), without the kind, which the row gives. The declared body length is the length of
`body`. The two checks are the bits read, right or wrong. -/
structure Rx where
  cls         : BitVec 2
  source      : Addr
  destination : Addr
  incarnation : Byte
  body        : List Byte
  headerCheck : BitVec 4
  frameCheck  : BitVec 8
  deriving DecidableEq, Repr

/-- Which gesture trackers a hold or repeat deadline command means: those of the listed keys, whose
order R127 fixes, or the one of the held infrared code. -/
inductive TrackerSel where
  | key
  | ir
  deriving DecidableEq, Repr

/-- When a command comes: the time after the command before it, and, where that is none, which of the grants
still to come in that event this event comes before, the next for 1, the one behind it for 2, and none for
0: it then reaches the freed place before the run slot that waits for it (R96, R144; log entry 37). -/
structure Moment where
  after : Time
  rival : Nat
  deriving DecidableEq, Repr

/-- When a command on an edge of the line comes, and for how long the line is dominant from that edge
(R2). -/
structure LineRead where
  dt  : Moment
  low : Time
  deriving DecidableEq, Repr

/-- The commands of the ZN46, one for each row of the table of operations and events. -/
inductive Instr where
  /-- POWER_ON (R99): power is applied and the power-on sequence ends; the strap levels (R100). -/
  | powerOn (dt : Moment) (straps : Addr)
  /-- RESET_PIN_ASSERTED (R99). -/
  | resetPinAsserted (dt : Moment)
  /-- RESET_PIN_RELEASED (R99): the strap levels (R100). -/
  | resetPinReleased (dt : Moment) (straps : Addr)
  /-- IMAGE_READ (R101): the next image byte, or no answer. -/
  | imageRead (dt : Moment) (answer : Option Byte)
  /-- IDLE_DECLARATION (R3). -/
  | idleDeclaration (dt : Moment)
  /-- LINE_STUCK (R4). -/
  | lineStuck (dt : Moment)
  /-- ATTEMPT_BEGIN (R9). -/
  | attemptBegin (dt : Moment)
  /-- ARBITRATION_LOSS (R10): which of the 7 class and source bits was lost, and how long the line
  stays dominant from that bit's edge. -/
  | arbitrationLoss (read : LineRead) (bit : Fin 7)
  /-- BIT_ERROR (R11): how long the line stays dominant from the edge of the bit that is read. -/
  | bitError (read : LineRead)
  /-- ANSWER_WINDOW_READ (R19): how long the line stayed dominant from the edge of each slot (R2). -/
  | answerWindowRead (dt : Moment) (taken declined garbled : Time)
  /-- HOLD_BACK_EXPIRY (R32): the age position of the entry, less 1. -/
  | holdBackExpiry (dt : Moment) (position : Fin 12)
  /-- ANNOUNCE (R49). -/
  | announce (dt : Moment) (rx : Rx)
  /-- CHANGE (R59). -/
  | change (dt : Moment) (rx : Rx)
  /-- REQUEST (R67). -/
  | request (dt : Moment) (rx : Rx)
  /-- FETCH (R76). -/
  | fetch (dt : Moment) (rx : Rx)
  /-- STATE (R78). -/
  | state (dt : Moment) (rx : Rx)
  /-- RECALL (R113). -/
  | recall (dt : Moment) (rx : Rx)
  /-- RECALL_REPLY (R110). -/
  | recallReply (dt : Moment) (rx : Rx)
  /-- QUERY_SUMMARY (R173). -/
  | querySummary (dt : Moment) (rx : Rx)
  /-- QUERY_CHANNEL (R174). -/
  | queryChannel (dt : Moment) (rx : Rx)
  /-- QUERY_PEER (R174). -/
  | queryPeer (dt : Moment) (rx : Rx)
  /-- QUERY_COUNTERS (R173). -/
  | queryCounters (dt : Moment) (rx : Rx)
  /-- REPLY (R178). -/
  | reply (dt : Moment) (rx : Rx)
  /-- RESTART (R175). -/
  | restart (dt : Moment) (rx : Rx)
  /-- PENDING_RESTART (R176): the strap levels, read when the restart goes through LOADING. -/
  | pendingRestart (dt : Moment) (straps : Addr)
  /-- SILENCE_DEADLINE_EXPIRY (R44): the peer's address. -/
  | silenceDeadlineExpiry (dt : Moment) (address : Addr)
  /-- ANNOUNCE_TIMER_EXPIRY (R48). -/
  | announceTimerExpiry (dt : Moment)
  /-- LISTEN_WINDOW_EXPIRY (R106). -/
  | listenWindowExpiry (dt : Moment)
  /-- RECALL_WINDOW_EXPIRY (R114). -/
  | recallWindowExpiry (dt : Moment)
  /-- CONFIRM_DEADLINE_EXPIRY (R87): the entry's tag. -/
  | confirmDeadlineExpiry (dt : Moment) (tag : Byte)
  /-- SCAN (R119): for each row in turn, the columns that are pulled to it while it is driven; bit c
  is column c. -/
  | scan (dt : Moment) (columns : Vector (BitVec 6) 8)
  /-- STUCK_DEADLINE_EXPIRY (R124): the first due key of the pressed-key list. -/
  | stuckDeadlineExpiry (dt : Moment)
  /-- HOLD_DEADLINE_EXPIRY (R127). -/
  | holdDeadlineExpiry (dt : Moment) (which : TrackerSel)
  /-- REPEAT_DEADLINE_EXPIRY (R127). -/
  | repeatDeadlineExpiry (dt : Moment) (which : TrackerSel)
  /-- WAIT_DEADLINE_EXPIRY (R158): the run slot. -/
  | waitDeadlineExpiry (dt : Moment) (slot : SlotId)
  /-- COMPLETE_CODE (R137): the end of the stop mark of a complete code. -/
  | completeCode (dt : Moment)
  /-- HOLD_MARKER (R137): the end of the stop mark of a hold marker. -/
  | holdMarker (dt : Moment)
  /-- LIMIT_PASSED (R136). -/
  | limitPassed (dt : Moment)
  /-- RELEASE_DEADLINE_EXPIRY (R138). -/
  | releaseDeadlineExpiry (dt : Moment)
  /-- EMISSION_FRAME (R141). -/
  | emissionFrame (dt : Moment)
  /-- EMISSION_END (R141). -/
  | emissionEnd (dt : Moment)
  /-- BLANKING_END (R142). -/
  | blankingEnd (dt : Moment)
  /-- STEP_DEADLINE_EXPIRY (R164): the load output. -/
  | stepDeadlineExpiry (dt : Moment) (output : OutId)
  /-- FLASH_END (R169): the indicator. -/
  | flashEnd (dt : Moment) (indicator : OutId)
  /-- DOMINANT_EDGE (R3): another station drives the line dominant, and other stations then hold it so
  for a time. -/
  | dominantEdge (read : LineRead)
  /-- HEADER_FAILED (R7). -/
  | headerFailed (dt : Moment)
  /-- FRAME_OF_UNKNOWN_KIND (R15): the kind code read. -/
  | frameOfUnknownKind (dt : Moment) (kind : BitVec 4) (rx : Rx)
  /-- QUERY_UNKNOWN_ITEM (R172). -/
  | queryUnknownItem (dt : Moment) (rx : Rx)
  /-- IR_INPUT_EDGE (R132): true at the start of a mark, false at its end. -/
  | irInputEdge (dt : Moment) (mark : Bool)
  deriving DecidableEq, Repr

end Sys2Proof
end

