-- ==== Sys2Proof/WellFormed.lean ====
section
/-! DEFINITION. Which commands spell an event of their row. The meanings are total and do not ask:
a frame row runs by the bits it carries. -/

namespace Sys2Proof

/-- The body length field is 4 bits wide (Table 1-2), so no frame carries more than 15 bytes; 15
itself is a header check failure (R7). -/
def Rx.wf (rx : Rx) : Bool := rx.body.length ≤ 15

/-- A QUERY frame whose item byte, if it has one, is the row's (Table 12-3). -/
def Rx.itemIs (rx : Rx) (item : Byte) : Bool := rx.body.head? == some item

/-- The command spells an event of its row: a frame row's body fits the length field, a QUERY row's
item is the row's own, and a kind or an item said to be unknown is unknown. -/
def Instr.wf : Instr → Bool
  | .announce _ rx => rx.wf
  | .change _ rx => rx.wf
  | .request _ rx => rx.wf
  | .fetch _ rx => rx.wf
  | .state _ rx => rx.wf
  | .recall _ rx => rx.wf
  | .recallReply _ rx => rx.wf
  | .querySummary _ rx => rx.wf && rx.itemIs 1
  | .queryChannel _ rx => rx.wf && rx.itemIs 2
  | .queryPeer _ rx => rx.wf && rx.itemIs 3
  | .queryCounters _ rx => rx.wf && rx.itemIs 4
  | .reply _ rx => rx.wf
  | .restart _ rx => rx.wf
  | .frameOfUnknownKind _ kind rx => rx.wf && (kind == 0 || decide (10 < kind.toNat))
  | .queryUnknownItem _ rx =>
    rx.wf && !(rx.itemIs 1 || rx.itemIs 2 || rx.itemIs 3 || rx.itemIs 4)
  | .powerOn .. | .resetPinAsserted .. | .resetPinReleased .. | .imageRead .. => true
  | .idleDeclaration .. | .lineStuck .. | .attemptBegin .. | .arbitrationLoss .. => true
  | .bitError .. | .answerWindowRead .. | .holdBackExpiry .. | .pendingRestart .. => true
  | .silenceDeadlineExpiry .. | .announceTimerExpiry .. | .listenWindowExpiry .. => true
  | .recallWindowExpiry .. | .confirmDeadlineExpiry .. | .scan .. => true
  | .stuckDeadlineExpiry .. | .holdDeadlineExpiry .. | .repeatDeadlineExpiry .. => true
  | .waitDeadlineExpiry .. | .completeCode .. | .holdMarker .. | .limitPassed .. => true
  | .releaseDeadlineExpiry .. | .emissionFrame .. | .emissionEnd .. | .blankingEnd .. => true
  | .stepDeadlineExpiry .. | .flashEnd .. | .dominantEdge .. | .headerFailed .. => true
  | .irInputEdge .. => true

end Sys2Proof
end

