-- ==== Sys2Proof/Decode.lean ====
section
/-! DEFINITION. Words that spell commands. No row of spec/opcode_table.json gives bits ("fields" is
empty in every row), so no word spells one. The bits of a frame on the line are an operand of the
frame rows; their layout stands in Machine/Operands.lean. -/

namespace Sys2Proof

/-- The command a word of the opcode table spells: none, since no row gives bits. -/
def decodeTableWord (_nbits _w : Nat) : Option Instr := none

end Sys2Proof
end

