-- ==== Sys2Proof/Machine/Lists.lean ====
section
/-! DEFINITION. Helpers over lists, vectors, bits and bytes that the model uses. -/

namespace Sys2Proof.Machine

/-- A vector with a function applied to every element (through the list, which the kernel can
evaluate). -/
def mapV {α β : Type} {n : Nat} (f : α → β) (v : Vector α n) : Vector β n :=
  ⟨(v.toList.map f).toArray, by simp⟩

/-- The indices of a vector whose element has a property, ascending. -/
def indicesV {α : Type} {n : Nat} (p : α → Bool) (v : Vector α n) : List (Fin n) :=
  (List.finRange n).filter fun i => p v[i]

/-- The vector of a function's values (through a list, which the kernel can evaluate). -/
def tabV {α : Type} {n : Nat} (f : Fin n → α) : Vector α n :=
  ⟨((List.finRange n).map f).toArray, by simp⟩

/-- A vector of the elements of a list, with a default beyond its end. -/
def ofListV {α : Type} (n : Nat) (l : List α) (d : α) : Vector α n :=
  ⟨((List.range n).map fun i => l.getD i d).toArray, by simp⟩

/-- All the values, or none if one is missing. -/
def allSome {α : Type} : List (Option α) → Option (List α)
  | [] => some []
  | none :: _ => none
  | some a :: l => (allSome l).map (a :: ·)

/-- The first `k` pieces of `n` elements. -/
def chunks {α : Type} (n : Nat) : Nat → List α → List (List α)
  | 0, _ => []
  | k + 1, l => l.take n :: chunks n k (l.drop n)

/-- All of a list in pieces of `n`, the last one perhaps shorter. -/
def pieces {α : Type} (n : Nat) (l : List α) : List (List α) :=
  chunks n ((l.length + n - 1) / n) l

/-- A function applied to the element at an index. -/
def modifyAt {α : Type} (f : α → α) : Nat → List α → List α
  | _, [] => []
  | 0, a :: l => f a :: l
  | i + 1, a :: l => a :: modifyAt f i l

/-- A function applied to the first element with a property. -/
def modifyFirst {α : Type} (p : α → Bool) (f : α → α) : List α → List α
  | [] => []
  | a :: l => if p a then f a :: l else a :: modifyFirst p f l

/-- A function applied to the last element with a property. -/
def modifyLast {α : Type} (p : α → Bool) (f : α → α) : List α → List α
  | [] => []
  | a :: l => if !l.any p && p a then f a :: l else a :: modifyLast p f l

/-- The list without its last element with a property; none if there is no such element. -/
def removeLast {α : Type} (p : α → Bool) : List α → Option (List α)
  | [] => none
  | a :: l =>
    match removeLast p l with
    | some l' => some (a :: l')
    | none => if p a then some l else none

/-- The list without repeats of an element that stands earlier in it. -/
def firsts {α : Type} [DecidableEq α] : List α → List α
  | [] => []
  | a :: l => a :: (firsts l).filter (· ≠ a)

/-- Every element is below the one after it or equal to nothing before it: no repeats. -/
def noRepeats {α : Type} [DecidableEq α] : List α → Bool
  | [] => true
  | a :: l => !l.contains a && noRepeats l

/-- The bits of a field, most significant first (R1). -/
def msbBits {w : Nat} (x : BitVec w) : List Bool := (List.range w).map fun i => x.getMsbD i

/-- The bits of bytes in line order (R1). -/
def byteBits (bytes : List Byte) : List Bool := bytes.flatMap msbBits

/-- The byte at an offset, 0 beyond the end. -/
def byteAt (l : List Byte) (i : Nat) : Byte := l.getD i 0

/-- The two bytes at an offset as a number, the first more significant (chapter 12). -/
def wordAt (l : List Byte) (i : Nat) : BitVec 16 := byteAt l i ++ byteAt l (i + 1)

/-- The four bytes at an offset as a number, the first more significant (chapter 12). -/
def longAt (l : List Byte) (i : Nat) : BitVec 32 := wordAt l i ++ wordAt l (i + 2)

/-- The two bytes of a 16-bit number, the more significant first (chapter 12). -/
def wordBytes (x : BitVec 16) : List Byte := [(x >>> 8).setWidth 8, x.setWidth 8]

/-- A channel number from a byte that lies in 0–63. -/
def chanOf (b : Byte) : Chan := ⟨b.toNat % 64, Nat.mod_lt _ (by decide)⟩

/-- A channel number as a byte. -/
def chanByte (c : Chan) : Byte := BitVec.ofNat 8 c.val

end Sys2Proof.Machine
end

