-- ==== Sys2Proof/Machine/Timing.lean ====
section
/-! DEFINITION. The durations the manual fixes, in units of 0.5 µs. -/

namespace Sys2Proof.Machine

/-- One µs. -/
def us : Time := 2

/-- One ms. -/
def ms : Time := 2000

/-- One bit time, 50 µs (R1). -/
def bitTime : Time := 100

/-- The dominant part of a bit of value 1, and of a slot's opening edge: 12.5 µs (R1, R17). -/
def shortLow : Time := 25

/-- The dominant part of a bit of value 0, and of an asserted slot: 37.5 µs (R1, R17). -/
def longLow : Time := 75

/-- The line is sampled 25 µs after an edge (R2). -/
def sampleTime : Time := 50

/-- A recessive run of 5 bit times: the line is IDLE (R3). -/
def idleRun : Time := 5 * bitTime

/-- A dominant run of more than 20 bit times: the line is STUCK (R3). -/
def stuckRun : Time := 20 * bitTime

/-- The arbitration bits: class and source (R10). -/
def arbitrationBits : Nat := 7

/-- Hold-back after a failed attempt: 20 ms (R31). -/
def holdBackTime : Time := 20 * ms

/-- Confirm deadline of a SENT request: 250 ms (R84). -/
def confirmTime : Time := 250 * ms

/-- Silence deadline: 300 × p ms for a recorded period p, 12,000 ms without one (R43). -/
def silenceTime : Option Byte → Time
  | some p => 300 * p.toNat * ms
  | none => 12000 * ms

/-- Announce period: units of 100 ms (R48). -/
def periodTime (p : Byte) : Time := 100 * p.toNat * ms

/-- Recall window: 400 ms (R109). -/
def recallTime : Time := 400 * ms

/-- Spacing of scans: 8 ms (R119). -/
def scanTime : Time := 8 * ms

/-- Stuck deadline of a listed key: 30,000 ms (R121). -/
def stuckTime : Time := 30000 * ms

/-- Hold time and repeat period before the image gives its own: 600 ms and 200 ms (R126). -/
def defaultHoldTime : Time := 600 * ms

/-- See `defaultHoldTime`. -/
def defaultRepeatPeriod : Time := 200 * ms

/-- Blanking after the emitter is left with no emission: 10 ms (R142). -/
def blankingTail : Time := 10 * ms

/-- Fade step of a DIM output: 20 ms (R163, R164). -/
def fadeTime : Time := 20 * ms

/-- Pulse period of a load output: 1 ms (R162). -/
def pulseTime : Time := ms

/-- Length of a flash: 600 ms (R169). -/
def flashTime : Time := 600 * ms

/-- Cycle of the pattern clock: 1,000 ms (R167). -/
def patternTime : Time := 1000 * ms

/-- Unit of the remaining time in a PEER reply: 10 ms (R174). -/
def remainingUnit : Time := 10 * ms

end Sys2Proof.Machine
end

