-- ==== Sys2Proof/Machine/State.lean ====
section
/-! DEFINITION. The state of the ZN46, block by block as Figure 0-1 lists them, as plain data; the
reasons a step can stop; and the state right after a power-on reset. -/

namespace Sys2Proof.Machine

/-! ### The Line Unit (chapter 1) -/

/-- The line condition of Table 1-1. -/
inductive LineCondition where
  | idle
  | busy
  | stuck
  deriving DecidableEq, Repr

/-- The seven activity states of R5. -/
inductive Activity where
  | waiting
  | arbitrating
  | sending
  | reading
  | receiving
  | answering
  | ignoring
  deriving DecidableEq, Repr

/-- The slots of the answer window (R17). -/
inductive AnswerSlot where
  | taken
  | declined
  | garbled
  deriving DecidableEq, Repr

/-- A frame less its two checks (Table 1-2). -/
structure Frame where
  cls         : BitVec 2
  source      : Addr
  kind        : BitVec 4
  destination : Addr
  incarnation : Byte
  body        : List Byte
  deriving DecidableEq, Repr

/-- A part of the attempt in which other stations drive the line dominant: from an edge of theirs to their
release. -/
structure Pull where
  start : Time
  stop  : Time
  deriving DecidableEq, Repr

/-- The attempt being transmitted: when its first edge was driven, the frame it holds fixed (R9), and when
other stations have driven the line in it, which its samples show (R2). -/
structure Attempt where
  start : Time
  frame : Frame
  heard : List Pull := []
  deriving DecidableEq, Repr

/-- The slot a receiver has decided to assert, and how many slot edges it has seen since the answer
window began (R17). -/
structure Answer where
  slot : AnswerSlot
  seen : Nat
  deriving DecidableEq, Repr

/-- The level of the line as this station sees it (R3): the last dominant edge, until when other
stations hold the line dominant, until when it is dominant at all, and when the recessive run after
it starts. The line is dominant at a moment before `freed`; the dominant run began at `edge`. -/
structure Wire where
  edge   : Time
  others : Time
  freed  : Time
  quiet  : Time
  deriving DecidableEq, Repr

/-- A line that is recessive from the start (DESIGN CHOICE, log entry 14). -/
def Wire.reset : Wire := { edge := 0, others := 0, freed := 0, quiet := 0 }

/-- The frame being received: its bits as far as edges have spelled them (log entry 22), and the edges of
the last ones, which another edge before their sample can still change (R2). -/
structure Reception where
  bits   : List Bool
  recent : List Time
  deriving DecidableEq, Repr

/-- What the Line Unit holds: the line condition with the runs it is decided by, the frame being
received, the attempt being transmitted. -/
structure LineUnit where
  condition : LineCondition
  activity  : Activity
  attempt   : Option Attempt
  reception : Option Reception
  answer    : Option Answer
  wire      : Wire
  deriving DecidableEq, Repr

/-- R5. -/
def LineUnit.reset : LineUnit :=
  { condition := .busy, activity := .waiting, attempt := none, reception := none, answer := none,
    wire := Wire.reset }

/-! ### The Transmit Queue (chapter 2) -/

/-- A channel number, a value and a version carried together (Table 0-3). -/
structure Triple where
  chan    : Chan
  value   : Byte
  version : Version
  deriving DecidableEq, Repr

/-- An answered pair: requester address and tag, a byte each (12.2). -/
structure Pair where
  address : Byte
  tag     : Byte
  deriving DecidableEq, Repr

/-- The four operations of Table 4-7. -/
inductive Op where
  | set
  | toggle
  | stepUp
  | stepDown
  deriving DecidableEq, Repr

/-- What an entry's body is formed from, by kind (Table 2-2). -/
inductive Content where
  | announce
  | change (triple : Triple) (pairs : List Pair)
  | request (tag : Byte) (chan : Chan) (op : Op) (operand : Byte)
  | fetch (chans : List Chan)
  | state (chans : List Chan)
  | recall (chans : List Chan)
  | recallReply (incarnation : Byte) (chans : List Chan)
  | reply (bytes : List Byte)
  deriving DecidableEq, Repr

/-- The triples an attempt carries, kept with the entry until the attempt's ending (R29). For an
ANNOUNCE the choice is remembered in its two parts, dirty channels and rotation (R73); every other
kind has all its triples in `fixed`. -/
structure Carried where
  fixed  : List Triple
  byTurn : List Triple
  deriving DecidableEq, Repr

/-- A transmit queue entry (Table 2-1). Class is fixed by the content's kind; age is the position
in the queue. -/
structure Entry where
  content     : Content
  destination : Addr
  attempts    : Nat
  holdBack    : Option Time
  onLine      : Bool
  withdrawn   : Bool
  carried     : Carried
  deriving DecidableEq, Repr

/-- The entries, oldest first (R21), and whether an eviction of the present event still owes its
departure notice (R95); the flag is the model's own and is false between steps. -/
structure TxQueue where
  entries : List Entry
  evicted : Bool
  deriving DecidableEq, Repr

/-- R36. -/
def TxQueue.reset : TxQueue := { entries := [], evicted := false }

/-! ### The Peer Table (chapter 3) -/

/-- The presence of a peer record (Table 3-1). -/
inductive Presence where
  | unseen
  | joining
  | present
  | silent
  deriving DecidableEq, Repr

/-- A peer record (Table 3-1). -/
structure PeerRec where
  presence    : Presence
  incarnation : Byte
  period      : Option Byte
  silentAt    : Option Time
  fetchOut    : Bool
  deriving DecidableEq, Repr

/-- R38. -/
def PeerRec.reset : PeerRec :=
  { presence := .unseen, incarnation := 0, period := none, silentAt := none, fetchOut := false }

/-- The peer records by address; index 0 is no station's and is never used (R37). The SELF record
is the own incarnation and the own announce period. -/
structure PeerTable where
  records        : Vector PeerRec 32
  ownIncarnation : Byte
  ownPeriod      : Byte
  announceAt     : Option Time
  deriving DecidableEq, Repr

/-- R38; `ownPeriod` before an image is DESIGN CHOICE 0 (log entry 6). -/
def PeerTable.reset : PeerTable :=
  { records := Vector.replicate 32 PeerRec.reset, ownIncarnation := 0, ownPeriod := 0,
    announceAt := none }

/-! ### The Channel Table (chapter 4) -/

/-- The kind of a channel (Table 0-3). -/
inductive ChanKind where
  | switch
  | level
  | select
  deriving DecidableEq, Repr

/-- The state of a HOME record (Table 4-3). -/
inductive HomeState where
  | recalling
  | live
  | frozen
  deriving DecidableEq, Repr

/-- The state of a MIRROR record (Table 4-4). -/
inductive MirrorState where
  | unknown
  | fresh
  | stale
  deriving DecidableEq, Repr

/-- The HOME fields of Table 4-1; the owner is the own address. `memory` is the memory level of a
LEVEL channel and 0 in every other. -/
structure HomeRec where
  kind            : ChanKind
  value           : Byte
  default         : Byte
  memory          : Byte
  version         : Version
  heldIncarnation : Byte
  state           : HomeState
  dirty           : Bool
  lastOrigin      : Addr
  deriving DecidableEq, Repr

/-- The MIRROR fields of Table 4-1. -/
structure MirrorRec where
  kind            : ChanKind
  owner           : Addr
  value           : Byte
  version         : Version
  heldIncarnation : Byte
  state           : MirrorState
  deriving DecidableEq, Repr

/-- A channel record by its role (R52); an UNUSED record holds only its role. -/
inductive Record where
  | unused
  | home (h : HomeRec)
  | mirror (m : MirrorRec)
  deriving DecidableEq, Repr

/-- The 64 records and the rotation cursor (R52). -/
structure ChannelTable where
  records : Vector Record 64
  cursor  : Chan
  deriving DecidableEq, Repr

/-- R56. -/
def ChannelTable.reset : ChannelTable :=
  { records := Vector.replicate 64 Record.unused, cursor := 0 }

/-! ### The Request Table (chapter 5) -/

/-- Who issued a request (Table 5-1). -/
inductive Originator where
  | binding
  | run (slot : SlotId) (generation : Byte)
  deriving DecidableEq, Repr

/-- QUEUED, or SENT with its confirm deadline (Table 5-1). -/
inductive ReqState where
  | queued
  | sent (deadline : Time)
  deriving DecidableEq, Repr

/-- A request entry (Table 5-1). -/
structure ReqEntry where
  tag     : Byte
  chan    : Chan
  op      : Op
  operand : Byte
  owner   : Addr
  state   : ReqState
  origin  : Originator
  deriving DecidableEq, Repr

/-- The outcomes of a request that has an entry (Table 5-3). -/
inductive ReqOutcome where
  | confirmed
  | declined
  | unreachable
  | unconfirmed
  | cancelled
  deriving DecidableEq, Repr

/-- The entries, the tag counter (R81) and the waiting order of run slots (R94). -/
structure RequestTable where
  entries    : List ReqEntry
  tagCounter : Byte
  waiting    : List SlotId
  deriving DecidableEq, Repr

/-- R97. -/
def RequestTable.reset : RequestTable := { entries := [], tagCounter := 0, waiting := [] }

/-! ### The Start Controller (chapter 6) -/

/-- The six station states (Table 0-2). -/
inductive StationState where
  | loading
  | configFault
  | listening
  | joining
  | active
  | addressConflict
  deriving DecidableEq, Repr

/-- What began the present start (Table 6-1). -/
inductive StartCause where
  | power
  | pin
  | line
  deriving DecidableEq, Repr

/-- Why the last LOADING failed (Table 6-1). -/
inductive FaultCode where
  | none
  | badAddress
  | noMemory
  | badSignature
  | badLength
  | badCheck
  | badSetting
  | badChannel
  | badMap
  | badCodeSet
  | badBinding
  | badMacro
  deriving DecidableEq, Repr

/-- What holds every block at its reset values (R99): nothing, the asserted reset pin, or a
power-on sequence that has not ended. -/
inductive Hold where
  | none
  | pin
  | powerSequence
  deriving DecidableEq, Repr

/-- The recall collection (R110): the latest incarnation reported and the triples kept under it. -/
structure Collection where
  latest  : Byte
  triples : List Triple
  deriving DecidableEq, Repr

/-- The fields of Table 6-1 (the own incarnation stands in the SELF record, R98), the listen window
duration of the image, the bytes of the image read so far (R101), and what holds the part (R99). -/
structure StartController where
  hold         : Hold
  state        : StationState
  ownAddress   : Addr
  cause        : StartCause
  count        : Byte
  fault        : FaultCode
  imageId      : BitVec 16
  listenWindow : Time
  listenAt     : Option Time
  recallsOut   : Nat
  recallAt     : Option Time
  collection   : Option Collection
  loaded       : List Byte
  deriving DecidableEq, Repr

/-- R98 and R99 for a power-on; the part is still in its power-on sequence. The own address before
the straps are read is DESIGN CHOICE 0 (log entry 4), and so is the listen window duration before
an image (log entry 6). -/
def StartController.reset : StartController :=
  { hold := .powerSequence, state := .loading, ownAddress := 0, cause := .power, count := 1,
    fault := .none, imageId := 0, listenWindow := 0, listenAt := none, recallsOut := 0,
    recallAt := none, collection := none, loaded := [] }

/-! ### The Key Scanner and the Gesture Unit (chapter 7) -/

/-- The debounced state of a key, with the condition of a DOWN key (Table 7-2). -/
inductive KeyState where
  | up
  | listed
  | ignored
  | stuck
  | heldAtStart
  deriving DecidableEq, Repr

/-- Debounced state and disagreement count of a key (R120). -/
structure KeyRec where
  state : KeyState
  count : Nat
  deriving DecidableEq, Repr

/-- An entry of the pressed-key list (R121). -/
structure Pressed where
  key     : Key
  stuckAt : Time
  deriving DecidableEq, Repr

/-- The keys, the pressed-key list (oldest first), the settling scans still to come (R125), and
when the next scan begins (R119). -/
structure KeyScanner where
  keys     : Vector KeyRec 48
  pressed  : List Pressed
  settling : Nat
  scanAt   : Option Time
  deriving DecidableEq, Repr

/-- R125. -/
def KeyScanner.reset : KeyScanner :=
  { keys := Vector.replicate 48 { state := .up, count := 0 }, pressed := [], settling := 3,
    scanAt := none }

/-- The source of a gesture, and of a binding (Table 7-3, Table 9-1). -/
inductive Source where
  | key (k : Key)
  | ir (set : SetId) (code : CodeValue)
  deriving DecidableEq, Repr

/-- The five gestures (R130). -/
inductive Trigger where
  | press
  | shortRelease
  | hold
  | repeated
  | release
  deriving DecidableEq, Repr

/-- SHORT with its hold deadline, HELD with its repeat deadline (Table 7-3). -/
inductive Phase where
  | short (holdAt : Time)
  | held (repeatAt : Time)
  deriving DecidableEq, Repr

/-- A gesture tracker (Table 7-3). -/
structure Tracker where
  source : Source
  phase  : Phase
  deriving DecidableEq, Repr

/-- The two settings (R126) and the trackers, those of keys in the order of the pressed-key list. -/
structure GestureUnit where
  holdTime     : Time
  repeatPeriod : Time
  trackers     : List Tracker
  deriving DecidableEq, Repr

/-- R126. -/
def GestureUnit.reset : GestureUnit :=
  { holdTime := defaultHoldTime, repeatPeriod := defaultRepeatPeriod, trackers := [] }

/-! ### Infrared (chapter 8) -/

/-- A code set (Table 8-1): durations in µs, frame period and release timeout in ms, carrier in kHz,
tolerance in %. -/
structure CodeSet where
  leaderMark     : Nat
  leaderSpace    : Nat
  bitMark        : Nat
  zeroSpace      : Nat
  oneSpace       : Nat
  holdSpace      : Nat
  bitCount       : Nat
  framePeriod    : Nat
  releaseTimeout : Nat
  carrier        : Nat
  tolerance      : Nat
  deriving DecidableEq, Repr

/-- What the stop mark will complete (Table 8-3). -/
inductive IrResult where
  | code (value : CodeValue)
  | hold
  deriving DecidableEq, Repr

/-- The decoder (Table 8-3): each state with the fields that mean something in it. -/
inductive Decoder where
  | idle
  | leader (set : SetId)
  | bits (set : SetId) (read : Nat) (value : CodeValue)
  | stop (set : SetId) (result : IrResult)
  deriving DecidableEq, Repr

/-- The release deadline of the held code: running, or suspended with the time that remains
(R142). -/
inductive Release where
  | running (deadline : Time)
  | suspended (remaining : Time)
  deriving DecidableEq, Repr

/-- The held code (R137). -/
structure HeldCode where
  set     : SetId
  value   : CodeValue
  release : Release
  deriving DecidableEq, Repr

/-- Blanking (R142): off, on while an emission is current, or on until a time. -/
inductive Blanking where
  | off
  | on
  | ending (deadline : Time)
  deriving DecidableEq, Repr

/-- The IR Receiver: the code sets (R131), the decoder, the start of the interval being measured,
the level of the input pin (true in a mark), the held code and blanking. -/
structure IrReceiver where
  codeSets : List CodeSet
  decoder  : Decoder
  since    : Option Time
  level    : Bool
  held     : Option HeldCode
  blanking : Blanking
  deriving DecidableEq, Repr

/-- R131, R139; the input level at reset is DESIGN CHOICE inactive (log entry 7). -/
def IrReceiver.reset : IrReceiver :=
  { codeSets := [], decoder := .idle, since := none, level := false, held := none, blanking := .off }

/-- An emission: code set, code value and repeat count 1–8 (R140). -/
structure Emission where
  set     : SetId
  code    : CodeValue
  repeats : Nat
  deriving DecidableEq, Repr

/-- The current emission, how many of its frames have begun, and when the latest one began
(R141). -/
structure Current where
  emission   : Emission
  begun      : Nat
  frameStart : Time
  deriving DecidableEq, Repr

/-- The IR Emitter (R140, R144). -/
structure Emitter where
  current : Option Current
  queue   : List Emission
  waiting : List SlotId
  deriving DecidableEq, Repr

/-- R145. -/
def Emitter.reset : Emitter := { current := none, queue := [], waiting := [] }

/-! ### Bindings and macros (chapter 9) -/

/-- The action of a binding (Table 9-1). -/
inductive Action where
  | channel (chan : Chan) (op : Op) (operand : Byte)
  | start (m : MacroId)
  | stop (m : MacroId)
  | emit (emission : Emission)
  deriving DecidableEq, Repr

/-- A binding record (Table 9-1). -/
structure Binding where
  source    : Source
  trigger   : Trigger
  condition : Option (Chan × Byte)
  action    : Action
  deriving DecidableEq, Repr

/-- A macro step (Table 9-2); a WAIT's duration in ms. -/
inductive Step where
  | channel (chan : Chan) (op : Op) (operand : Byte)
  | wait (duration : Nat)
  | confirm (stopOnFail : Bool)
  | emit (emission : Emission)
  | call (m : MacroId)
  deriving DecidableEq, Repr

/-- The state of a run slot (Table 9-3), the deadline and the waiting-since time where they are
present. `performing` stands only inside an event, while the run performs steps (9.6); it is the
model's own. -/
inductive RunState where
  | idle
  | performing
  | waitTime (deadline : Time)
  | waitConfirm
  | waitTable (since : Time)
  | waitEmitter (since : Time)
  deriving DecidableEq, Repr

/-- A run slot (Table 9-3). A call stack record is a macro and the step to return to; the top of
the stack is the head of the list. -/
structure RunSlot where
  state       : RunState
  root        : MacroId
  current     : MacroId
  step        : Nat
  stack       : List (MacroId × Nat)
  outstanding : List Byte
  failed      : Bool
  generation  : Byte
  deriving DecidableEq, Repr

/-- R155; root, current and step are meaningless in IDLE and stand at 0 (log entry 6). -/
def RunSlot.reset : RunSlot :=
  { state := .idle, root := 0, current := 0, step := 0, stack := [], outstanding := [],
    failed := false, generation := 0 }

/-- The macro table (R154) and the two run slots (R155). -/
structure MacroRunner where
  table : List (List Step)
  slots : Vector RunSlot 2
  deriving DecidableEq, Repr

/-- R154, R155. -/
def MacroRunner.reset : MacroRunner := { table := [], slots := Vector.replicate 2 RunSlot.reset }

/-! ### Load outputs and indicators (chapter 10) -/

/-- How a value becomes a target (Table 10-1): DIM with its fade rate, MATCH with its match value. -/
inductive OutputMode where
  | switch
  | dim (rate : Byte)
  | matched (value : Byte)
  deriving DecidableEq, Repr

/-- The image's part of a load output. -/
structure OutputMap where
  chan : Chan
  mode : OutputMode
  deriving DecidableEq, Repr

/-- A load output (Table 10-1); no map means unused. `shown` is the duty driven in the present
pulse period (R162). -/
structure LoadOutput where
  map    : Option OutputMap
  duty   : Byte
  target : Byte
  stepAt : Option Time
  shown  : Byte
  deriving DecidableEq, Repr

/-- R162. -/
def LoadOutput.reset : LoadOutput :=
  { map := none, duty := 0, target := 0, stepAt := none, shown := 0 }

/-- An emit map entry (R166); no value means ANY. -/
structure EmitEntry where
  chan     : Chan
  value    : Option Byte
  emission : Emission
  deriving DecidableEq, Repr

/-- The load outputs, the emit map, and the phase of the pulse period, which the manual leaves open; that
the eight outputs have one pulse period in common is the model's choice (DESIGN CHOICE, log entry 8). -/
structure OutputUnit where
  loads      : Vector LoadOutput 8
  emitMap    : List EmitEntry
  pulsePhase : Time
  deriving DecidableEq, Repr

/-- R162, R166. -/
def OutputUnit.reset : OutputUnit :=
  { loads := Vector.replicate 8 LoadOutput.reset, emitMap := [], pulsePhase := 0 }

/-- What an indicator is mapped to (10.3). -/
inductive IndicatorMap where
  | none
  | station
  | channel (chan : Chan) (value : Option Byte)
  deriving DecidableEq, Repr

/-- An indicator: its map, and the end of a running flash (R169). -/
structure Indicator where
  map   : IndicatorMap
  flash : Option Time
  deriving DecidableEq, Repr

/-- The indicators and the moment the pattern clock started (R167). -/
structure IndicatorUnit where
  indicators : Vector Indicator 8
  clockStart : Time
  deriving DecidableEq, Repr

/-- R168, R170. -/
def IndicatorUnit.reset : IndicatorUnit :=
  { indicators := Vector.replicate 8 { map := .none, flash := none }, clockStart := 0 }

/-! ### The Service Responder (chapter 11) -/

/-- The 14 counters of Table 11-1. -/
inductive Counter where
  | framesTaken
  | framesGarbled
  | headerFailures
  | framesCut
  | framesMalformed
  | framesDelivered
  | attemptsFailed
  | arbitrationLosses
  | lineStuckEvents
  | ownershipConflicts
  | lateRecallReplies
  | inputsDiscarded
  | emissionsDropped
  | requestsFailed
  deriving DecidableEq, Repr

/-- The values of the counters, in the order of Table 11-1. -/
structure Counters where
  framesTaken        : BitVec 16
  framesGarbled      : BitVec 16
  headerFailures     : BitVec 16
  framesCut          : BitVec 16
  framesMalformed    : BitVec 16
  framesDelivered    : BitVec 16
  attemptsFailed     : BitVec 16
  arbitrationLosses  : BitVec 16
  lineStuckEvents    : BitVec 16
  ownershipConflicts : BitVec 16
  lateRecallReplies  : BitVec 16
  inputsDiscarded    : BitVec 16
  emissionsDropped   : BitVec 16
  requestsFailed     : BitVec 16
  deriving DecidableEq, Repr

/-- R171. -/
def Counters.reset : Counters :=
  { framesTaken := 0, framesGarbled := 0, headerFailures := 0, framesCut := 0,
    framesMalformed := 0, framesDelivered := 0, attemptsFailed := 0, arbitrationLosses := 0,
    lineStuckEvents := 0, ownershipConflicts := 0, lateRecallReplies := 0, inputsDiscarded := 0,
    emissionsDropped := 0, requestsFailed := 0 }

/-- The pending-restart flag (R176): clear, set to be acted on at the end of the third slot, or set
to be acted on when the line next becomes IDLE. -/
inductive PendingRestart where
  | clear
  | atTime (t : Time)
  | atIdle
  deriving DecidableEq, Repr

/-- The counters and the pending-restart flag. -/
structure ServiceResponder where
  counters : Counters
  restart  : PendingRestart
  deriving DecidableEq, Repr

/-- R171, R176. -/
def ServiceResponder.reset : ServiceResponder := { counters := Counters.reset, restart := .clear }

/-! ### The whole part -/

/-- What an event still does, part by part, where events of its instant come before a grant of it (R96,
R144; log entry 37): a grant occasion of the Request Table (R95) or of the IR Emitter (R144); the end of
a request behind its withdrawal, or behind its grant (R90); the requests still to be cancelled (R88); an
answered pair of a CHANGE (R85); a FETCH decision (R75); and, behind the evidence of a frame, its
hand-over with the answer, or the answer to a malformed one (R15, R16). -/
inductive Owing where
  | table
  | emitter
  | removal (entry : ReqEntry) (outcome : ReqOutcome)
  | conclusion (entry : ReqEntry) (outcome : ReqOutcome)
  | cancels (tags : List Byte)
  | pair (source : Addr) (channel : Chan) (pair : Pair)
  | fetch (source : Addr)
  | handing (frame : Frame) (notice : Bool)
  | malformed (frame : Frame) (notice : Bool)
  deriving DecidableEq, Repr

/-- The state of the part. `now`, `draws`, `rival`, `owed`, `taken` and `pending` are the model's own: its
clock, its count of free choices, which grant of the event that is running its next rival comes before and
what it owes behind it (0, for none, and empty between steps), how many commands at the front of the queue have
had their effect as rivals, and the commands waiting, first in first out. -/
structure State where
  now        : Time
  draws      : Nat
  rival      : Nat
  owed       : List Owing
  taken      : Nat
  pending    : List Instr
  line       : LineUnit
  queue      : TxQueue
  peers      : PeerTable
  channels   : ChannelTable
  requests   : RequestTable
  start      : StartController
  scanner    : KeyScanner
  gestures   : GestureUnit
  ir         : IrReceiver
  emitter    : Emitter
  bindings   : List Binding
  macros     : MacroRunner
  outputs    : OutputUnit
  indicators : IndicatorUnit
  service    : ServiceResponder
  deriving DecidableEq, Repr

/-- The part right after a power-on reset: every block at its power-on values, start cause POWER and
start count 1 (R99), and the power-on sequence not yet ended (POWER_ON ends it). Nothing is
pending. -/
def State.reset : State :=
  { now := 0, draws := 0, rival := 0, owed := [], taken := 0, pending := [],
    line := LineUnit.reset, queue := TxQueue.reset,
    peers := PeerTable.reset, channels := ChannelTable.reset, requests := RequestTable.reset,
    start := StartController.reset, scanner := KeyScanner.reset, gestures := GestureUnit.reset,
    ir := IrReceiver.reset, emitter := Emitter.reset, bindings := [], macros := MacroRunner.reset,
    outputs := OutputUnit.reset, indicators := IndicatorUnit.reset,
    service := ServiceResponder.reset }

/-- The reasons a step can fault: none. The manual names no event that stops the part; CONFIG_FAULT
and ADDRESS_CONFLICT are station states and next states here. -/
inductive Fault where
  deriving DecidableEq, Repr

/-- The reasons a step can be refused. -/
inductive Refusal where
  /-- Raised by an arm of `exec` whose command has no meaning yet; safe, since nothing runs. No arm
  raises it. -/
  | notModelled (mnemonic : String)
  deriving DecidableEq, Repr

end Sys2Proof.Machine
end

