-- ==== Sys2Proof/Machine/Operands.lean ====
section
/-! DEFINITION. The operands of the commands: check computations, frame and body layouts, the codes
carried in them, the circular orders, and the operations on channel values (chapters 1, 4 and 12). -/

namespace Sys2Proof.Machine

/-! ### Checks (Table 12-1) -/

/-- One bit into a check register (R7, R8, R102): the register shifts toward its most significant
end, and the bits `flip` are inverted if the bit and the former most significant bit differ. -/
def checkBit {w : Nat} (flip : BitVec w) (reg : BitVec w) (b : Bool) : BitVec w :=
  if b ^^ reg.msb then (reg <<< 1) ^^^ flip else reg <<< 1

/-- The header check of 28 bits: x^4 + x + 1, starting at 0 (R7). -/
def headerCheckOf (bits : List Bool) : BitVec 4 := bits.foldl (checkBit 0x3#4) 0x0#4

/-- The frame check: x^8 + x^2 + x + 1, starting at all ones (R8). -/
def frameCheckOf (bits : List Bool) : BitVec 8 := bits.foldl (checkBit 0x07#8) 0xFF#8

/-- The image check: x^16 + x^12 + x^5 + 1, starting at all ones (R102). -/
def imageCheckOf (bits : List Bool) : BitVec 16 := bits.foldl (checkBit 0x1021#16) 0xFFFF#16

/-! ### Frames on the line (Table 1-2, Figure 12-1) -/

/-- The 28 header bits before the header check, in line order. -/
def Frame.headBits (f : Frame) : List Bool :=
  msbBits f.cls ++ msbBits f.source ++ msbBits f.kind ++ msbBits f.destination ++
    msbBits f.incarnation ++ msbBits (BitVec.ofNat 4 f.body.length)

/-- The header check the frame should carry (R7). -/
def Frame.headerCheck (f : Frame) : BitVec 4 := headerCheckOf f.headBits

/-- The frame check over the 32 header bits, with the given header check, and the body (R8). -/
def Frame.frameCheckWith (f : Frame) (headerCheck : BitVec 4) : BitVec 8 :=
  frameCheckOf (f.headBits ++ msbBits headerCheck ++ byteBits f.body)

/-- The frame check the frame should carry (R8). -/
def Frame.frameCheck (f : Frame) : BitVec 8 := f.frameCheckWith f.headerCheck

/-- The bits of a frame with given checks, from the first class bit to the last frame check bit. -/
def Frame.bitsWith (f : Frame) (headerCheck : BitVec 4) (frameCheck : BitVec 8) : List Bool :=
  f.headBits ++ msbBits headerCheck ++ byteBits f.body ++ msbBits frameCheck

/-- The bits a transmitter sends before the answer window. -/
def Frame.bits (f : Frame) : List Bool := f.bitsWith f.headerCheck f.frameCheck

/-- Bit times from the first edge to the end of the frame check: 40 + 8b (Table 1-2). -/
def Frame.bitCount (f : Frame) : Nat := 40 + 8 * f.body.length

/-- The frame a receiver reads, with the kind code of its row. -/
def frameOf (kind : BitVec 4) (rx : Rx) : Frame :=
  { cls := rx.cls, source := rx.source, kind := kind, destination := rx.destination,
    incarnation := rx.incarnation, body := rx.body }

/-- A frame as a receiver reads it when no bit was changed on the way. -/
def Frame.toRx (f : Frame) : Rx :=
  { cls := f.cls, source := f.source, destination := f.destination,
    incarnation := f.incarnation, body := f.body, headerCheck := f.headerCheck,
    frameCheck := f.frameCheck }

/-- All the bits read of a frame. -/
def rxBits (kind : BitVec 4) (rx : Rx) : List Bool :=
  (frameOf kind rx).bitsWith rx.headerCheck rx.frameCheck

/-- The header passes: its check agrees and it does not declare a length of 15 (R7). -/
def headerPasses (kind : BitVec 4) (rx : Rx) : Bool :=
  decide (rx.body.length < 15) && (frameOf kind rx).headerCheck == rx.headerCheck

/-- The frame check agrees (R8). -/
def checkPasses (kind : BitVec 4) (rx : Rx) : Bool :=
  (frameOf kind rx).frameCheckWith rx.headerCheck == rx.frameCheck

/-! ### Frame kinds (Table 1-5) -/

/-- The kind codes of Table 1-5. -/
def kindAnnounce : BitVec 4 := 1
/-- Table 1-5. -/
def kindChange : BitVec 4 := 2
/-- Table 1-5. -/
def kindRequest : BitVec 4 := 3
/-- Table 1-5. -/
def kindFetch : BitVec 4 := 4
/-- Table 1-5. -/
def kindState : BitVec 4 := 5
/-- Table 1-5. -/
def kindRecall : BitVec 4 := 6
/-- Table 1-5. -/
def kindRecallReply : BitVec 4 := 7
/-- Table 1-5. -/
def kindQuery : BitVec 4 := 8
/-- Table 1-5. -/
def kindReply : BitVec 4 := 9
/-- Table 1-5. -/
def kindRestart : BitVec 4 := 10

/-- The class of a kind (Table 1-5). -/
def kindClass : Nat → BitVec 2
  | 1 => 2
  | 2 => 1
  | 3 => 0
  | 4 => 2
  | 5 => 1
  | 6 => 2
  | 7 => 1
  | _ => 3

/-- ANNOUNCE, CHANGE and RECALL are broadcast kinds; the others are addressed (Table 1-5). -/
def kindBroadcast : Nat → Bool
  | 1 => true
  | 2 => true
  | 6 => true
  | _ => false

/-- The body lengths of a kind (Table 1-5). -/
def kindLength (kind len : Nat) : Bool :=
  match kind with
  | 1 => [1, 5, 9, 13].contains len
  | 2 => [4, 6, 8, 10, 12].contains len
  | 3 => len == 4
  | 4 => decide (1 ≤ len ∧ len ≤ 8)
  | 5 => [4, 8, 12].contains len
  | 6 => decide (len ≤ 14)
  | 7 => [1, 5, 9, 13].contains len
  | 8 => len == 2
  | 9 => decide (2 ≤ len ∧ len ≤ 14)
  | 10 => len == 1
  | _ => false

/-! ### Bodies (Table 12-2) -/

/-- A triple as it stands in a body, its channel byte not yet judged. -/
structure RawTriple where
  chan    : Byte
  value   : Byte
  version : Version
  deriving DecidableEq, Repr

/-- The triples of a run of bytes, 4 bytes each; the version is the low 12 bits of its field
(R178). -/
def rawTriples : List Byte → List RawTriple
  | c :: v :: h :: l :: rest =>
    { chan := c, value := v, version := (h ++ l : BitVec 16).setWidth 12 } :: rawTriples rest
  | _ => []

/-- The triples of a frame's body, at the positions its length gives them (R15, Table 12-2). -/
def bodyTriples (kind : Nat) (body : List Byte) : List RawTriple :=
  match kind with
  | 1 => rawTriples (body.drop 1)
  | 2 => rawTriples (body.take 4)
  | 5 => rawTriples body
  | 7 => rawTriples (body.drop 1)
  | _ => []

/-- Every channel number a body carries (R15). -/
def bodyChans (kind : Nat) (body : List Byte) : List Byte :=
  match kind with
  | 3 => [byteAt body 1]
  | 4 => body
  | 6 => body
  | _ => (bodyTriples kind body).map RawTriple.chan

/-- The triples of a well-formed body. -/
def triplesOf (kind : BitVec 4) (body : List Byte) : List Triple :=
  (bodyTriples kind.toNat body).map fun t =>
    { chan := chanOf t.chan, value := t.value, version := t.version }

/-- The answered pairs of a run of bytes, 2 bytes each. -/
def rawPairs : List Byte → List Pair
  | a :: t :: rest => { address := a, tag := t } :: rawPairs rest
  | _ => []

/-- The bytes of a triple; the four high bits of the version field are 0 (R178). -/
def Triple.bytes (t : Triple) : List Byte :=
  [chanByte t.chan, t.value] ++ wordBytes (t.version.setWidth 16)

/-- The bytes of an answered pair. -/
def Pair.bytes (p : Pair) : List Byte := [p.address, p.tag]

/-! ### Codes (Table 12-3) -/

/-- Table 12-3. -/
def Op.code : Op → Byte
  | .set => 1
  | .toggle => 2
  | .stepUp => 3
  | .stepDown => 4

/-- Table 12-3; other codes are no operation (R64). -/
def Op.ofCode (b : Byte) : Option Op :=
  match b.toNat with
  | 1 => some .set
  | 2 => some .toggle
  | 3 => some .stepUp
  | 4 => some .stepDown
  | _ => none

/-- Table 12-3. -/
def StationState.code : StationState → Byte
  | .loading => 0
  | .configFault => 1
  | .listening => 2
  | .joining => 3
  | .active => 4
  | .addressConflict => 5

/-- Table 12-3. -/
def StartCause.code : StartCause → Byte
  | .power => 1
  | .pin => 2
  | .line => 3

/-- Table 12-3. -/
def FaultCode.code : FaultCode → Byte
  | .none => 0
  | .badAddress => 1
  | .noMemory => 2
  | .badSignature => 3
  | .badLength => 4
  | .badCheck => 5
  | .badSetting => 6
  | .badChannel => 7
  | .badMap => 8
  | .badCodeSet => 9
  | .badBinding => 10
  | .badMacro => 11

/-- Table 12-3. -/
def ChanKind.code : ChanKind → Byte
  | .switch => 1
  | .level => 2
  | .select => 3

/-- Table 12-3. -/
def HomeState.code : HomeState → Byte
  | .recalling => 1
  | .live => 2
  | .frozen => 3

/-- Table 12-3. -/
def MirrorState.code : MirrorState → Byte
  | .unknown => 4
  | .fresh => 5
  | .stale => 6

/-- Table 12-3; 4 is SELF. -/
def Presence.code : Presence → Byte
  | .unseen => 0
  | .joining => 1
  | .present => 2
  | .silent => 3

/-! ### Circular orders -/

/-- Version n is newer than version m: (n − m) mod 4096 lies in 1–2047 (R53). -/
def newer (n m : Version) : Bool := decide (1 ≤ (n - m).toNat ∧ (n - m).toNat ≤ 2047)

/-- (a − b) mod 255 for incarnations 1–255. -/
def incarnationGap (a b : Byte) : Nat := (a.toNat + 255 - b.toNat) % 255

/-- Incarnation a is later than incarnation b: (a − b) mod 255 lies in 1–127 (Table 0-3, 3.2). -/
def later (a b : Byte) : Bool := decide (1 ≤ incarnationGap a b ∧ incarnationGap a b ≤ 127)

/-- The incarnation chosen at join completion from the latest one reported, 0 for none (R114). -/
def nextIncarnation (latest : Byte) : Byte := if latest = 255 then 1 else latest + 1

/-! ### Channel values and operations (4.4) -/

/-- The value lies within the kind's range (Table 0-3). -/
def ChanKind.holds : ChanKind → Byte → Bool
  | .switch, v => decide (v.toNat ≤ 1)
  | .level, _ => true
  | .select, v => decide (v.toNat ≤ 15)

/-- The operation is valid for the kind with this operand (R64). -/
def opValid : ChanKind → Op → Byte → Bool
  | k, .set, v => k.holds v
  | .switch, .toggle, _ => true
  | .level, .toggle, _ => true
  | .select, .toggle, _ => false
  | .switch, .stepUp, _ => false
  | .switch, .stepDown, _ => false
  | .level, .stepUp, n => n != 0
  | .level, .stepDown, n => n != 0
  | .select, .stepUp, n => n != 0
  | .select, .stepDown, n => n != 0

/-- The result of a valid operation from the value and the memory level held (Table 4-7). Rows the
table declines leave the value; `opValid` keeps them out. -/
def opResult (k : ChanKind) (op : Op) (operand value memory : Byte) : Byte :=
  match k, op with
  | _, .set => operand
  | .switch, .toggle => 1 - value
  | .level, .toggle => if value = 0 then memory else 0
  | .level, .stepUp => BitVec.ofNat 8 (min 255 (value.toNat + operand.toNat))
  | .level, .stepDown => BitVec.ofNat 8 (value.toNat - operand.toNat)
  | .select, .stepUp => BitVec.ofNat 8 ((value.toNat + operand.toNat) % 16)
  | .select, .stepDown => BitVec.ofNat 8 ((value.toNat + 256 - operand.toNat) % 16)
  | _, _ => value

/-- The operand a REQUEST carries: 0 for a TOGGLE (R178). -/
def sentOperand (op : Op) (operand : Byte) : Byte := if op = .toggle then 0 else operand

/-! ### Records -/

/-- The kind of a HOME or MIRROR record. -/
def Record.kind? : Record → Option ChanKind
  | .unused => none
  | .home h => some h.kind
  | .mirror m => some m.kind

/-- The record is HOME. -/
def Record.isHome : Record → Bool
  | .home _ => true
  | _ => false

/-- The record is MIRROR. -/
def Record.isMirror : Record → Bool
  | .mirror _ => true
  | _ => false

/-- The record is a MIRROR of a channel owned by s that has a property. -/
def Record.mirrorOf (r : Record) (s : Addr) (p : MirrorRec → Bool) : Bool :=
  match r with
  | .mirror m => m.owner == s && p m
  | _ => false

/-- A triple's value lies within the kind of a channel declared here (R15). -/
def Record.admits (r : Record) (v : Byte) : Bool :=
  match r.kind? with
  | some k => k.holds v
  | none => true

/-- The tests of Table 1-5 on a valid frame (R15). -/
def wellFormed (records : Vector Record 64) (f : Frame) : Bool :=
  f.source != 0
  && decide (1 ≤ f.kind.toNat ∧ f.kind.toNat ≤ 10)
  && f.cls == kindClass f.kind.toNat
  && (kindBroadcast f.kind.toNat == (f.destination == 0))
  && kindLength f.kind.toNat f.body.length
  && (bodyChans f.kind.toNat f.body).all (fun c => decide (c.toNat < 64))
  && (!(f.kind == kindAnnounce || f.kind == kindChange || f.kind == kindState)
      || f.incarnation != 0)
  && (f.kind != kindRecallReply || byteAt f.body 0 != 0)
  && (f.kind != kindAnnounce
      || decide (5 ≤ (byteAt f.body 0).toNat ∧ (byteAt f.body 0).toNat ≤ 40))
  && (bodyTriples f.kind.toNat f.body).all (fun t => records[chanOf t.chan].admits t.value)

end Sys2Proof.Machine
end

