-- ==== Sys2Proof/Machine/Flags.lean ====
section
/-! DEFINITION. Flags, conditions and counters computed from the state's parts: the conditions of a
queue entry, the room of the queue, the dirty flag, the states in which a block acts. -/

namespace Sys2Proof.Machine

/-! ### Counters (R171) -/

/-- A 16-bit counter incremented, staying at 65535 (R171). -/
def satInc (c : BitVec 16) : BitVec 16 := if c = 0xFFFF#16 then c else c + 1

/-- The value of a counter. -/
def Counters.get (c : Counters) : Counter → BitVec 16
  | .framesTaken => c.framesTaken
  | .framesGarbled => c.framesGarbled
  | .headerFailures => c.headerFailures
  | .framesCut => c.framesCut
  | .framesMalformed => c.framesMalformed
  | .framesDelivered => c.framesDelivered
  | .attemptsFailed => c.attemptsFailed
  | .arbitrationLosses => c.arbitrationLosses
  | .lineStuckEvents => c.lineStuckEvents
  | .ownershipConflicts => c.ownershipConflicts
  | .lateRecallReplies => c.lateRecallReplies
  | .inputsDiscarded => c.inputsDiscarded
  | .emissionsDropped => c.emissionsDropped
  | .requestsFailed => c.requestsFailed

/-- One counter incremented (R171). -/
def Counters.inc (c : Counters) : Counter → Counters
  | .framesTaken => { c with framesTaken := satInc c.framesTaken }
  | .framesGarbled => { c with framesGarbled := satInc c.framesGarbled }
  | .headerFailures => { c with headerFailures := satInc c.headerFailures }
  | .framesCut => { c with framesCut := satInc c.framesCut }
  | .framesMalformed => { c with framesMalformed := satInc c.framesMalformed }
  | .framesDelivered => { c with framesDelivered := satInc c.framesDelivered }
  | .attemptsFailed => { c with attemptsFailed := satInc c.attemptsFailed }
  | .arbitrationLosses => { c with arbitrationLosses := satInc c.arbitrationLosses }
  | .lineStuckEvents => { c with lineStuckEvents := satInc c.lineStuckEvents }
  | .ownershipConflicts => { c with ownershipConflicts := satInc c.ownershipConflicts }
  | .lateRecallReplies => { c with lateRecallReplies := satInc c.lateRecallReplies }
  | .inputsDiscarded => { c with inputsDiscarded := satInc c.inputsDiscarded }
  | .emissionsDropped => { c with emissionsDropped := satInc c.emissionsDropped }
  | .requestsFailed => { c with requestsFailed := satInc c.requestsFailed }

/-- The counters of a COUNTERS group, in the order of Table 11-1 (R173). -/
def counterGroup : Nat → List Counter
  | 0 => [.framesTaken, .framesGarbled, .headerFailures, .framesCut, .framesMalformed,
      .framesDelivered]
  | 1 => [.attemptsFailed, .arbitrationLosses, .lineStuckEvents, .ownershipConflicts,
      .lateRecallReplies, .inputsDiscarded]
  | 2 => [.emissionsDropped, .requestsFailed]
  | _ => []

/-- The start count one higher, saturating at 255 (R99). -/
def countUp (c : Byte) : Byte := if c = 255 then 255 else c + 1

/-! ### Station states -/

/-- LISTENING, JOINING and ACTIVE: taken frames are handed by kind, evidence reaches the Peer Table
and an address conflict is detected (R16, R39, R50). -/
def StationState.hearsPeers : StationState → Bool
  | .listening => true
  | .joining => true
  | .active => true
  | _ => false

/-- JOINING and ACTIVE: any attempt, any answer slot (R6). -/
def StationState.onTheLine : StationState → Bool
  | .joining => true
  | .active => true
  | _ => false

/-! ### Entries of the Transmit Queue -/

/-- The code of an entry's kind (Table 1-5). -/
def Content.kind : Content → BitVec 4
  | .announce => kindAnnounce
  | .change _ _ => kindChange
  | .request .. => kindRequest
  | .fetch _ => kindFetch
  | .state _ => kindState
  | .recall _ => kindRecall
  | .recallReply _ _ => kindRecallReply
  | .reply _ => kindReply

/-- The class of an entry's kind (Table 1-5). -/
def Content.cls (c : Content) : Nat := (kindClass c.kind.toNat).toNat

/-- The entry is an ANNOUNCE. -/
def Content.isAnnounce : Content → Bool
  | .announce => true
  | _ => false

/-- The entry is a REPLY. -/
def Content.isReply : Content → Bool
  | .reply _ => true
  | _ => false

/-- The entry is a CHANGE for channel c. -/
def Content.isChangeOf (c : Chan) : Content → Bool
  | .change t _ => t.chan == c
  | _ => false

/-- The entry is the REQUEST with a tag. -/
def Content.isRequest (tag : Byte) : Content → Bool
  | .request t _ _ _ => t == tag
  | _ => false

/-- The number of pairs in an entry's answered list. -/
def Content.pairCount : Content → Nat
  | .change _ ps => ps.length
  | _ => 0

/-- Nothing carried yet. -/
def Carried.none : Carried := { fixed := [], byTurn := [] }

/-- All the triples carried. -/
def Carried.all (c : Carried) : List Triple := c.fixed ++ c.byTurn

/-- READY: not on the line and no hold-back deadline (2.4). -/
def Entry.ready (e : Entry) : Bool := !e.onLine && e.holdBack.isNone

/-- The station state allows the kind to be sent (R27). -/
def mayBeSent (st : StationState) (c : Content) : Bool :=
  match st with
  | .joining => true
  | .active => true
  | .configFault => c.isReply
  | _ => false

/-- Eligible, but for the line condition (R27). -/
def Entry.eligible (st : StationState) (e : Entry) : Bool := e.ready && mayBeSent st e.content

/-- The entry may be evicted for a class-0 or class-1 offer: a class-3 entry not on the line, or the
ANNOUNCE not on the line (R23, R24). -/
def Entry.lowClass (e : Entry) : Bool := e.content.cls == 3 && !e.onLine

/-- See `Entry.lowClass`. -/
def Entry.idleAnnounce (e : Entry) : Bool := e.content.isAnnounce && !e.onLine

/-- The queue holds at most 12 entries (R20). -/
def queueSize : Nat := 12

/-- How many new entries of a class the queue could take in without refusal (R24). -/
def TxQueue.room (q : TxQueue) (cls : Nat) : Nat :=
  let free := queueSize - q.entries.length
  if cls ≤ 1 then
    free + q.entries.countP Entry.lowClass + (if q.entries.any Entry.idleAnnounce then 1 else 0)
  else free

/-- The youngest CHANGE entry for a channel (R25). -/
def TxQueue.youngestChange (q : TxQueue) (c : Chan) : Option Entry :=
  q.entries.reverse.find? fun e => e.content.isChangeOf c

/-- An offer with or without a requester pair would be COALESCED (R25). -/
def TxQueue.coalesces (q : TxQueue) (c : Chan) (hasPair : Bool) : Bool :=
  match q.youngestChange c with
  | some e => !e.onLine && (decide (e.content.pairCount < 4) || !hasPair)
  | none => false

/-- A CHANGE with a requester pair can be had for a channel (R24, R67). -/
def TxQueue.changeCanBeHad (q : TxQueue) (c : Chan) : Bool :=
  q.coalesces c true || decide (1 ≤ q.room 1)

/-! ### Channel flags -/

/-- A HOME record that is LIVE. -/
def Record.isLive : Record → Bool
  | .home h => h.state == .live
  | _ => false

/-- The dirty flag after a delivered triple: cleared when the carried version is still held (R71). -/
def HomeRec.delivered (h : HomeRec) (v : Version) : HomeRec :=
  if h.version = v then { h with dirty := false } else h

/-- A condition of a binding is true: HOME, LIVE and holding v, or MIRROR, FRESH and holding v
(R148). -/
def Record.meets (r : Record) (v : Byte) : Bool :=
  match r with
  | .home h => h.state == .live && h.value == v
  | .mirror m => m.state == .fresh && m.value == v
  | .unused => false

/-- A MIRROR that would be asked for in a FETCH: STALE or UNKNOWN (R75). -/
def MirrorRec.wanting (m : MirrorRec) : Bool := m.state != .fresh

/-- A triple under a nonzero incarnation is accepted by a MIRROR of its sender (R60). -/
def MirrorRec.accepts (m : MirrorRec) (incarnation : Byte) (n : Version) : Bool :=
  m.state != .fresh || m.heldIncarnation != incarnation || newer n m.version

/-! ### The answer window -/

/-- The slots of the answer window by position (R17). -/
def AnswerSlot.position : AnswerSlot → Nat
  | .taken => 0
  | .declined => 1
  | .garbled => 2

/-! ### Deadlines -/

/-- A deadline is present and has been reached. -/
def due (now : Time) (deadline : Option Time) : Bool :=
  match deadline with
  | some t => decide (t ≤ now)
  | none => false

end Sys2Proof.Machine
end

