-- ==== Sys2Proof/Machine/Ops.lean ====
section
/-! DEFINITION. The named operations over the state that every family uses: the level of the line, the
passage of time, the counters, single records of each table, and the failure notices. -/

namespace Sys2Proof.Machine

/-! ### The level of the line (R1 to R3) -/

/-- How long the line is driven from the edge of a bit (R1). -/
def lowTime (b : Bool) : Time := if b then shortLow else longLow

/-- The bit read 25 µs after an edge from which the line is dominant for a time: 0 if it is dominant
then, 1 if it is recessive (R2). -/
def sampleBit (low : Time) : Bool := decide (low ≤ sampleTime)

/-- The line is driven dominant from a moment for a time. On a recessive line that is an edge, with
which a dominant run and a bit time begin; on a dominant line the run goes on (R3). A line that is
released at that very moment counts as recessive, so a new run begins (log entry 34). -/
def Wire.pull (w : Wire) (start low : Time) : Wire :=
  if w.freed ≤ start then
    { w with edge := start, freed := start + low, quiet := start + max low bitTime }
  else { w with freed := max w.freed (start + low), quiet := max w.quiet (start + low) }

/-- Other stations drive the line dominant from now for a time, and this station for another. -/
def Wire.pullBy (w : Wire) (now others own : Time) : Wire :=
  { w.pull now (max others own) with others := max w.others (now + others) }

/-- The line was dominant from a moment for a time, or longer where an edge of another station has said so,
and this station drives it no more. Where it was still dominant when the present run began, it is one run,
and that run began at the earlier moment (R3). -/
def Wire.held (w : Wire) (start low : Time) : Wire :=
  let edge := if w.edge < start + low then min w.edge start else w.edge
  let freed := max w.others (start + low)
  { edge := edge, others := freed, freed := freed, quiet := max freed (edge + bitTime) }

/-- This station drives the line no more (R4, R5). -/
def Wire.release (w : Wire) (now : Time) : Wire :=
  let freed := min w.freed (max w.others now)
  { w with freed := freed, quiet := max freed (w.edge + bitTime) }

/-- The bit of a frame heard until now ends now (log entry 22). -/
def Wire.heard (w : Wire) (now : Time) : Wire := { w with quiet := max w.quiet now }

/-- The line at a reset: the output is released, and a run that is present counts from now (R5). That the bit
time of an edge before the reset no longer delays the recessive run (R3) is the model's choice (log
entry 14). -/
def Wire.restart (w : Wire) (now : Time) : Wire :=
  let freed := (w.release now).freed
  { edge := now, others := w.others, freed := freed, quiet := max now freed }

/-! ### Time -/

/-- The bits a transmitter sends: the frame, and a 1 for each slot of the answer window (R1). -/
def Attempt.bits (a : Attempt) : List Bool := a.frame.bits ++ [true, true, true]

/-- The bit time an attempt is in at a moment, the last one from its end on. -/
def Attempt.bitAt (a : Attempt) (now : Time) : Nat :=
  min ((now - a.start) / bitTime) (a.frame.bitCount + 2)

/-- The edge of one of its bits that a transmitter drives (R1). -/
def Attempt.edge (a : Attempt) (bit : Nat) : Time := a.start + bit * bitTime

/-- The activity of a transmitter by the bit times since its first edge (R5): ARBITRATING over the 7
class and source bits, SENDING to the end of the frame check, READING after it. -/
def activityAt (now : Time) (a : Attempt) : Activity :=
  if now < a.start + arbitrationBits * bitTime then .arbitrating
  else if now < a.start + a.frame.bitCount * bitTime then .sending
  else .reading

/-- The line after the latest edge that a transmitter has driven (R1). -/
def Attempt.wireAt (a : Attempt) (w : Wire) (now : Time) : Wire :=
  w.pull (a.edge (a.bitAt now)) (lowTime (a.bits.getD (a.bitAt now) true))

/-- The Line Unit as time reaches `now`: an attempt in progress moves on, and drives its bits (R1,
R5). -/
def LineUnit.at (l : LineUnit) (now : Time) : LineUnit :=
  match l.attempt with
  | some a => { l with activity := activityAt now a, wire := a.wireAt l.wire now }
  | none => l

/-- A load output as time passes from `t` to `t'`: its duty is driven from the start of the next
pulse period on (R162). -/
def LoadOutput.at (o : LoadOutput) (phase t t' : Time) : LoadOutput :=
  if (t + phase) / pulseTime < (t' + phase) / pulseTime then { o with shown := o.duty } else o

/-- The passage of time between one command and the next. -/
def State.advance (s : State) (dt : Moment) : State :=
  { s with
    now := s.now + dt.after
    line := s.line.at (s.now + dt.after)
    outputs :=
      { s.outputs with
        loads :=
          mapV (fun o => o.at s.outputs.pulsePhase s.now (s.now + dt.after)) s.outputs.loads } }

/-! ### Counters and free choices -/

/-- A counter is incremented (R171). -/
def State.bump (s : State) (c : Counter) : State :=
  { s with service := { s.service with counters := s.service.counters.inc c } }

/-- A counter is incremented if a condition holds. -/
def State.bumpIf (s : State) (b : Bool) (c : Counter) : State := if b then s.bump c else s

/-- A free choice, and the state that has taken it (log entry 3). -/
def State.draw (s : State) : Nat × State := (Config.order s.draws, { s with draws := s.draws + 1 })

/-! ### Single records -/

/-- The peer record of an address. -/
def State.peer (s : State) (a : Addr) : PeerRec :=
  s.peers.records[a.toNat]'(by have := a.isLt; omega)

/-- A peer record replaced. -/
def State.setPeer (s : State) (a : Addr) (r : PeerRec) : State :=
  { s with
    peers :=
      { s.peers with
        records := s.peers.records.set a.toNat r (by have := a.isLt; omega) } }

/-- Every peer record changed by a function. -/
def State.mapPeers (s : State) (f : PeerRec → PeerRec) : State :=
  { s with peers := { s.peers with records := mapV f s.peers.records } }

/-- The record of a channel. -/
def State.chan (s : State) (c : Chan) : Record := s.channels.records[c]

/-- A channel record replaced. -/
def State.setChan (s : State) (c : Chan) (r : Record) : State :=
  { s with channels := { s.channels with records := s.channels.records.set c r } }

/-- Every channel record changed by a function. -/
def State.mapChans (s : State) (f : Record → Record) : State :=
  { s with channels := { s.channels with records := mapV f s.channels.records } }

/-- The channels whose record has a property, ascending. -/
def State.chansWhere (s : State) (p : Record → Bool) : List Chan := indicesV p s.channels.records

/-- The HOME channels, ascending. -/
def State.homeChans (s : State) : List Chan := s.chansWhere Record.isHome

/-- A HOME record changed by a function; other records are left. -/
def State.modifyHome (s : State) (c : Chan) (f : HomeRec → HomeRec) : State :=
  match s.chan c with
  | .home h => s.setChan c (.home (f h))
  | _ => s

/-- A run slot. -/
def State.slot (s : State) (i : SlotId) : RunSlot := s.macros.slots[i]

/-- A run slot replaced. -/
def State.setSlot (s : State) (i : SlotId) (r : RunSlot) : State :=
  { s with macros := { s.macros with slots := s.macros.slots.set i r } }

/-- A key record. -/
def State.keyRec (s : State) (k : Key) : KeyRec := s.scanner.keys[k]

/-- A key's debounced state and condition replaced; its disagreement count is kept. -/
def State.setKey (s : State) (k : Key) (st : KeyState) : State :=
  { s with
    scanner :=
      { s.scanner with keys := s.scanner.keys.set k { s.keyRec k with state := st } } }

/-- A request entry by its tag (R80). -/
def State.requestOf (s : State) (tag : Byte) : Option ReqEntry :=
  s.requests.entries.find? fun e => e.tag == tag

/-! ### Failure notices (R169) -/

/-- A flash starts or restarts on the indicators whose map has a property. -/
def State.flash (s : State) (p : IndicatorMap → Bool) : State :=
  { s with
    indicators :=
      { s.indicators with
        indicators :=
          mapV (fun i => if p i.map then { i with flash := some (s.now + flashTime) } else i)
            s.indicators.indicators } }

/-- The map is CHANNEL c, with any match value. -/
def IndicatorMap.isChannel (c : Chan) : IndicatorMap → Bool
  | .channel d _ => d == c
  | _ => false

/-- The map is STATION. -/
def IndicatorMap.isStation : IndicatorMap → Bool
  | .station => true
  | _ => false

/-- A channel failure notice (R169). -/
def State.failChannel (s : State) (c : Chan) : State := s.flash (IndicatorMap.isChannel c)

/-- A station failure notice (R169). -/
def State.failStation (s : State) : State := s.flash IndicatorMap.isStation

end Sys2Proof.Machine
end

