-- ==== Sys2Proof/Machine/Attempts.lean ====
section
/-! DEFINITION. The choice of the next entry, what an attempt carries, and how it begins (2.4, 2.5, R9,
R73): the part that every offer to the Transmit Queue needs. -/

namespace Sys2Proof.Machine

/-! ### The choice (R27, R28) -/

/-- The lowest class among the eligible entries, with the position and the entry of the oldest one of
that class (R28). -/
def bestEligible (st : StationState) : Nat → List Entry → Option (Nat × Entry)
  | _, [] => none
  | i, e :: l =>
    match bestEligible st (i + 1) l with
    | none => if e.eligible st then some (i, e) else none
    | some (j, b) =>
      if e.eligible st && decide (e.content.cls ≤ b.content.cls) then some (i, e) else some (j, b)

/-- The entry that the queue offers the Line Unit (R28). -/
def State.chosen (s : State) : Option (Nat × Entry) :=
  bestEligible s.start.state 0 s.queue.entries

/-! ### The frame of an attempt (R29) -/

/-- The value and version a HOME record holds at this moment (R73, R77). -/
def State.homeTriple (s : State) (c : Chan) : Option Triple :=
  match s.chan c with
  | .home h => some { chan := c, value := h.value, version := h.version }
  | _ => none

/-- A HOME record that is dirty. -/
def Record.isDirty : Record → Bool
  | .home h => h.dirty
  | _ => false

/-- The HOME channels in the order of the rotation from the cursor (R73). -/
def State.rotation (s : State) : List Chan :=
  s.homeChans.filter (fun c => s.channels.cursor ≤ c) ++
    s.homeChans.filter (fun c => c < s.channels.cursor)

/-- The choice for an ANNOUNCE: dirty channels ascending, up to 3, then the rotation (R73). -/
def State.announceChoice (s : State) : List Chan × List Chan :=
  let dirty := (s.chansWhere Record.isDirty).take 3
  (dirty, (s.rotation.filter fun c => !dirty.contains c).take (3 - dirty.length))

/-- The MIRROR qualifies for a RECALL REPLY reporting j: not UNKNOWN and held under j (R79). -/
def MirrorRec.reports (j : Byte) (m : MirrorRec) : Bool :=
  m.state != .unknown && m.heldIncarnation == j

/-- A MIRROR that still qualifies for a RECALL REPLY reporting j, with its triple (R79). -/
def State.replyTriple (s : State) (j : Byte) (c : Chan) : Option Triple :=
  match s.chan c with
  | .mirror m =>
    if m.reports j then some { chan := c, value := m.value, version := m.version } else none
  | _ => none

/-- The triples an attempt carries, read at its start (Table 2-2, R29, R73, R77, R79). -/
def State.carriedBy (s : State) : Content → Carried
  | .announce =>
    { fixed := s.announceChoice.1.filterMap s.homeTriple
      byTurn := s.announceChoice.2.filterMap s.homeTriple }
  | .change t _ => { fixed := [t], byTurn := [] }
  | .state chans => { fixed := chans.filterMap s.homeTriple, byTurn := [] }
  | .recallReply j chans => { fixed := chans.filterMap (s.replyTriple j), byTurn := [] }
  | _ => Carried.none

/-- The body of a frame (R29, Table 12-2). -/
def bodyOf (period : Byte) (c : Content) (carried : Carried) : List Byte :=
  match c with
  | .announce => period :: carried.all.flatMap Triple.bytes
  | .change _ ps => carried.all.flatMap Triple.bytes ++ ps.flatMap Pair.bytes
  | .request tag chan op operand => [tag, chanByte chan, op.code, operand]
  | .fetch chans => chans.map chanByte
  | .state _ => carried.all.flatMap Triple.bytes
  | .recall chans => chans.map chanByte
  | .recallReply j _ => j :: carried.all.flatMap Triple.bytes
  | .reply bytes => bytes

/-- The frame of an attempt for an entry (R9, R29, Table 1-2). -/
def State.frameFor (s : State) (e : Entry) : Frame :=
  { cls := kindClass e.content.kind.toNat, source := s.start.ownAddress, kind := e.content.kind
    destination := e.destination, incarnation := s.peers.ownIncarnation
    body := bodyOf s.peers.ownPeriod e.content (s.carriedBy e.content) }

/-! ### The start of an attempt (R9) -/

/-- The chosen entry goes on the line and the first edge is driven (R9, R29). -/
def State.beginWith (s : State) (i : Nat) (e : Entry) : State :=
  let a : Attempt := { start := s.now, frame := s.frameFor e }
  { s with
    queue :=
      { s.queue with
        entries :=
          modifyAt (fun e => { e with onLine := true, carried := s.carriedBy e.content }) i
            s.queue.entries }
    line :=
      { s.line with
        condition := .busy, activity := .arbitrating, attempt := some a
        wire := a.wireAt s.line.wire s.now } }

/-- The Line Unit would begin an attempt: the line is IDLE (R9), and no restart is pending (R176; log
entry 18). -/
def State.mayBegin (s : State) : Bool :=
  s.line.condition == .idle && s.line.activity == .waiting && s.service.restart == .clear

/-- An entry that has just become eligible goes on the line at once if it is the one the queue
chooses (R9, R22, R32). -/
def State.beginAt (s : State) (i : Nat) : State :=
  match s.chosen with
  | some (j, e) => if s.mayBegin = true ∧ j = i then s.beginWith j e else s
  | none => s

end Sys2Proof.Machine
end

