-- ==== Sys2Proof/Machine/Offers.lean ====
section
/-! DEFINITION. Offers to the Transmit Queue (2.2): admission, eviction, coalescing, and the attempt that
begins at once on an IDLE line. -/

namespace Sys2Proof.Machine

/-- The four answers to an offer (2.2). -/
inductive OfferAnswer where
  | admitted
  | coalesced
  | present
  | refused
  deriving DecidableEq, Repr

/-- A new entry as it is admitted (R22). -/
def Entry.new (c : Content) (dest : Addr) : Entry :=
  { content := c, destination := dest, attempts := 0, holdBack := none, onLine := false,
    withdrawn := false, carried := Carried.none }

/-- The entry joins as the youngest (R21). -/
def TxQueue.join (q : TxQueue) (e : Entry) : TxQueue := { q with entries := q.entries ++ [e] }

/-- The queue after the eviction R23 makes for a class-0 or class-1 offer, if it can make one: the
youngest class-3 entry not on the line, or else the ANNOUNCE not on the line. -/
def TxQueue.evict (q : TxQueue) : Option TxQueue :=
  match removeLast Entry.lowClass q.entries with
  | some es => some { entries := es, evicted := true }
  | none =>
    match removeLast Entry.idleAnnounce q.entries with
    | some es => some { entries := es, evicted := true }
    | none => none

/-- A new entry is admitted, perhaps after an eviction, or refused (R22, R23). -/
def TxQueue.placeNew (q : TxQueue) (c : Content) (dest : Addr) : OfferAnswer × TxQueue :=
  if q.entries.length < queueSize then (.admitted, q.join (Entry.new c dest))
  else if c.cls ≤ 1 then
    match q.evict with
    | some q' => (.admitted, q'.join (Entry.new c dest))
    | none => (.refused, q)
  else (.refused, q)

/-- The content of a CHANGE entry after an offer has been merged into it (R25). -/
def Content.merge (c : Content) (triple : Triple) (pairs : List Pair) : Content :=
  match c with
  | .change _ ps => .change triple (ps ++ pairs)
  | other => other

/-- An offer in JOINING or ACTIVE, or a REPLY in CONFIG_FAULT (R22). An offered CHANGE carries at
most one pair. -/
def TxQueue.take (q : TxQueue) (c : Content) (dest : Addr) : OfferAnswer × TxQueue :=
  match c with
  | .announce =>
    if q.entries.any (fun e => e.content.isAnnounce) then (.present, q) else q.placeNew c dest
  | .change t ps =>
    if q.coalesces t.chan (!ps.isEmpty) then
      (.coalesced,
        { q with
          entries :=
            modifyLast (fun e => e.content.isChangeOf t.chan)
              (fun e => { e with content := e.content.merge t ps }) q.entries })
    else q.placeNew c dest
  | _ => q.placeNew c dest

/-- An offer, by the station state (R22). -/
def TxQueue.offer (q : TxQueue) (st : StationState) (c : Content) (dest : Addr) :
    OfferAnswer × TxQueue :=
  if mayBeSent st c then q.take c dest else (.refused, q)

/-- An offer by a producer of this station (R22). A new entry that the queue would choose goes on an
IDLE line at once (R9). -/
def State.offer (s : State) (c : Content) (dest : Addr) : OfferAnswer × State :=
  let (a, q) := s.queue.offer s.start.state c dest
  let s : State := { s with queue := q }
  (a, if a = .admitted then s.beginAt (q.entries.length - 1) else s)

/-- Several offers in turn whose answers the producer does not use. -/
def State.offerAll (s : State) (dest : Addr) (cs : List Content) : State :=
  cs.foldl (fun s c => (s.offer c dest).2) s

end Sys2Proof.Machine
end

