-- ==== Sys2Proof/Machine/Emitter.lean ====
section
/-! DEFINITION. The IR Emitter's queue and the blanking of the IR Receiver (R140, R142, R143, R145):
the shared part that bindings, runs and the emit map use. -/

namespace Sys2Proof.Machine

/-- A release deadline suspended as blanking begins: the time remaining to it is kept (R142). -/
def Release.suspend (now : Time) : Release → Release
  | .running t => .suspended (t - now)
  | .suspended r => .suspended r

/-- A suspended release deadline as blanking ends: it expires after the kept remaining time
(R142). -/
def Release.resume (now : Time) : Release → Release
  | .running t => .running t
  | .suspended r => .running (now + r)

/-- The receiver as an emission begins (R142). When blanking begins, a reception in progress is
abandoned, nothing is measured, and the release deadline is suspended; an emission that begins
while the receiver is blanked continues the blanking. -/
def IrReceiver.blank (r : IrReceiver) (now : Time) : IrReceiver :=
  match r.blanking with
  | .off =>
    { r with
      decoder := .idle, since := none, blanking := .on
      held := r.held.map fun h => { h with release := h.release.suspend now } }
  | .on => r
  | .ending _ => { r with blanking := .on }

/-- An emission becomes current and begins: its first frame starts now (R140, R141, R142). -/
def State.beginEmission (s : State) (e : Emission) : State :=
  { s with
    emitter := { s.emitter with current := some { emission := e, begun := 1, frameStart := s.now } }
    ir := s.ir.blank s.now }

/-- The emission queue holds at most 4 entries besides the current emission (R140). -/
def emissionQueueSize : Nat := 4

/-- An emission offer: true when ACCEPTED, false when FULL (R140). -/
def State.offerEmission (s : State) (e : Emission) : Bool × State :=
  if s.start.state = .addressConflict then (false, s)
  else
    match s.emitter.current with
    | none => (true, s.beginEmission e)
    | some _ =>
      if s.emitter.queue.length < emissionQueueSize then
        (true, { s with emitter := { s.emitter with queue := s.emitter.queue ++ [e] } })
      else (false, s)

/-- The emitter is cut at a line restart and stopped on entry into ADDRESS_CONFLICT: no emission, no
queue, no waiting order, and blanking ends 10 ms later if an emission was current (R145). -/
def State.stopEmitter (s : State) : State :=
  { s with
    emitter := Emitter.reset
    ir :=
      match s.emitter.current with
      | some _ => { s.ir with blanking := .ending (s.now + blankingTail) }
      | none => s.ir }

end Sys2Proof.Machine
end

