-- ==== Sys2Proof/Machine/Outputs.lean ====
section
/-! DEFINITION. Load outputs, the emit map, and the meanings of STEP_DEADLINE_EXPIRY and FLASH_END
(chapter 10); the event frame they and every other meaning share stands in Machine/Events.lean. -/

namespace Sys2Proof.Machine

/-- The target a value gives by the output's mode (Table 10-2). -/
def OutputMode.target : OutputMode → Byte → Byte
  | .switch, v => if v = 0 then 0 else 255
  | .dim _, v => v
  | .matched m, v => if v = m then 255 else 0

/-- The fade rate; SWITCH and MATCH outputs take their target at once, as rate 0 does (R163). -/
def OutputMode.rate : OutputMode → Byte
  | .dim r => r
  | _ => 0

/-- An output retargeted to a value (R163). -/
def LoadOutput.retarget (o : LoadOutput) (mode : OutputMode) (v : Byte) (now : Time) : LoadOutput :=
  let t := mode.target v
  if mode.rate = 0 then { o with target := t, duty := t, stepAt := none }
  else if t = o.duty then { o with target := t, stepAt := none }
  else { o with target := t, stepAt := some (o.stepAt.getD (now + fadeTime)) }

/-- The outputs mapped to a channel are retargeted to its value (R163). -/
def State.tellOutputs (s : State) (c : Chan) (v : Byte) : State :=
  { s with
    outputs :=
      { s.outputs with
        loads :=
          mapV
            (fun o =>
              match o.map with
              | some m => if m.chan = c then o.retarget m.mode v s.now else o
              | none => o)
            s.outputs.loads } }

/-- One emit map entry on an application to channel c with result v: it offers its emission if it is
an entry for c that matches; an offer answered FULL is dropped and counted (R166, R143). -/
def State.emitEntry (c : Chan) (v : Byte) (s : State) (e : EmitEntry) : State :=
  if e.chan = c ∧ e.value.getD v = v then
    let (accepted, s) := s.offerEmission e.emission
    s.bumpIf (!accepted) .emissionsDropped
  else s

/-- The emit map on an applied operation, in map order (R166). -/
def State.emitMap (s : State) (c : Chan) (v : Byte) : State :=
  s.outputs.emitMap.foldl (State.emitEntry c v) s

/-- One fade step: the duty moves toward the target by the rate and does not pass it (R164). -/
def LoadOutput.fade (o : LoadOutput) (rate : Byte) (now : Time) : LoadOutput :=
  let d := o.duty.toNat
  let t := o.target.toNat
  let r := rate.toNat
  if (if d ≤ t then t - d else d - t) ≤ r then { o with duty := o.target, stepAt := none }
  else
    { o with
      duty := BitVec.ofNat 8 (if d ≤ t then d + r else d - r)
      stepAt := some (now + fadeTime) }

/-- An output's step deadline expires, if it is due (R164). -/
def LoadOutput.step (o : LoadOutput) (now : Time) : LoadOutput :=
  if due now o.stepAt then o.fade ((o.map.map fun m => m.mode.rate).getD 0) now else o

/-- The step of one output. -/
def State.stepOutput (i : OutId) (s : State) : State :=
  { s with
    outputs :=
      { s.outputs with loads := s.outputs.loads.set i ((s.outputs.loads[i]).step s.now) } }

/-- The end of a flash, if it is due: the indicator shows its base pattern again (R169). -/
def State.endFlash (i : OutId) (s : State) : State :=
  let ind := s.indicators.indicators[i]
  if due s.now ind.flash then
    { s with
      indicators :=
        { s.indicators with indicators := s.indicators.indicators.set i { ind with flash := none } } }
  else s

end Sys2Proof.Machine
end

