-- ==== Sys2Proof/Machine/Channels.lean ====
section
/-! DEFINITION. The Channel Table (chapter 4): the application of an operation, triples at a mirror,
STALE claims, the dirty flag, the rotation cursor, and the FETCH decision. -/

namespace Sys2Proof.Machine

/-! ### Operations (4.4) -/

/-- The memory level after a value is taken: a nonzero LEVEL value becomes it (R57, R65). -/
def memoryAfter (k : ChanKind) (memory value : Byte) : Byte :=
  if k = .level ∧ value ≠ 0 then value else memory

/-- A HOME record after an operation (R65). -/
def HomeRec.applied (h : HomeRec) (op : Op) (operand : Byte) (origin : Addr) : HomeRec :=
  let v := opResult h.kind op operand h.value h.memory
  { h with
    value := v
    version := h.version + 1
    memory := memoryAfter h.kind h.memory v
    lastOrigin := origin }

/-- The offer of a CHANGE for a channel: on REFUSED the channel becomes dirty (R70, R71). -/
def State.offerChange (s : State) (c : Chan) (h : HomeRec) (pairs : List Pair) : State :=
  let (a, s) := s.offer (.change { chan := c, value := h.value, version := h.version } pairs) 0
  if a = .refused then s.modifyHome c fun h => { h with dirty := true } else s

/-- An operation applied to a HOME channel: the record, then the outputs and the emit map, then the
CHANGE offer (R65, R58, R166, R70). -/
def State.apply (s : State) (c : Chan) (h : HomeRec) (op : Op) (operand : Byte) (origin : Addr)
    (pairs : List Pair) : State :=
  let h' := h.applied op operand origin
  (((s.setChan c (.home h')).tellOutputs c h'.value).emitMap c h'.value).offerChange c h' pairs

/-- A local operation; whether it was applied (R66). -/
def State.localOp (s : State) (c : Chan) (op : Op) (operand : Byte) : Bool × State :=
  match s.chan c with
  | .home h =>
    if h.state = .live ∧ opValid h.kind op operand then (true, s.apply c h op operand 0 [])
    else (false, s)
  | _ => (false, s)

/-! ### Triples at a mirror (4.3) -/

/-- A MIRROR record after an accepted triple (R60). -/
def MirrorRec.take (m : MirrorRec) (t : Triple) (incarnation : Byte) : MirrorRec :=
  { m with
    value := t.value, version := t.version, heldIncarnation := incarnation, state := .fresh }

/-- One triple from a source under an incarnation (R60, R61). -/
def State.judge (source : Addr) (incarnation : Byte) (s : State) (t : Triple) : State :=
  match s.chan t.chan with
  | .unused => s
  | .home _ => s.bump .ownershipConflicts
  | .mirror m =>
    if m.owner ≠ source then s.bump .ownershipConflicts
    else if m.accepts incarnation t.version then
      s.setChan t.chan (.mirror (m.take t incarnation))
    else s

/-- The triples of a frame, one at a time in body order (R59). -/
def State.judgeAll (s : State) (source : Addr) (incarnation : Byte) (ts : List Triple) : State :=
  ts.foldl (State.judge source incarnation) s

/-- A STALE claim on the FRESH mirrors of s; with an incarnation, only on those held under another
one (R62). -/
def Record.staleClaim (owner : Addr) (except : Option Byte) (r : Record) : Record :=
  match r with
  | .mirror m =>
    if m.owner = owner ∧ m.state = .fresh ∧ except ≠ some m.heldIncarnation then
      .mirror { m with state := .stale }
    else r
  | _ => r

/-- See `Record.staleClaim`. -/
def State.staleClaim (s : State) (owner : Addr) (except : Option Byte) : State :=
  s.mapChans (Record.staleClaim owner except)

/-! ### Dirty channels and the rotation cursor (4.6, 4.7) -/

/-- A delivered triple clears the dirty flag if its version is still held (R71). -/
def State.clearDirty (s : State) (t : Triple) : State :=
  s.modifyHome t.chan fun h => h.delivered t.version

/-- The delivered triples of a frame (R71). -/
def State.clearDirtyAll (s : State) (ts : List Triple) : State := ts.foldl State.clearDirty s

/-- The HOME channel that follows c, ascending with wrapping (R74). -/
def State.homeAfter (s : State) (c : Chan) : Chan :=
  match s.homeChans.find? (fun d => c < d) with
  | some d => d
  | none => s.homeChans.headD c

/-- The lowest-numbered HOME channel, 0 if there is none (R56, R57). -/
def State.lowestHome (s : State) : Chan := s.homeChans.headD 0

/-- A delivered ANNOUNCE (R74). -/
def State.announceDelivered (s : State) (c : Carried) : State :=
  let s := s.clearDirtyAll c.all
  match c.byTurn.getLast? with
  | some t => { s with channels := { s.channels with cursor := s.homeAfter t.chan } }
  | none => s

/-! ### FETCH decisions (4.8) -/

/-- The channels a FETCH to an owner would list: its STALE or UNKNOWN mirrors, ascending, up to 8
(R75). -/
def State.wanted (s : State) (owner : Addr) : List Chan :=
  (s.chansWhere fun r => r.mirrorOf owner MirrorRec.wanting).take 8

/-- A FETCH to the owner would be offered (R75). -/
def State.wouldFetch (s : State) (owner : Addr) : Bool :=
  s.start.state == .active && !(s.peer owner).fetchOut && !(s.wanted owner).isEmpty

/-- The FETCH decision for an owner (R75); the flag is set when the entry is ADMITTED (R47). -/
def State.fetchDecision (s : State) (owner : Addr) : State :=
  if s.wouldFetch owner then
    let (a, s) := s.offer (.fetch (s.wanted owner)) owner
    if a = .admitted then s.setPeer owner { s.peer owner with fetchOut := true } else s
  else s

/-! ### Start values (4.2) -/

/-- The memory level a LEVEL HOME record takes at a start (Table 4-5). -/
def startMemory (k : ChanKind) (default : Byte) : Byte :=
  if k = .level then (if default = 0 then 255 else default) else 0

/-- A record with the values it takes after a validated image and at a line restart (R56). -/
def Record.startValues : Record → Record
  | .unused => .unused
  | .home h =>
    .home
      { h with
        value := h.default, memory := startMemory h.kind h.default, version := 0
        heldIncarnation := 0, state := .recalling, dirty := false, lastOrigin := 0 }
  | .mirror m =>
    .mirror { m with value := 0, version := 0, heldIncarnation := 0, state := .unknown }

/-- The rotation cursor set to the lowest-numbered HOME channel (R56, R57). -/
def State.resetCursor (s : State) : State :=
  { s with channels := { s.channels with cursor := s.lowestHome } }

/-- Every HOME and MIRROR record takes its start values (R56). -/
def State.startChannels (s : State) : State := (s.mapChans Record.startValues).resetCursor

/-- HOME records become FROZEN (R54). -/
def Record.freeze : Record → Record
  | .home h => .home { h with state := .frozen }
  | r => r

/-- A HOME record at join completion (R57). -/
def HomeRec.join (h : HomeRec) (recalled : Option Byte) (incarnation : Byte) : HomeRec :=
  let v := recalled.getD h.default
  { h with
    value := v, memory := memoryAfter h.kind h.memory v, version := 1
    heldIncarnation := incarnation, state := .live, dirty := false, lastOrigin := 0 }

end Sys2Proof.Machine
end

