-- ==== Sys2Proof/Machine/Requests.lean ====
section
/-! DEFINITION. The Request Table at issue (chapter 5, R80 to R82, R93). -/

namespace Sys2Proof.Machine

/-- The answer to an issue (R82). -/
inductive IssueAnswer where
  | made (tag : Byte)
  | ownerAbsent
  | busy
  deriving DecidableEq, Repr

/-- The Request Table holds at most 8 entries (R80). -/
def requestTableSize : Nat := 8

/-- The tag for a new entry: the first value from the counter on that no entry holds, found within 9
values (R81). -/
def RequestTable.freshTag (r : RequestTable) : Byte :=
  (((List.range (requestTableSize + 1)).map fun i => r.tagCounter + BitVec.ofNat 8 i).find?
    fun t => !r.entries.any fun e => e.tag == t).getD r.tagCounter

/-- The table after an entry is made (R81, R82). -/
def RequestTable.make (r : RequestTable) (c : Chan) (op : Op) (operand : Byte) (owner : Addr)
    (origin : Originator) : RequestTable :=
  { r with
    entries := r.entries ++
      [{ tag := r.freshTag, chan := c, op := op, operand := operand, owner := owner,
         state := .queued, origin := origin }]
    tagCounter := r.freshTag + 1 }

/-- An outcome other than CONFIRMED is counted and flashed (R90, R93). -/
def State.requestFailed (s : State) (c : Chan) : State := (s.bump .requestsFailed).failChannel c

/-- An issue of an operation on a MIRROR channel, decided by the checks of Table 5-2 in order. An
answer without an entry is counted and flashed at once (R82, R93). -/
def State.issue (s : State) (c : Chan) (owner : Addr) (op : Op) (operand : Byte)
    (origin : Originator) : IssueAnswer × State :=
  if s.start.state ≠ .active then (.busy, s.requestFailed c)
  else if (s.peer owner).presence ≠ .present then (.ownerAbsent, s.requestFailed c)
  else if requestTableSize ≤ s.requests.entries.length then (.busy, s.requestFailed c)
  else
    let tag := s.requests.freshTag
    let (a, s') := s.offer (.request tag c op (sentOperand op operand)) owner
    if a = .admitted then
      (.made tag, { s' with requests := s'.requests.make c op operand owner origin })
    else (.busy, s'.requestFailed c)

end Sys2Proof.Machine
end

