-- ==== Sys2Proof/Machine/Runs.lean ====
section
/-! DEFINITION. The Macro Runner (chapter 9): how a run moves through its steps and how it ends. -/

namespace Sys2Proof.Machine

/-- The slot of a run that has ended: IDLE, with its generation kept (R161). -/
def RunSlot.ended (r : RunSlot) : RunSlot :=
  { r with state := .idle, stack := [], outstanding := [], failed := false }

/-- The slot leaves both waiting orders (R94, R144). -/
def State.leaveOrders (s : State) (i : SlotId) : State :=
  { s with
    requests := { s.requests with waiting := s.requests.waiting.filter (· ≠ i) }
    emitter := { s.emitter with waiting := s.emitter.waiting.filter (· ≠ i) } }

/-- A run ends COMPLETED (R161). -/
def State.completeRun (s : State) (i : SlotId) : State := s.setSlot i (s.slot i).ended

/-- A run ends FAILED, with a station failure notice (R161). -/
def State.failRun (s : State) (i : SlotId) : State := (s.setSlot i (s.slot i).ended).failStation

/-- A run is ABORTED (R161). -/
def State.abortRun (s : State) (i : SlotId) : State :=
  (s.leaveOrders i).setSlot i (s.slot i).ended

/-- The step a run is at; none past the end of its current macro. -/
def State.stepOf (s : State) (r : RunSlot) : Option Step :=
  (s.macros.table.getD r.current.val [])[r.step]?

/-- The slot at the next step of its current macro (R156). -/
def RunSlot.next (r : RunSlot) : RunSlot := { r with step := r.step + 1 }

/-- A CHANNEL step (R157). -/
def State.channelStep (s : State) (i : SlotId) (r : RunSlot) (c : Chan) (op : Op)
    (operand : Byte) : Bool × State :=
  match s.chan c with
  | .mirror m =>
    let (a, s) := s.issue c m.owner op operand (.run i r.generation)
    match a with
    | .made tag => (true, s.setSlot i { r.next with outstanding := r.outstanding ++ [tag] })
    | .ownerAbsent => (true, s.setSlot i { r.next with failed := true })
    | .busy =>
      (false,
        { s.setSlot i { r with state := .waitTable s.now } with
          requests := { s.requests with waiting := s.requests.waiting ++ [i] } })
  | _ =>
    let (applied, s) := s.localOp c op operand
    (true, s.setSlot i { r.next with failed := r.failed || !applied })

/-- An EMIT step (R160). -/
def State.emitStep (s : State) (i : SlotId) (r : RunSlot) (e : Emission) : Bool × State :=
  let (accepted, s) := s.offerEmission e
  if accepted then (true, s.setSlot i r.next)
  else
    (false,
      { s.setSlot i { r with state := .waitEmitter s.now } with
        emitter := { s.emitter with waiting := s.emitter.waiting ++ [i] } })

/-- A CONFIRM step reached, or judged when the outstanding list has become empty (R159). -/
def State.confirmStep (s : State) (i : SlotId) (r : RunSlot) (stopOnFail : Bool) : Bool × State :=
  if r.outstanding.isEmpty then
    if stopOnFail && r.failed then (false, s.failRun i)
    else (true, s.setSlot i { r.next with failed := false })
  else (false, s.setSlot i { r with state := .waitConfirm })

/-- A CALL step (R156): with 2 records on the stack it ends the run FAILED. -/
def State.callStep (s : State) (i : SlotId) (r : RunSlot) (m : MacroId) : Bool × State :=
  if r.stack.length < 2 then
    (true,
      s.setSlot i
        { r with stack := (r.current, r.step + 1) :: r.stack, current := m, step := 0 })
  else (false, s.failRun i)

/-- The end of the current macro (R156): back to the caller, or COMPLETED. -/
def State.macroEnd (s : State) (i : SlotId) (r : RunSlot) : Bool × State :=
  match r.stack with
  | [] => (false, s.completeRun i)
  | (m, k) :: rest => (true, s.setSlot i { r with current := m, step := k, stack := rest })

/-- One step of a run; whether the run goes on within the event (9.6). -/
def State.runStep (s : State) (i : SlotId) : Bool × State :=
  let r := s.slot i
  match s.stepOf r with
  | none => s.macroEnd i r
  | some (.channel c op operand) => s.channelStep i r c op operand
  | some (.wait d) => (false, s.setSlot i { r with state := .waitTime (s.now + d * ms) })
  | some (.confirm stopOnFail) => s.confirmStep i r stopOnFail
  | some (.emit e) => s.emitStep i r e
  | some (.call m) => s.callStep i r m

/-- Steps of a run, one after another, up to the first that waits or the end of the run (9.6). -/
def State.runSteps : Nat → SlotId → State → State
  | 0, _, s => s
  | n + 1, i, s =>
    match s.runStep i with
    | (true, s') => State.runSteps n i s'
    | (false, s') => s'

/-- More steps than any run of a validated image performs in one event: 16 root steps, each perhaps
a call of 16, each of those perhaps a call of 16, and the ends of the called macros (R154, R156). -/
def runFuel : Nat := 5000

/-- A run performs steps from the step it is at: after a START, at a grant, when a CONFIRM is judged
(R156, R159, R160). -/
def State.resume (s : State) (i : SlotId) : State :=
  State.runSteps runFuel i (s.setSlot i { s.slot i with state := .performing })

/-- A run goes on to the step after the one it waits at (R158). -/
def State.resumeNext (s : State) (i : SlotId) : State :=
  State.runSteps runFuel i (s.setSlot i { (s.slot i).next with state := .performing })

/-! ### Grants of the Request Table (5.7) -/

/-- There is room for a waiting slot's request (R95). -/
def State.requestRoom (s : State) : Bool :=
  s.start.state == .active && decide (s.requests.entries.length < requestTableSize)
    && decide (1 ≤ s.queue.room 0)

/-- Nothing owed, and the grant that the next rival comes before, none for 0 (log entry 37). -/
def State.calm (s : State) (rival : Nat) : State := { s with rival := rival, owed := [] }

/-- What is still to be done behind the rivals of this event (log entry 37). -/
def State.owe (s : State) (o : Owing) : State := { s with owed := s.owed ++ [o] }

/-- The rivals of this event come now, and what it still does comes behind them (log entry 37). -/
def State.behind (s : State) : Bool := s.rival != 0 && !s.owed.isEmpty

/-- The next part of an event: done, or owed where the rivals of the event come first. -/
def State.thenDo (s : State) (o : Owing) (part : State → State) : State :=
  if s.behind then s.owe o else part s

/-- Grants while a slot waits and there is room (R95); the one that a rival comes before is owed (R96). A
granted slot waits again only when there is no room, so each of the two slots is granted at most once,
and three rounds are enough (log entry 27). -/
def State.grants : Nat → State → State
  | 0, s => s
  | n + 1, s =>
    match s.requests.waiting with
    | [] => s
    | i :: rest =>
      if s.requestRoom then
        if s.rival = 1 then s.owe .table
        else
          State.grants n
            (({ s with
                rival := s.rival - 1, requests := { s.requests with waiting := rest } } :
              State).resume i)
      else s

/-- A grant occasion: an entry has left the Request Table, or the Transmit Queue (R95). -/
def State.grantOccasion (s : State) : State := s.thenDo .table (State.grants 3)

/-- The departure notices owed for evictions of this event, given once its offers have been answered
(R95, log entry 9). -/
def State.settle (s : State) : State :=
  if s.queue.evicted then
    let s := ({ s with queue := { s.queue with evicted := false } } : State).grantOccasion
    { s with queue := { s.queue with evicted := false } }
  else s

/-! ### The end of a request (5.6) -/

/-- An outcome handed to the Macro Runner (R92, R159): an IDLE slot ignores it; otherwise the tag
leaves the outstanding list, an outcome other than CONFIRMED sets the failed flag, and a CONFIRM
that waited for the last tag is judged. -/
def State.outcomeToRun (s : State) (i : SlotId) (tag : Byte) (confirmed : Bool) : State :=
  let r := s.slot i
  if r.state = .idle then s
  else
    let r' :=
      { r with
        outstanding := r.outstanding.erase tag, failed := r.failed || !confirmed }
    let s := s.setSlot i r'
    if r'.state = .waitConfirm ∧ r'.outstanding = [] then s.resume i else s

/-- An outcome routed by its originator: a run is told only if its slot's generation is still the
entry's (R91, R92). -/
def State.routeOutcome (s : State) (e : ReqEntry) (confirmed : Bool) : State :=
  match e.origin with
  | .binding => s
  | .run i g => if (s.slot i).generation = g then s.outcomeToRun i e.tag confirmed else s

/-- The REQUEST entry with a tag is withdrawn (R35): off the line it leaves at once and gives its
departure notice; on the line it is marked. -/
def State.withdrawRequest (s : State) (tag : Byte) : State :=
  match s.queue.entries.find? (fun e => e.content.isRequest tag) with
  | none => s
  | some e =>
    if e.onLine then
      { s with
        queue :=
          { s.queue with
            entries :=
              modifyFirst (fun e => e.content.isRequest tag)
                (fun e => { e with withdrawn := true }) s.queue.entries } }
    else
      ({ s with
          queue :=
            { s.queue with
              entries := s.queue.entries.eraseP fun e => e.content.isRequest tag } } :
        State).grantOccasion

/-- The outcome ends an entry whose REQUEST may still be in the queue (R86, R88). -/
def ReqOutcome.withdraws : ReqOutcome → Bool
  | .confirmed => true
  | .cancelled => true
  | _ => false

/-- The entry with a tag leaves the Request Table, and its tag is free (R90). -/
def State.removeRequest (s : State) (tag : Byte) : State :=
  { s with
    requests :=
      { s.requests with entries := s.requests.entries.filter fun e => e.tag != tag } }

/-- What follows the grant when an entry has ended: every outcome but CONFIRMED is counted and flashed, and
the outcome is routed (R90). -/
def State.conclude (s : State) (e : ReqEntry) (outcome : ReqOutcome) : State :=
  (if outcome = .confirmed then s else s.requestFailed e.chan).routeOutcome e
    (outcome = .confirmed)

/-- An entry that ends is removed, a grant is made, and the outcome is counted, flashed and routed, in
this order (R90). -/
def State.finish (e : ReqEntry) (outcome : ReqOutcome) (s : State) : State :=
  (s.removeRequest e.tag).grantOccasion.thenDo (.conclusion e outcome) fun s => s.conclude e outcome

/-- An entry ends with an outcome: a QUEUED entry's REQUEST is withdrawn (log entry 10), and then the
entry ends (R86, R88, R90). -/
def State.endRequest (s : State) (tag : Byte) (outcome : ReqOutcome) : State :=
  match s.requestOf tag with
  | none => s
  | some e =>
    (if e.state = .queued ∧ outcome.withdraws then s.withdrawRequest tag else s).thenDo
      (.removal e outcome) (State.finish e outcome)

/-- Several entries end CANCELLED, in an order the manual leaves open (R80, R88): at each of two or
more, a free choice picks the next. -/
def State.cancelTags : Nat → List Byte → State → State
  | 0, _, s => s
  | _ + 1, [], s => s
  | _ + 1, [t], s => s.endRequest t .cancelled
  | n + 1, t :: u :: ts, s =>
    let (k, s) := s.draw
    let tag := (t :: u :: ts).getD (k % (ts.length + 2)) t
    let rest := (t :: u :: ts).filter (· ≠ tag)
    (s.endRequest tag .cancelled).thenDo (.cancels rest) (State.cancelTags n rest)

/-- The requests to owner s are cancelled (R88): the entries there are when the claim is given. -/
def State.cancelRequests (s : State) (owner : Addr) : State :=
  let tags := (s.requests.entries.filter fun e => e.owner == owner).map ReqEntry.tag
  State.cancelTags tags.length tags s

/-- One answered pair of a CHANGE (R85): a pair with the own address confirms the entry with its tag
if the entry's channel and owner are the CHANGE's. -/
def State.matchPair (s : State) (source : Addr) (c : Chan) (p : Pair) : State :=
  if p.address = s.start.ownAddress.setWidth 8 then
    match s.requestOf p.tag with
    | some e => if e.chan = c ∧ e.owner = source then s.endRequest p.tag .confirmed else s
    | none => s
  else s

/-- The answered list of a taken CHANGE, in list order, one pair at a time (R63, R85). -/
def State.matchPairs (s : State) (source : Addr) (c : Chan) (ps : List Pair) : State :=
  ps.foldl (fun s p => s.thenDo (.pair source c p) fun s => s.matchPair source c p) s

end Sys2Proof.Machine
end

