-- ==== Sys2Proof/Machine/Grants.lean ====
section
/-! DEFINITION. Grants of the IR Emitter (R144). -/

namespace Sys2Proof.Machine

/-- A grant occasion of the emitter: with a free place in the queue, the slot at the head of the waiting
order is granted and its run offers its EMIT step again; otherwise it stays at the head. The grant that
a rival comes before is owed (R144; log entry 37). -/
def State.emitterGrant (s : State) : State :=
  match s.emitter.waiting with
  | i :: rest =>
    if s.emitter.queue.length < emissionQueueSize then
      if s.rival = 1 then s.owe .emitter
      else
        ({ s with rival := s.rival - 1, emitter := { s.emitter with waiting := rest } } :
          State).resume i
    else s
  | [] => s

/-- A place has become free (R144). -/
def State.placeFreed (s : State) : State := s.thenDo .emitter State.emitterGrant

end Sys2Proof.Machine
end

