-- ==== Sys2Proof/Machine/Bindings.lean ====
section
/-! DEFINITION. The Binding Engine (chapter 9): matching a gesture and performing the actions. -/

namespace Sys2Proof.Machine

/-- The condition of a record is absent or true (R147, R148). -/
def State.conditionHolds (s : State) (b : Binding) : Bool :=
  match b.condition with
  | none => true
  | some (c, v) => (s.chan c).meets v

/-- The records that match a gesture, in ascending index; all conditions are read now (R147). -/
def State.matching (s : State) (source : Source) (trigger : Trigger) : List Binding :=
  s.bindings.filter fun b =>
    b.source == source && b.trigger == trigger && s.conditionHolds b

/-- A run of macro m, by its root macro (R152). -/
def RunSlot.runs (r : RunSlot) (m : MacroId) : Bool := r.state != .idle && r.root == m

/-- The slot that is running m, if there is one (R152, R153). -/
def State.slotRunning (s : State) (m : MacroId) : Option SlotId :=
  (List.finRange 2).find? fun i => (s.slot i).runs m

/-- The lowest-numbered IDLE slot (R152). -/
def State.idleSlot (s : State) : Option SlotId :=
  (List.finRange 2).find? fun i => (s.slot i).state == .idle

/-- A slot as macro m starts in it (R152). -/
def RunSlot.started (r : RunSlot) (m : MacroId) : RunSlot :=
  { state := .performing, root := m, current := m, step := 0, stack := [], outstanding := [],
    failed := false, generation := r.generation + 1 }

/-- Macro m starts in a slot and runs until it waits or ends (R152, R156). -/
def State.startIn (s : State) (i : SlotId) (m : MacroId) : State :=
  (s.setSlot i ((s.slot i).started m)).resume i

/-- A START m action: a retrigger, or the lowest IDLE slot, or a failure notice (R152). -/
def State.startMacro (s : State) (m : MacroId) : State :=
  match s.slotRunning m with
  | some i => (s.abortRun i).startIn i m
  | none =>
    match s.idleSlot with
    | some i => s.startIn i m
    | none => s.failStation

/-- A STOP m action (R153). -/
def State.stopMacro (s : State) (m : MacroId) : State :=
  match s.slotRunning m with
  | some i => s.abortRun i
  | none => s

/-- An EMIT action (R151): FULL is counted and flashes the station indicators (R143). -/
def State.emitAction (s : State) (e : Emission) : State :=
  let (accepted, s) := s.offerEmission e
  if accepted then s else (s.bump .emissionsDropped).failStation

/-- A CHANNEL action (R149, R150). -/
def State.channelAction (s : State) (c : Chan) (op : Op) (operand : Byte) : State :=
  match s.chan c with
  | .mirror m => (s.issue c m.owner op operand .binding).2
  | _ => (s.localOp c op operand).2

/-- The action of a binding, complete before the next one begins (R147). -/
def State.perform (s : State) (b : Binding) : State :=
  match b.action with
  | .channel c op operand => s.channelAction c op operand
  | .start m => s.startMacro m
  | .stop m => s.stopMacro m
  | .emit e => s.emitAction e

/-- A gesture at the Binding Engine (R147). -/
def State.bindGesture (s : State) (source : Source) (trigger : Trigger) : State :=
  (s.matching source trigger).foldl State.perform s

/-- A gesture produced: handed to the Binding Engine in ACTIVE, discarded and counted in every other
state (R130). -/
def State.gesture (s : State) (source : Source) (trigger : Trigger) : State :=
  if s.start.state = .active then s.bindGesture source trigger else s.bump .inputsDiscarded

/-- A run's WAIT deadline expires, if it is due (R158). -/
def State.waitExpiry (i : SlotId) (s : State) : State :=
  match (s.slot i).state with
  | .waitTime t => if t ≤ s.now then s.resumeNext i else s
  | _ => s

/-- A SENT request entry's confirm deadline expires, if it is due (R87). -/
def State.confirmExpiry (tag : Byte) (s : State) : State :=
  match s.requestOf tag with
  | some e =>
    match e.state with
    | .sent t => if t ≤ s.now then s.endRequest tag .unconfirmed else s
    | .queued => s
  | none => s

end Sys2Proof.Machine
end

