-- ==== Sys2Proof/Machine/Keys.lean ====
section
/-! DEFINITION. The Key Scanner and the Gesture Unit (chapter 7). -/

namespace Sys2Proof.Machine

/-! ### Gesture trackers (7.5) -/

/-- The trackers replaced. -/
def State.setTrackers (s : State) (ts : List Tracker) : State :=
  { s with gestures := { s.gestures with trackers := ts } }

/-- A down: a tracker in SHORT with its hold deadline, and PRESS (R126). -/
def State.trackDown (s : State) (source : Source) : State :=
  (s.setTrackers
      (s.gestures.trackers ++
        [{ source := source, phase := .short (s.now + s.gestures.holdTime) }])).gesture
    source .press

/-- An up: the tracker ends with SHORT_RELEASE and RELEASE, or RELEASE alone when HELD (R128). -/
def State.trackUp (s : State) (source : Source) : State :=
  match s.gestures.trackers.find? (fun t => t.source == source) with
  | none => s
  | some t =>
    let s := s.setTrackers (s.gestures.trackers.filter fun t => t.source != source)
    match t.phase with
    | .short _ => (s.gesture source .shortRelease).gesture source .release
    | .held _ => s.gesture source .release

/-- A tracker's phase replaced. -/
def State.setPhase (s : State) (source : Source) (p : Phase) : State :=
  s.setTrackers (modifyFirst (fun t => t.source == source) (fun t => { t with phase := p })
    s.gestures.trackers)

/-- The tracker follows a key. -/
def Tracker.isKey (t : Tracker) : Bool :=
  match t.source with
  | .key _ => true
  | .ir _ _ => false

/-- The deadline a tracker has in its phase (Table 7-3). -/
def Phase.deadline : Phase → Time
  | .short t => t
  | .held t => t

/-- The earlier deadline of two trackers, the first one at the same instant. -/
def earlier (a b : Tracker) : Tracker :=
  if b.phase.deadline < a.phase.deadline then b else a

/-- The key tracker whose deadline is taken next: the earliest, and at the same instant the one whose
key stands first in the pressed-key list (R127); or the tracker of the held code. -/
def State.nextTracker (s : State) (which : TrackerSel) : Option Tracker :=
  match which with
  | .ir => s.gestures.trackers.find? fun t => !t.isKey
  | .key =>
    match s.scanner.pressed.filterMap fun p =>
        s.gestures.trackers.find? fun t => t.source == .key p.key with
    | [] => none
    | t :: ts => some (ts.foldl earlier t)

/-- A hold deadline expires, if it is due: HELD, the first repeat deadline, and HOLD (R127). -/
def State.holdExpiry (which : TrackerSel) (s : State) : State :=
  match s.nextTracker which with
  | some t =>
    match t.phase with
    | .short d =>
      if d ≤ s.now then
        (s.setPhase t.source (.held (s.now + s.gestures.repeatPeriod))).gesture t.source .hold
      else s
    | .held _ => s
  | none => s

/-- A repeat deadline expires, if it is due: the next one, and REPEAT (R127). -/
def State.repeatExpiry (which : TrackerSel) (s : State) : State :=
  match s.nextTracker which with
  | some t =>
    match t.phase with
    | .held d =>
      if d ≤ s.now then
        (s.setPhase t.source (.held (s.now + s.gestures.repeatPeriod))).gesture t.source .repeated
      else s
    | .short _ => s
  | none => s

/-! ### The pressed-key list (7.3) -/

/-- The pressed-key list replaced. -/
def State.setPressed (s : State) (ps : List Pressed) : State :=
  { s with scanner := { s.scanner with pressed := ps } }

/-- The row of a key (R119). -/
def keyRow (k : Key) : Nat := k.val / 6

/-- The column of a key (R119). -/
def keyCol (k : Key) : Nat := k.val % 6

/-- The key completes a rectangle with three listed keys (R122). -/
def completesRectangle (k : Key) (listed : List Key) : Bool :=
  listed.any fun a =>
    keyRow a == keyRow k && keyCol a != keyCol k &&
      listed.any fun b =>
        keyCol b == keyCol k && keyRow b != keyRow k &&
          listed.any fun d => keyRow d == keyRow b && keyCol d == keyCol a

/-- The pressed-key list holds at most 4 keys (R122). -/
def pressedSize : Nat := 4

/-- The condition a debounced press gives its key (R122). -/
def State.pressCondition (s : State) (k : Key) : KeyState :=
  if s.scanner.settling ≠ 0 then .heldAtStart
  else if pressedSize ≤ s.scanner.pressed.length then .ignored
  else if completesRectangle k (s.scanner.pressed.map Pressed.key) then .ignored
  else .listed

/-- A debounced press (R122). -/
def State.keyPress (s : State) (k : Key) : State :=
  let c := s.pressCondition k
  let s := s.setKey k c
  if c = .listed then
    (s.setPressed
        (s.scanner.pressed ++ [{ key := k, stuckAt := s.now + stuckTime }])).trackDown (.key k)
  else s

/-- A debounced release (R123). -/
def State.keyRelease (s : State) (k : Key) : State :=
  let c := (s.keyRec k).state
  let s := s.setKey k .up
  if c = .listed then
    (s.setPressed (s.scanner.pressed.filter fun p => p.key != k)).trackUp (.key k)
  else s

/-! ### Debounce and scan (7.1, 7.2) -/

/-- A reading disagrees with the debounced state (R120). -/
def KeyRec.disagrees (r : KeyRec) (down : Bool) : Bool := down != (r.state != .up)

/-- A reading completes a change of the debounced state: the third disagreement in a row (R120). -/
def KeyRec.completes (r : KeyRec) (down : Bool) : Bool := r.disagrees down && decide (2 ≤ r.count)

/-- The disagreement count after a reading that completes no change (R120). -/
def KeyRec.counted (r : KeyRec) (down : Bool) : KeyRec :=
  if r.completes down then { r with count := 0 }
  else { r with count := if r.disagrees down then r.count + 1 else 0 }

/-- One row of a scan: the row is driven alone, and its keys read down whose columns are pulled to it
(R119). -/
def readRow (columns : Vector (BitVec 6) 8) (down : BitVec 48) (row : Fin 8) : BitVec 48 :=
  down ||| ((columns[row]).setWidth 48 <<< (6 * row.val))

/-- The readings of a scan, bit k for key k: the rows are driven one at a time, in order 0 to 7
(R119). -/
def readings (columns : Vector (BitVec 6) 8) : BitVec 48 :=
  (List.finRange 8).foldl (readRow columns) 0

/-- The reading of a key in a scan. -/
def reads (down : BitVec 48) (k : Key) : Bool := down.getLsbD k.val

/-- The keys whose debounced state this scan changes, ascending: releases or presses (R119). -/
def State.changes (s : State) (down : BitVec 48) (pressed : Bool) : List Key :=
  (List.finRange 48).filter fun k =>
    reads down k == pressed && (s.keyRec k).completes (reads down k)

/-- The disagreement counts after a scan's readings (R120). -/
def KeyScanner.count (k : KeyScanner) (down : BitVec 48) : KeyScanner :=
  { k with keys := tabV fun i => (k.keys[i]).counted (reads down i) }

/-- A scan, if it is due (R119): debounce, then the releases and then the presses in ascending key
number; the next scan begins 8 ms later, and one settling scan has passed (R125). -/
def State.scan (down : BitVec 48) (s : State) : State :=
  if due s.now s.scanner.scanAt then
    let releases := s.changes down false
    let presses := s.changes down true
    let s : State := { s with scanner := s.scanner.count down }
    let s := releases.foldl State.keyRelease s
    let s := presses.foldl State.keyPress s
    { s with
      scanner :=
        { s.scanner with
          scanAt := some (s.now + scanTime), settling := s.scanner.settling - 1 } }
  else s

/-- The first due stuck deadline of the pressed-key list (R124): the Gesture Unit is told up, and
then the key leaves the list as STUCK. -/
def State.stuckExpiry (s : State) : State :=
  match s.scanner.pressed.find? (fun p => decide (p.stuckAt ≤ s.now)) with
  | none => s
  | some p =>
    let s := (s.setKey p.key .stuck).trackUp (.key p.key)
    s.setPressed (s.scanner.pressed.filter fun q => q.key != p.key)

/-! ### Starts (7.4) -/

/-- A DOWN key becomes HELD_AT_START; the disagreement count is kept (R125). -/
def KeyRec.held (r : KeyRec) : KeyRec := if r.state = .up then r else { r with state := .heldAtStart }

/-- The Key Scanner at a line restart (R125). -/
def KeyScanner.restart (k : KeyScanner) : KeyScanner :=
  { k with keys := mapV KeyRec.held k.keys, pressed := [], settling := 3 }

end Sys2Proof.Machine
end

