-- ==== Sys2Proof/Machine/Infrared.lean ====
section
/-! DEFINITION. Infrared reception (8.2, 8.3) and the events of an emission (8.4). -/

namespace Sys2Proof.Machine

/-! ### Windows (R131) -/

/-- A measured duration lies in the window of a nominal length of N µs at a tolerance of t %: from
N × (100 − t) / 100 to N × (100 + t) / 100 µs, both ends included. -/
def inWindow (nominal tolerance : Nat) (d : Time) : Bool :=
  decide (nominal * (100 - tolerance) * us ≤ 100 * d ∧ 100 * d ≤ nominal * (100 + tolerance) * us)

/-- A measured duration lies past the upper end of a window. -/
def pastWindow (nominal tolerance : Nat) (d : Time) : Bool :=
  decide (nominal * (100 + tolerance) * us < 100 * d)

/-- The code set of a number, if it is declared. -/
def IrReceiver.codeSet (r : IrReceiver) (s : SetId) : Option CodeSet := r.codeSets[s.val]?

/-- The set whose leader window holds a mark (R133); leader windows do not overlap (R131). -/
def IrReceiver.leaderSet (r : IrReceiver) (d : Time) : Option SetId :=
  (List.finRange 4).find? fun s =>
    match r.codeSet s with
    | some c => inWindow c.leaderMark c.tolerance d
    | none => false

/-! ### The decoder (R132 to R136) -/

/-- What the decoder hands to the held-code logic at the end of a stop mark (R135). -/
inductive Decoded where
  | code (set : SetId) (value : CodeValue)
  | hold (set : SetId)
  deriving DecidableEq, Repr

/-- The decoder after a mark that is judged as IDLE judges it (R133, R136). -/
def IrReceiver.leaderMark (r : IrReceiver) (d : Time) : Decoder :=
  match r.leaderSet d with
  | some s => .leader s
  | none => .idle

/-- The end of a mark of duration d: the decoder after it, and what it hands over. In IDLE the mark
may be a leader; in BITS it must be a bit mark; in STOP it completes the reception. A mark outside
the window abandons the reception and is then judged as IDLE does (R133 to R136). -/
def IrReceiver.markEnd (r : IrReceiver) (d : Time) : Decoder × Option Decoded :=
  match r.decoder with
  | .idle => (r.leaderMark d, none)
  | .leader s => (.leader s, none)
  | .bits s n v =>
    match r.codeSet s with
    | some c =>
      if inWindow c.bitMark c.tolerance d then (.bits s n v, none) else (r.leaderMark d, none)
    | none => (r.leaderMark d, none)
  | .stop s res =>
    match r.codeSet s with
    | some c =>
      if inWindow c.bitMark c.tolerance d then
        match res with
        | .code v => (.idle, some (.code s v))
        | .hold => (.idle, some (.hold s))
      else (r.leaderMark d, none)
    | none => (r.leaderMark d, none)

/-- A bit placed at a position of the value (R134). -/
def placeBit (v : CodeValue) (n : Nat) (b : Bool) : CodeValue :=
  if b then v ||| (1#32 <<< n) else v

/-- The decoder after a bit (R134). -/
def afterBit (c : CodeSet) (s : SetId) (n : Nat) (v : CodeValue) (b : Bool) : Decoder :=
  if n + 1 = c.bitCount then .stop s (.code (placeBit v n b)) else .bits s (n + 1) (placeBit v n b)

/-- The end of a space of duration d, at the start of the next mark (R133, R134, R136). -/
def IrReceiver.spaceEnd (r : IrReceiver) (d : Time) : Decoder :=
  match r.decoder with
  | .idle => .idle
  | .leader s =>
    match r.codeSet s with
    | some c =>
      if inWindow c.leaderSpace c.tolerance d then .bits s 0 0
      else if inWindow c.holdSpace c.tolerance d then .stop s .hold
      else .idle
    | none => .idle
  | .bits s n v =>
    match r.codeSet s with
    | some c =>
      if inWindow c.zeroSpace c.tolerance d then afterBit c s n v false
      else if inWindow c.oneSpace c.tolerance d then afterBit c s n v true
      else .idle
    | none => .idle
  | .stop s res => .stop s res

/-- The interval in progress has run past its limit: it is longer than every window it could still
match in the present state (R132). A mark is in progress when the input is active. -/
def IrReceiver.limitPassed (r : IrReceiver) (d : Time) : Bool :=
  match r.decoder with
  | .idle => false
  | .leader s =>
    match r.codeSet s with
    | some c =>
      !r.level && pastWindow c.leaderSpace c.tolerance d && pastWindow c.holdSpace c.tolerance d
    | none => true
  | .bits s _ _ =>
    match r.codeSet s with
    | some c =>
      if r.level then pastWindow c.bitMark c.tolerance d
      else pastWindow c.zeroSpace c.tolerance d && pastWindow c.oneSpace c.tolerance d
    | none => true
  | .stop s _ =>
    match r.codeSet s with
    | some c => r.level && pastWindow c.bitMark c.tolerance d
    | none => true

/-! ### The held code (R137, R138) -/

/-- The IR Receiver replaced. -/
def State.setIr (s : State) (r : IrReceiver) : State := { s with ir := r }

/-- The release timeout of a set, from the end of a stop mark now (R137). -/
def State.releaseAt (s : State) (set : SetId) : Time :=
  s.now + ((s.ir.codeSet set).map fun c => c.releaseTimeout * ms).getD 0

/-- A new release deadline. Where the IR up of a replaced code has begun an emission, blanking suspends
the deadline just set (R142; log entry 40). -/
def IrReceiver.deadline (r : IrReceiver) (now t : Time) : Release :=
  if r.blanking = .off then .running t else (Release.running t).suspend now

/-- A code becomes the held code with a new release deadline, and IR down is handed (R137). -/
def State.holdCode (s : State) (set : SetId) (v : CodeValue) : State :=
  (s.setIr
      { s.ir with
        held :=
          some { set := set, value := v
                 release := s.ir.deadline s.now (s.releaseAt set) } }).trackDown
    (.ir set v)

/-- The release deadline of the held code is refreshed (R137). -/
def State.refreshHeld (s : State) (h : HeldCode) : State :=
  s.setIr { s.ir with held := some { h with release := .running (s.releaseAt h.set) } }

/-- The held code becomes absent and IR up is handed (R137, R138). -/
def State.dropHeld (s : State) (h : HeldCode) : State :=
  (s.setIr { s.ir with held := none }).trackUp (.ir h.set h.value)

/-- What the decoder hands over (Table 8-4). -/
def State.decoded (s : State) (d : Decoded) : State :=
  match d, s.ir.held with
  | .code set v, none => s.holdCode set v
  | .code set v, some h =>
    if h.set = set ∧ h.value = v then s.refreshHeld h else (s.dropHeld h).holdCode set v
  | .hold _, none => s
  | .hold set, some h => if h.set = set then s.refreshHeld h else s

/-! ### Edges of the input (R132) -/

/-- The start of a mark: the space before it is judged, and the mark is measured from now (R132).
While the receiver is blanked only the level of the pin is followed. -/
def State.markStart (s : State) : State :=
  if s.ir.blanking ≠ .off then s.setIr { s.ir with level := true }
  else
    match s.ir.since with
    | some t =>
      s.setIr { s.ir with level := true, since := some s.now, decoder := s.ir.spaceEnd (s.now - t) }
    | none => s.setIr { s.ir with level := true, since := some s.now }

/-- The end of a mark: a mark that was measured is judged, and what it completes is handed over
(R132, R135). A mark that was in progress when blanking ended is ignored. -/
def State.markEnd (s : State) : State :=
  if s.ir.blanking ≠ .off then s.setIr { s.ir with level := false }
  else
    match s.ir.since with
    | some t =>
      let (d, out) := s.ir.markEnd (s.now - t)
      let s := s.setIr { s.ir with level := false, since := some s.now, decoder := d }
      match out with
      | some x => s.decoded x
      | none => s
    | none => s.setIr { s.ir with level := false }

/-- An edge of the input; a level the pin already has is no edge (R132). -/
def State.irEdge (mark : Bool) (s : State) : State :=
  if s.ir.level = mark then s else if mark then s.markStart else s.markEnd

/-- What the end of a mark now would complete (R135). -/
def State.completion (s : State) : Option Decoded :=
  if s.ir.blanking ≠ .off ∨ s.ir.level = false then none
  else
    match s.ir.since with
    | some t => (s.ir.markEnd (s.now - t)).2
    | none => none

/-- The edge that ends the stop mark of a complete code (R135, R137). -/
def State.completeCode (s : State) : State :=
  match s.completion with
  | some (.code _ _) => s.markEnd
  | _ => s

/-- The edge that ends the stop mark of a hold marker (R135, R137). -/
def State.holdMarker (s : State) : State :=
  match s.completion with
  | some (.hold _) => s.markEnd
  | _ => s

/-- The interval in progress passes its limit: the reception is abandoned (R136); the interval is
still measured from its starting edge. -/
def State.limitExpiry (s : State) : State :=
  if s.ir.blanking ≠ .off then s
  else
    match s.ir.since with
    | some t =>
      if s.ir.limitPassed (s.now - t) then s.setIr { s.ir with decoder := .idle } else s
    | none => s

/-- The release deadline expires, if it is running and due (R138); a blanked receiver hands nothing
(R142). -/
def State.releaseExpiry (s : State) : State :=
  match s.ir.held with
  | some h =>
    match h.release with
    | .running t => if s.ir.blanking = .off ∧ t ≤ s.now then s.dropHeld h else s
    | .suspended _ => s
  | none => s

/-! ### Emission (R141, R142, R144) -/

/-- The lengths, in µs, of the marks and spaces of a full code, alternating from the leader mark:
the low bits of the value, the least significant first (R135, R140). -/
def CodeSet.codeIntervals (c : CodeSet) (v : CodeValue) : List Nat :=
  [c.leaderMark, c.leaderSpace]
    ++ ((List.range c.bitCount).flatMap fun i =>
          [c.bitMark, if v.getLsbD i then c.oneSpace else c.zeroSpace])
    ++ [c.bitMark]

/-- The lengths of the marks and spaces of a hold marker (R135). -/
def CodeSet.holdIntervals (c : CodeSet) : List Nat := [c.leaderMark, c.holdSpace, c.bitMark]

/-- The marks and spaces of the frame an emission is sending: the full code first, then hold markers
(R141). -/
def Current.intervals (e : Current) (c : CodeSet) : List Nat :=
  if e.begun ≤ 1 then c.codeIntervals e.emission.code else c.holdIntervals

/-- When the next frame begins, or after the last frame the emission ends: one frame period after the
start of the latest frame, or at its end if that is later (R141). -/
def Current.frameDue (e : Current) (c : CodeSet) : Time :=
  e.frameStart + max (c.framePeriod * ms) ((e.intervals c).sum * us)

/-- The moment `Current.frameDue` gives for the current emission has come. -/
def State.frameIsDue (s : State) (e : Current) : Bool :=
  match s.ir.codeSet e.emission.set with
  | some c => decide (e.frameDue c ≤ s.now)
  | none => true

/-- The next frame of the emission begins, if it is due (R141). -/
def State.emissionFrame (s : State) : State :=
  match s.emitter.current with
  | some e =>
    if e.begun < e.emission.repeats ∧ s.frameIsDue e = true then
      { s with
        emitter :=
          { s.emitter with current := some { e with begun := e.begun + 1, frameStart := s.now } } }
    else s
  | none => s

/-- The current emission ends, if it is due: the oldest waiting entry becomes current and begins, and
its place is granted, or owed where another event of this instant reaches it first; with an empty
queue blanking ends 10 ms later (R140, R141, R142, R144). -/
def State.emissionEnd (s : State) : State :=
  match s.emitter.current with
  | some e =>
    if e.emission.repeats ≤ e.begun ∧ s.frameIsDue e = true then
      match s.emitter.queue with
      | next :: rest =>
        (({ s with emitter := { s.emitter with queue := rest } } : State).beginEmission
          next).placeFreed
      | [] =>
        { s with
          emitter := { s.emitter with current := none }
          ir := { s.ir with blanking := .ending (s.now + blankingTail) } }
    else s
  | none => s

/-- Blanking ends, if it is due: a suspended release deadline resumes, and measuring waits for the
next mark start (R142). -/
def State.blankingEnd (s : State) : State :=
  match s.ir.blanking with
  | .ending t =>
    if t ≤ s.now then
      s.setIr
        { s.ir with
          blanking := .off, decoder := .idle, since := none
          held := s.ir.held.map fun h => { h with release := h.release.resume s.now } }
    else s
  | _ => s

/-- The IR Receiver at a line restart: a reception is abandoned and the held code is cleared without
IR up (R139). -/
def IrReceiver.restart (r : IrReceiver) : IrReceiver := { r with decoder := .idle, held := none }

end Sys2Proof.Machine
end

