-- ==== Sys2Proof/Machine/Start.lean ====
section
/-! DEFINITION. The Start Controller's moves that reach every block: reset values, the line restart,
entry into ADDRESS_CONFLICT, entry into JOINING, join completion, and what it does with RECALL and
RECALL REPLY (chapter 6). -/

namespace Sys2Proof.Machine

/-! ### Resets (R99, R100) -/

/-- Every block at its power-on or pin reset values (R99), but for the start cause and the start
count; the model's clock, free choices and queue run on, the level of the line is outside the part (R5),
the pulse phase is no reset's, and the pattern clock starts (R167). -/
def State.resetBlocks (s : State) : State :=
  { State.reset with
    now := s.now, draws := s.draws, pending := s.pending
    line := { LineUnit.reset with wire := s.line.wire.restart s.now }
    start := { StartController.reset with cause := s.start.cause, count := s.start.count }
    outputs := { OutputUnit.reset with pulsePhase := s.outputs.pulsePhase }
    indicators := { IndicatorUnit.reset with clockStart := s.now } }

/-- LOADING begins: the straps are read once, the first scan begins, and straps of 0 end LOADING in
CONFIG_FAULT with BAD_ADDRESS (R100, R119). -/
def State.beginLoading (s : State) (straps : Addr) : State :=
  { s with
    scanner := { s.scanner with scanAt := some s.now }
    start :=
      { s.start with
        hold := .none, ownAddress := straps
        state := if straps = 0 then .configFault else .loading
        fault := if straps = 0 then .badAddress else .none } }

/-- The start cause set and the start count increased (R99). -/
def State.startBy (s : State) (cause : StartCause) : State :=
  { s with start := { s.start with cause := cause, count := countUp s.start.count } }

/-- Power-on: cause POWER, count 1, every block at its power-on values, and LOADING at the end of the
power-on sequence; an asserted reset pin goes on holding the part (R99). -/
def State.powerOn (s : State) (straps : Addr) : State :=
  let t := s.resetBlocks
  let t := { t with start := { t.start with cause := .power, count := 1 } }
  if s.start.hold = .pin then { t with start := { t.start with hold := .pin } }
  else t.beginLoading straps

/-- The reset pin is asserted: every block at its reset values, held there (R5, R99). A pin asserted in
the power-on sequence holds the part in its place, and its release begins LOADING (log entry 39). -/
def State.pinAsserted (s : State) : State :=
  let t := s.resetBlocks
  { t with start := { t.start with hold := .pin } }

/-- The reset pin is released after being asserted: cause PIN, count up, LOADING begins (R99). -/
def State.pinReleased (s : State) (straps : Addr) : State :=
  if s.start.hold = .pin then (s.resetBlocks.startBy .pin).beginLoading straps else s

/-! ### Claims given to all blocks -/

/-- The Transmit Queue emptied, without outcomes (R36). -/
def State.emptyQueue (s : State) : State := { s with queue := TxQueue.reset }

/-- The Request Table emptied, without outcomes; the tag counter is kept (R97). -/
def State.emptyRequests (s : State) : State :=
  { s with requests := { s.requests with entries := [], waiting := [] } }

/-- Both run slots made IDLE; generations kept (R155, R161). -/
def State.stopRuns (s : State) : State :=
  { s with macros := { s.macros with slots := mapV RunSlot.ended s.macros.slots } }

/-- Every running flash discarded (R170). -/
def State.stopFlashes (s : State) : State :=
  { s with
    indicators :=
      { s.indicators with
        indicators := mapV (fun i => { i with flash := none }) s.indicators.indicators } }

/-! ### The line restart (R116) -/

/-- A peer record at a line restart: UNSEEN, its recorded incarnation kept (R38). -/
def PeerRec.restart (r : PeerRec) : PeerRec := { PeerRec.reset with incarnation := r.incarnation }

/-- The station state and the Start Controller's fields at a line restart (R98, R116). -/
def StartController.restart (c : StartController) (now : Time) : StartController :=
  { c with
    state := .listening, cause := .line, count := countUp c.count
    listenAt := some (now + c.listenWindow), recallsOut := 0, recallAt := none
    collection := none }

/-- A line restart (R116): the state first, then each block's claim. -/
def State.lineRestart (s : State) : State :=
  let s : State :=
    { s with
      start := s.start.restart s.now
      peers :=
        { s.peers with
          records := mapV PeerRec.restart s.peers.records, ownIncarnation := 0
          announceAt := none }
      scanner := s.scanner.restart
      gestures := { s.gestures with trackers := [] }
      ir := s.ir.restart
      line := { s.line with answer := none } }
  s.emptyQueue.startChannels.emptyRequests.stopRuns.stopEmitter.stopFlashes

/-! ### Entry into ADDRESS_CONFLICT (R117) -/

/-- A load output at entry into ADDRESS_CONFLICT: its fade stops (R165). -/
def LoadOutput.stop (o : LoadOutput) : LoadOutput := { o with stepAt := none }

/-- Entry into ADDRESS_CONFLICT (R117): the state first, then each block's claim. -/
def State.enterConflict (s : State) : State :=
  let s : State :=
    { s with
      start :=
        { s.start with
          state := .addressConflict, listenAt := none, recallsOut := 0, recallAt := none
          collection := none }
      peers :=
        { s.peers with
          records := mapV (fun r => { r with silentAt := none, fetchOut := false }) s.peers.records
          announceAt := none }
      outputs := { s.outputs with loads := mapV LoadOutput.stop s.outputs.loads }
      indicators := { s.indicators with clockStart := s.now } }
  ((s.mapChans Record.freeze).emptyQueue.emptyRequests.stopRuns.stopEmitter).stopFlashes

/-! ### Joining (6.6, 6.8) -/

/-- The channel lists of the RECALL entries: the HOME channels ascending, 14 to an entry; one empty
list if there are none (R108). -/
def recallLists (homes : List Chan) : List (List Chan) :=
  if homes.isEmpty then [[]] else pieces 14 homes

/-- Entry into JOINING (R108). -/
def State.enterJoining (s : State) : State :=
  let lists := recallLists s.homeChans
  let s : State :=
    { s with
      start :=
        { s.start with
          state := .joining, listenAt := none, recallsOut := lists.length
          collection := some { latest := 0, triples := [] } } }
  s.offerAll 0 (lists.map Content.recall)

/-- The listen window expires, if it is due (R106). -/
def State.listenExpiry (s : State) : State :=
  if s.start.state = .listening ∧ due s.now s.start.listenAt = true then s.enterJoining else s

/-- The value a collection holds for a channel (R114). -/
def Collection.valueOf (c : Collection) (ch : Chan) : Option Byte :=
  (c.triples.find? fun t => t.chan == ch).map Triple.value

/-- HOME channels set at join completion, and the outputs told, channel by channel (R57, R58). -/
def State.joinChan (c : Collection) (incarnation : Byte) (s : State) (ch : Chan) : State :=
  match s.chan ch with
  | .home h =>
    let h' := h.join (c.valueOf ch) incarnation
    (s.setChan ch (.home h')).tellOutputs ch h'.value
  | _ => s

/-- An ANNOUNCE is offered and the announce timer starts for one period, whatever the answer
(R48). -/
def State.offerAnnounce (s : State) : State :=
  let (_, s) := s.offer .announce 0
  { s with peers := { s.peers with announceAt := some (s.now + periodTime s.peers.ownPeriod) } }

/-- The station addresses 1–31, ascending. -/
def addresses : List Addr := (List.range 31).map fun i => BitVec.ofNat 5 (i + 1)

/-- FETCH decisions at join completion: every owner whose record is PRESENT, ascending (R75). -/
def State.fetchFrom (s : State) (a : Addr) : State :=
  if (s.peer a).presence = .present then s.fetchDecision a else s

/-- Join completion (R114, R115). -/
def State.joinComplete (s : State) (c : Collection) : State :=
  let inc := nextIncarnation c.latest
  let s : State :=
    { s with
      start := { s.start with state := .active, recallAt := none, collection := none }
      peers := { s.peers with ownIncarnation := inc } }
  let s := s.homeChans.foldl (State.joinChan c inc) s
  let s := s.resetCursor.offerAnnounce
  addresses.foldl State.fetchFrom s

/-- The recall window expires, if it is due (R114). -/
def State.recallExpiry (s : State) : State :=
  if s.start.state = .joining ∧ due s.now s.start.recallAt = true then
    s.joinComplete (s.start.collection.getD { latest := 0, triples := [] })
  else s

/-- The announce timer expires in ACTIVE, if it is due (R48). -/
def State.announceExpiry (s : State) : State :=
  if s.start.state = .active ∧ due s.now s.peers.announceAt = true then s.offerAnnounce else s

/-! ### Recall (R110, R111, R113, R79) -/

/-- A triple of a reply under the collection's latest incarnation: kept when the channel is HOME
here and nothing, or nothing as new, is held for it (R110). -/
def Collection.keep (homes : List Chan) (c : Collection) (t : Triple) : Collection :=
  if homes.contains t.chan then
    match c.triples.find? (fun u => u.chan == t.chan) with
    | none => { c with triples := c.triples ++ [t] }
    | some u =>
      if newer t.version u.version then
        { c with triples := modifyFirst (fun u => u.chan == t.chan) (fun _ => t) c.triples }
      else c
  else c

/-- A reply merged into the collection (R110). -/
def Collection.merge (c : Collection) (homes : List Chan) (j : Byte) (ts : List Triple) :
    Collection :=
  if c.latest = 0 ∨ later j c.latest = true then
    ts.foldl (Collection.keep homes) { latest := j, triples := [] }
  else if j = c.latest then ts.foldl (Collection.keep homes) c
  else c

/-- A RECALL REPLY addressed to this station; whether it is answered TAKEN (R110, R111). -/
def State.recallReplied (s : State) (j : Byte) (ts : List Triple) : Bool × State :=
  match s.start.collection with
  | some c =>
    if s.start.state = .joining then
      (true, { s with start := { s.start with collection := some (c.merge s.homeChans j ts) } })
    else (false, s.bump .lateRecallReplies)
  | none => (false, s.bump .lateRecallReplies)

/-- The RECALL REPLY entries for a RECALL (R79): qualifying channels ascending, three to an entry; one
empty list if none qualifies. -/
def State.recallAnswers (s : State) (source : Addr) (j : Byte) (listed : List Chan) :
    List Content :=
  let chans :=
    (s.chansWhere fun r => r.mirrorOf source (MirrorRec.reports j)).filter listed.contains
  if chans.isEmpty then [.recallReply j []] else (pieces 3 chans).map (Content.recallReply j)

/-- A taken RECALL: answered in JOINING and ACTIVE when an incarnation is recorded (R113). -/
def State.recalled (s : State) (source : Addr) (listed : List Chan) : State :=
  let j := (s.peer source).incarnation
  if s.start.state.onTheLine = true ∧ j ≠ 0 then s.offerAll source (s.recallAnswers source j listed)
  else s

end Sys2Proof.Machine
end

