-- ==== Sys2Proof/Machine/Peers.lean ====
section
/-! DEFINITION. The Peer Table's evidence and silence (chapter 3). -/

namespace Sys2Proof.Machine

/-- A peer record after evidence: presence and incarnation, then the period, then the silence
deadline (R39 to R43). -/
def PeerRec.heard (r : PeerRec) (incarnation : Byte) (period : Option Byte) (now : Time) : PeerRec :=
  let p := period.orElse fun _ => r.period
  { r with
    presence := if incarnation = 0 then .joining else .present
    incarnation := if incarnation = 0 then r.incarnation else incarnation
    period := p
    silentAt := some (now + silenceTime p) }

/-- The evidence shows that the peer has joined again: another nonzero incarnation was recorded
(R41). -/
def PeerRec.rejoins (r : PeerRec) (incarnation : Byte) : Bool :=
  incarnation != 0 && r.incarnation != 0 && r.incarnation != incarnation

/-- The evidence makes the record PRESENT from another presence (R46). -/
def PeerRec.becomesPresent (r : PeerRec) (incarnation : Byte) : Bool :=
  incarnation != 0 && r.presence != .present

/-- The claims of a piece of evidence (R40, R41): STALE marking, then cancellation. -/
def State.peerClaims (s : State) (source : Addr) (r : PeerRec) (incarnation : Byte) : State :=
  if incarnation = 0 then (s.staleClaim source none).cancelRequests source
  else if r.rejoins incarnation then
    (s.staleClaim source (some incarnation)).cancelRequests source
  else s

/-- Evidence from a valid frame (R39, R50): an address conflict if the source is the own address;
otherwise the record and then the claims. Whether a became-PRESENT notice follows (R46). -/
def State.evidence (s : State) (source : Addr) (incarnation : Byte) (period : Option Byte) :
    Bool × State :=
  if s.start.state.hearsPeers = false then (false, s)
  else if source = s.start.ownAddress then (false, s.enterConflict)
  else
    let r := s.peer source
    (r.becomesPresent incarnation,
      (s.setPeer source (r.heard incarnation period s.now)).peerClaims source r incarnation)

/-- A peer's silence deadline expires, if it is due (R44). -/
def State.silenceExpiry (a : Addr) (s : State) : State :=
  let r := s.peer a
  if s.start.state.hearsPeers = true ∧ due s.now r.silentAt = true then
    (s.setPeer a { r with presence := .silent, silentAt := none }).staleClaim a none
  else s

end Sys2Proof.Machine
end

