-- ==== Sys2Proof/Machine/Service.lean ====
section
/-! DEFINITION. The Service Responder (chapter 11), the owner's side of REQUEST and FETCH (4.5, 4.8),
and what each kind of taken frame does. -/

namespace Sys2Proof.Machine

/-! ### REPLY contents (R173, R174, Table 12-4) -/

/-- The number of records with a property, as a byte. -/
def State.countChans (s : State) (p : Record → Bool) : Byte :=
  BitVec.ofNat 8 (s.chansWhere p).length

/-- The present count: PRESENT peer records, SELF apart (R37). -/
def State.presentCount (s : State) : Byte :=
  BitVec.ofNat 8
    (addresses.countP fun a => a != s.start.ownAddress && (s.peer a).presence == .present)

/-- The contents of a SUMMARY reply (R173). -/
def State.summaryBytes (s : State) : List Byte :=
  [s.start.state.code, s.peers.ownIncarnation, s.start.cause.code, s.start.count,
      s.start.fault.code]
    ++ wordBytes s.start.imageId
    ++ [s.countChans Record.isHome, s.countChans Record.isMirror, s.presentCount]

/-- A flag as a byte. -/
def flagByte (b : Bool) : Byte := if b then 1 else 0

/-- The contents of a CHANNEL reply (R174). -/
def State.channelBytes (s : State) (c : Chan) : List Byte :=
  match s.chan c with
  | .unused => List.replicate 12 0
  | .home h =>
    [1, h.kind.code, s.start.ownAddress.setWidth 8, h.value] ++ wordBytes (h.version.setWidth 16)
      ++ [h.heldIncarnation, h.state.code, flagByte h.dirty, h.lastOrigin.setWidth 8, h.default,
        if h.kind = .level then h.memory else 0]
  | .mirror m =>
    [2, m.kind.code, m.owner.setWidth 8, m.value] ++ wordBytes (m.version.setWidth 16)
      ++ [m.heldIncarnation, m.state.code, 0, 0, 0, 0]

/-- The time remaining to a deadline in units of 10 ms, rounded up; 0 when absent (R174, R178). -/
def remaining (now : Time) (deadline : Option Time) : BitVec 16 :=
  match deadline with
  | some t => BitVec.ofNat 16 ((t - now + (remainingUnit - 1)) / remainingUnit)
  | none => 0

/-- The contents of a PEER reply (R174). -/
def State.peerBytes (s : State) (a : Addr) : List Byte :=
  if a = s.start.ownAddress then [4, s.peers.ownIncarnation, s.peers.ownPeriod, 0, 0, 0]
  else
    let r := s.peer a
    [r.presence.code, r.incarnation, r.period.getD 0] ++ wordBytes (remaining s.now r.silentAt)
      ++ [flagByte r.fetchOut]

/-- The contents of a COUNTERS reply (R173). -/
def State.counterBytes (s : State) (g : Nat) : List Byte :=
  (counterGroup g).flatMap fun c => wordBytes (s.service.counters.get c)

/-- The contents of the reply to an item and index; none when the item is unknown, the index is out of
range, or the station is in CONFIG_FAULT and the item is not SUMMARY (R172). -/
def State.replyContents (s : State) (item index : Byte) : Option (List Byte) :=
  let i := index.toNat
  match item.toNat with
  | 1 => if i = 0 then some s.summaryBytes else none
  | 2 =>
    if i < 64 ∧ s.start.state ≠ .configFault then some (s.channelBytes (chanOf index)) else none
  | 3 =>
    if 1 ≤ i ∧ i ≤ 31 ∧ s.start.state ≠ .configFault then
      some (s.peerBytes (index.setWidth 5))
    else none
  | 4 => if i < 3 ∧ s.start.state ≠ .configFault then some (s.counterBytes i) else none
  | _ => none

/-- A taken QUERY addressed to this station; whether it is answered TAKEN (R172). -/
def State.queried (s : State) (source : Addr) (item index : Byte) : Bool × State :=
  if s.start.state = .listening then (false, s)
  else
    match s.replyContents item index with
    | none => (false, s)
    | some bytes =>
      let (a, s') := s.offer (.reply ([item, index] ++ bytes)) source
      (a == .admitted, s')

/-- A taken RESTART addressed to this station; whether it is answered TAKEN (Table 11-2). The restart
begins at the end of the third slot (R176). -/
def State.restartAsked (s : State) (target : Byte) : Bool × State :=
  if s.start.state ≠ .listening ∧ target = s.peers.ownIncarnation then
    (true,
      { s with service := { s.service with restart := .atTime (s.now + 3 * bitTime) } })
  else (false, s)

/-! ### REQUEST and FETCH at the owner -/

/-- A REQUEST addressed to this station: the checks of Table 4-8 in order, and then the operation with
the requester's pair; whether it is answered TAKEN (R67, R68). -/
def State.requested (s : State) (source : Addr) (tag : Byte) (c : Chan) (opCode operand : Byte) :
    Bool × State :=
  if s.start.state ≠ .active then (false, s)
  else
    match s.chan c, Op.ofCode opCode with
    | .home h, some op =>
      if h.state = .live ∧ opValid h.kind op operand = true ∧ s.queue.changeCanBeHad c = true then
        (true, s.apply c h op operand source [{ address := source.setWidth 8, tag := tag }])
      else (false, s)
    | _, _ => (false, s)

/-- A FETCH addressed to this station; whether it is answered TAKEN (R76). -/
def State.fetched (s : State) (source : Addr) (listed : List Chan) : Bool × State :=
  if s.start.state ≠ .active then (false, s)
  else
    let lists := pieces 3 (firsts (listed.filter fun c => (s.chan c).isHome))
    if lists.isEmpty ∨ s.queue.room 1 < lists.length then (false, s)
    else (true, s.offerAll source (lists.map Content.state))

/-! ### Taken frames by kind (R16) -/

/-- The frame is addressed to this station. Destination 0 is always a broadcast (R6). -/
def State.isMine (s : State) (f : Frame) : Bool :=
  f.destination != 0 && f.destination == s.start.ownAddress

/-- A taken frame handed to its block in LISTENING, JOINING and ACTIVE; whether the block returns
TAKEN for a frame addressed to this station (R16). A frame addressed to another station reaches its
block, which takes from it what its own chapter says: the triples of a STATE, and nothing from the
others (R67, R76, R78, R79, R172, R175). -/
def State.handByKind (s : State) (f : Frame) : Bool × State :=
  let ts := triplesOf f.kind f.body
  let chans := f.body.map chanOf
  match f.kind.toNat with
  | 1 => (true, s.judgeAll f.source f.incarnation ts)
  | 2 =>
    let s := s.judgeAll f.source f.incarnation ts
    match ts with
    | t :: _ => (true, s.matchPairs f.source t.chan (rawPairs (f.body.drop 4)))
    | [] => (true, s)
  | 3 =>
    if s.isMine f then
      s.requested f.source (byteAt f.body 0) (chanOf (byteAt f.body 1)) (byteAt f.body 2)
        (byteAt f.body 3)
    else (false, s)
  | 4 => if s.isMine f then s.fetched f.source chans else (false, s)
  | 5 => (true, s.judgeAll f.source f.incarnation ts)
  | 6 => (true, s.recalled f.source chans)
  | 7 => if s.isMine f then s.recallReplied (byteAt f.body 0) ts else (false, s)
  | 8 =>
    if s.isMine f then s.queried f.source (byteAt f.body 0) (byteAt f.body 1) else (false, s)
  | 10 => if s.isMine f then s.restartAsked (byteAt f.body 0) else (false, s)
  | _ => (false, s)

/-- The kinds whose triples are judged by the Channel Table: a FETCH decision waits for them
(R59, R75). -/
def kindJudged : Nat → Bool
  | 1 => true
  | 2 => true
  | 5 => true
  | _ => false

/-- The hand-over by kind with the FETCH decision of a became-PRESENT notice, or of a taken ANNOUNCE
(R75): after the triples where the frame's triples are judged; before a QUERY is handed over, since
its reply carries the state after the frame's own effects (R172); for another frame's notice the
manual fixes no order between the decision and the hand-over, and a free choice takes it. -/
def State.handOver (s : State) (f : Frame) (notice : Bool) : Bool × State :=
  if kindJudged f.kind.toNat then
    let (t, s) := s.handByKind f
    (t,
      if notice || f.kind == kindAnnounce then
        s.thenDo (.fetch f.source) fun s => s.fetchDecision f.source
      else s)
  else if f.kind = kindQuery then (if notice then s.fetchDecision f.source else s).handByKind f
  else if notice && s.wouldFetch f.source then
    let (k, s) := s.draw
    if k % 2 = 0 then (s.fetchDecision f.source).handByKind f
    else
      let (t, s) := s.handByKind f
      (t, s.fetchDecision f.source)
  else s.handByKind f

/-- The hand-over of a taken frame, gated by the station state (R16): in CONFIG_FAULT only a QUERY or
RESTART addressed to this station, in LOADING and ADDRESS_CONFLICT nothing. -/
def State.handFrame (s : State) (f : Frame) (notice : Bool) : Bool × State :=
  match s.start.state with
  | .listening => s.handOver f notice
  | .joining => s.handOver f notice
  | .active => s.handOver f notice
  | .configFault =>
    if s.isMine f && (f.kind == kindQuery || f.kind == kindRestart) then s.handByKind f
    else (false, s)
  | .loading => (false, s)
  | .addressConflict => (false, s)

/-! ### The end of the frame check (1.6, 1.7) -/

/-- How a frame ended at this receiver (Table 1-6). -/
inductive Judgement where
  | garbled
  | malformed
  | taken (accepted : Bool)
  deriving DecidableEq, Repr

/-- The station state lets a receiver drive a slot for a destination (R6, R18): in JOINING and ACTIVE
for a broadcast and for its own address, in CONFIG_FAULT for its own address only. -/
def State.mayAnswer (s : State) (f : Frame) : Bool :=
  match s.start.state with
  | .joining => f.destination == 0 || s.isMine f
  | .active => f.destination == 0 || s.isMine f
  | .configFault => s.isMine f
  | _ => false

/-- The slot of Table 1-6, where the state allows an answer (R18). -/
def State.slotFor (s : State) (f : Frame) (j : Judgement) : Option AnswerSlot :=
  if s.mayAnswer f then
    match j with
    | .garbled => some .garbled
    | .malformed => if f.destination = 0 then none else some .declined
    | .taken accepted =>
      if f.destination = 0 ∨ accepted = true then some .taken else some .declined
  else none

/-- The receiver enters ANSWERING with its slot decided; the station state is read now (R12, R16,
R17). -/
def State.answering (s : State) (f : Frame) (j : Judgement) : State :=
  { s with
    line :=
      { s.line with
        activity := .answering, reception := none
        answer := (s.slotFor f j).map fun slot => { slot := slot, seen := 0 }
        wire := s.line.wire.heard s.now } }

/-- The receiver disregards the rest of the frame (R7). -/
def State.ignoreFrame (s : State) : State :=
  { s with
    line :=
      { s.line with
        activity := .ignoring, reception := none, answer := none
        wire := s.line.wire.heard s.now } }

/-- A header check failure (R7). -/
def State.headerFailure (s : State) : State := s.ignoreFrame.bump .headerFailures

/-- A garbled frame (R14). -/
def State.garbledFrame (s : State) (f : Frame) : State :=
  (s.bump .framesGarbled).answering f .garbled

/-- A malformed frame behind its evidence: a notice starts a FETCH decision (R46, R75), and the frame is
answered. -/
def State.malformedHeard (f : Frame) (notice : Bool) (s : State) : State :=
  (if notice then s.fetchDecision f.source else s).answering f .malformed

/-- A malformed frame: counted once, evidence of presence if its source is nonzero, and nothing of its
body (R15). -/
def State.malformedFrame (s : State) (f : Frame) : State :=
  let s := s.bump .framesMalformed
  if f.source = 0 then s.answering f .malformed
  else
    let (notice, s) := s.evidence f.source f.incarnation none
    s.thenDo (.malformed f notice) (State.malformedHeard f notice)

/-- The period a taken frame gives to the Peer Table (R16, R42). -/
def Frame.period? (f : Frame) : Option Byte :=
  if f.kind = kindAnnounce then some (byteAt f.body 0) else none

/-- A taken frame behind its evidence: handed by kind, and answered (R16, R18). -/
def State.takenHeard (f : Frame) (notice : Bool) (s : State) : State :=
  let (accepted, s) := s.handFrame f notice
  s.answering f (.taken accepted)

/-- A taken frame: counted, given to the Peer Table, and then, when all that its evidence does has been
done, handed on (R16). -/
def State.takenFrame (s : State) (f : Frame) : State :=
  let s := s.bump .framesTaken
  let (notice, s) := s.evidence f.source f.incarnation f.period?
  s.thenDo (.handing f notice) (State.takenHeard f notice)

/-- The bits read so far are the first bits of the frame: a station that lost arbitration goes on from
them (R10, R12). -/
def State.receivesBits (s : State) (bits : List Bool) : Bool :=
  match s.line.reception with
  | some heard => heard.bits.isPrefixOf bits
  | none => false

/-- A frame heard to its end, with the kind code of its row: judged at its header, at its frame check
and for its form, and then taken (R7, R8, R12 to R16). It is this station's to receive when the Line
Unit is in RECEIVING. -/
def State.receive (kind : BitVec 4) (rx : Rx) (s : State) : State :=
  if s.line.activity = .receiving ∧ s.receivesBits (rxBits kind rx) = true then
    if headerPasses kind rx = false then s.headerFailure
    else if checkPasses kind rx = false then s.garbledFrame (frameOf kind rx)
    else if wellFormed s.channels.records (frameOf kind rx) then s.takenFrame (frameOf kind rx)
    else s.malformedFrame (frameOf kind rx)
  else s

/-- The bits read of a frame, if they reach the end of its header, fail the header check or declare a
length of 15 (R7). -/
def headerReadFails (bits : List Bool) : Bool :=
  decide (bits.length < 32)
    || msbBits (headerCheckOf (bits.take 28)) != (bits.drop 28).take 4
    || ((bits.drop 24).take 4).all id

/-- The header of the frame being received fails (R7). -/
def State.headerFailed (s : State) : State :=
  match s.line.reception with
  | some r =>
    if s.line.activity = .receiving ∧ headerReadFails r.bits = true then s.headerFailure else s
  | none => s

/-! ### The pending restart (R176) -/

/-- The pending restart is due: at the end of the third slot, or when the line is IDLE after it became
STUCK (R176). -/
def State.restartDue (s : State) : Bool :=
  match s.service.restart with
  | .clear => false
  | .atTime t => decide (t ≤ s.now)
  | .atIdle => s.line.condition == .idle

/-- The pending-restart flag cleared. -/
def State.clearRestart (s : State) : State :=
  { s with service := { s.service with restart := .clear } }

/-- The restart that the station state gives (R176): in CONFIG_FAULT a new start with cause LINE
through LOADING, as after a pin reset (R99, R105); in JOINING and ACTIVE a line restart (R116). -/
def State.pendingRestart (straps : Addr) (s : State) : State :=
  if s.restartDue then
    match s.start.state with
    | .configFault => (s.resetBlocks.startBy .line).beginLoading straps
    | .joining => s.clearRestart.lineRestart
    | .active => s.clearRestart.lineRestart
    | _ => s
  else s

end Sys2Proof.Machine
end

