-- ==== Sys2Proof/Machine/Image.lean ====
section
/-! DEFINITION. Loading: the start image byte by byte, its checks in order, and what a validated image
gives the blocks (6.3, 12.3). -/

namespace Sys2Proof.Machine

/-! ### The image header (R101, Table 12-5) -/

/-- The length of the image header. -/
def headerLength : Nat := 40

/-- The declared length (Table 12-5). -/
def declaredLength (l : List Byte) : Nat := (wordAt l 4).toNat

/-- The offset of section k + 1 (Table 12-5). -/
def sectionOffset (l : List Byte) (k : Nat) : Nat := (wordAt l (8 + 4 * k)).toNat

/-- The length of section k + 1 (Table 12-5). -/
def sectionLength (l : List Byte) (k : Nat) : Nat := (wordAt l (10 + 4 * k)).toNat

/-- The bytes of section k + 1. -/
def sectionBytes (l : List Byte) (k : Nat) : List Byte :=
  (l.drop (sectionOffset l k)).take (sectionLength l k)

/-- Two sections share no byte. -/
def apart (l : List Byte) (j k : Nat) : Bool :=
  sectionLength l j == 0
    || decide (sectionOffset l j + sectionLength l j ≤ sectionOffset l k)
    || decide (sectionOffset l k + sectionLength l k ≤ sectionOffset l j)

/-- Section k + 1 lies wholly within the declared length, and, if it is not empty, behind the header and
apart from the sections before it (R101; log entry 12). -/
def sectionFits (l : List Byte) (k : Nat) : Bool :=
  decide (sectionOffset l k + sectionLength l k ≤ declaredLength l)
    && (sectionLength l k == 0
        || (decide (headerLength ≤ sectionOffset l k) && (List.range k).all fun j => apart l j k))

/-- How many entries of the section table have been read. -/
def sectionsRead (l : List Byte) : Nat := min 8 ((l.length - 8) / 4)

/-- The first check of the header that fails on the bytes read so far (R101; log entry 11). -/
def headerFault (l : List Byte) : Option FaultCode :=
  if 2 ≤ l.length ∧ ¬(byteAt l 0 = 0xA5 ∧ byteAt l 1 = 0x46) then some .badSignature
  else if 6 ≤ l.length ∧ ¬(headerLength ≤ declaredLength l ∧ declaredLength l ≤ 4096) then
    some .badLength
  else if (List.range (sectionsRead l)).all (sectionFits l) then none
  else some .badLength

/-- The image check over every byte but the check field agrees with it (R102). -/
def imageCheckPasses (l : List Byte) : Bool :=
  imageCheckOf (byteBits (l.take 6 ++ l.drop 8)) == wordAt l 6

/-! ### Records of the sections (Table 12-6, R179) -/

/-- The records of a section; none when its length is no whole multiple of the record size. -/
def recordsOf (size : Nat) (l : List Byte) : Option (List (List Byte)) :=
  if l.length % size = 0 then some (pieces size l) else none

/-- At most so many records, each parsed by a function. -/
def parseSection {α : Type} (size most : Nat) (parse : List Byte → Option α) (l : List Byte) :
    Option (List α) :=
  match recordsOf size l with
  | none => none
  | some rs => if rs.length ≤ most then allSome (rs.map parse) else none

/-- A value if a condition holds. -/
def onlyIf {α : Type} (b : Bool) (a : α) : Option α := if b then some a else none

/-- The number lies in a range, both ends included. -/
def within (lo hi n : Nat) : Bool := decide (lo ≤ n ∧ n ≤ hi)

/-- The settings of the image. -/
structure Settings where
  period       : Byte
  listenWindow : Time
  holdTime     : Time
  repeatPeriod : Time
  deriving DecidableEq, Repr

/-- The settings section (Table 6-3, order 1; Table 12-6). -/
def parseSettings (l : List Byte) : Option Settings :=
  let p := (byteAt l 0).toNat
  let w := (byteAt l 1).toNat
  let h := (wordAt l 2).toNat
  let r := (wordAt l 4).toNat
  onlyIf
    (l.length == 6 && within 5 40 p && within 20 160 w && decide (3 * p + 5 ≤ w)
      && within 200 2000 h && within 50 1000 r)
    { period := byteAt l 0, listenWindow := 100 * w * ms, holdTime := h * ms,
      repeatPeriod := r * ms }

/-- Table 12-3. -/
def ChanKind.ofCode (b : Byte) : Option ChanKind :=
  match b.toNat with
  | 1 => some .switch
  | 2 => some .level
  | 3 => some .select
  | _ => none

/-- A HOME record as the image declares it, before its start values (R56). -/
def HomeRec.declared (k : ChanKind) (d : Byte) : HomeRec :=
  { kind := k, value := d, default := d, memory := 0, version := 0, heldIncarnation := 0,
    state := .recalling, dirty := false, lastOrigin := 0 }

/-- A MIRROR record as the image declares it. -/
def MirrorRec.declared (k : ChanKind) (owner : Addr) : MirrorRec :=
  { kind := k, owner := owner, value := 0, version := 0, heldIncarnation := 0, state := .unknown }

/-- A channel record (Table 6-3, order 2; Table 12-6). -/
def parseChannel (own : Addr) (l : List Byte) : Option (Chan × Record) :=
  let owner := byteAt l 3
  match ChanKind.ofCode (byteAt l 2) with
  | none => none
  | some k =>
    if (byteAt l 0).toNat < 64 then
      match (byteAt l 1).toNat with
      | 1 => onlyIf (k.holds (byteAt l 3)) (chanOf (byteAt l 0), .home (.declared k (byteAt l 3)))
      | 2 =>
        onlyIf (within 1 31 owner.toNat && owner != own.setWidth 8)
          (chanOf (byteAt l 0), .mirror (.declared k (owner.setWidth 5)))
      | _ => none
    else none

/-- The channel section: at most 64 records, no number twice (Table 6-3, order 2). -/
def parseChannels (own : Addr) (l : List Byte) : Option (List (Chan × Record)) :=
  match parseSection 4 64 (parseChannel own) l with
  | none => none
  | some rs => onlyIf (noRepeats (rs.map Prod.fst)) rs

/-- What the later sections ask of the image: the records declared, and how many code sets and
macros are (R103). -/
structure Declared where
  records : Vector Record 64
  sets    : Nat
  macros  : Nat
  deriving DecidableEq, Repr

/-- The declared record of a channel byte; UNUSED outside 0–63. -/
def Declared.record (d : Declared) (c : Byte) : Record :=
  if c.toNat < 64 then d.records[chanOf c] else .unused

/-- The channel is a declared HOME or MIRROR channel. -/
def Declared.hasChannel (d : Declared) (c : Byte) : Bool := (d.record c).kind?.isSome

/-- The value lies within the kind of a declared channel. -/
def Declared.holds (d : Declared) (c v : Byte) : Bool :=
  match (d.record c).kind? with
  | some k => k.holds v
  | none => false

/-- The code set is declared (R103). -/
def Declared.hasSet (d : Declared) (b : Byte) : Bool := decide (b.toNat < d.sets)

/-- The macro is declared (R103). -/
def Declared.hasMacro (d : Declared) (b : Byte) : Bool := decide (b.toNat < d.macros)

/-- A code set number from a byte; an image with more than 4 fails BAD_CODESET. -/
def setOf (b : Byte) : SetId := ⟨b.toNat % 4, Nat.mod_lt _ (by decide)⟩

/-- A macro number from a byte; an image with more than 16 fails BAD_MACRO. -/
def macroOf (b : Byte) : MacroId := ⟨b.toNat % 16, Nat.mod_lt _ (by decide)⟩

/-- A key number from a byte that lies in 0–47. -/
def keyOf (b : Byte) : Key := ⟨b.toNat % 48, Nat.mod_lt _ (by decide)⟩

/-- An emission of a declared set with 1–8 repeats (Table 6-3). -/
def parseEmission (d : Declared) (set : Byte) (code : CodeValue) (repeats : Byte) :
    Option Emission :=
  onlyIf (d.hasSet set && within 1 8 repeats.toNat)
    { set := setOf set, code := code, repeats := repeats.toNat }

/-- A CHANNEL action or step: a declared channel, and an operation valid for its kind
(Table 6-3). -/
def parseChannelAct (d : Declared) (c op operand : Byte) : Option (Chan × Op × Byte) :=
  match (d.record c).kind?, Op.ofCode op with
  | some k, some o => onlyIf (opValid k o operand) (chanOf c, o, operand)
  | _, _ => none

/-- A load output record (Table 6-3, order 3; Table 12-6); FFh is unused. -/
def parseOutput (d : Declared) (l : List Byte) : Option (Option OutputMap) :=
  let c := byteAt l 0
  if c = 0xFF then some none
  else if (d.record c).isHome then
    match (byteAt l 1).toNat with
    | 1 => some (some { chan := chanOf c, mode := .switch })
    | 2 => some (some { chan := chanOf c, mode := .dim (byteAt l 2) })
    | 3 =>
      onlyIf (d.holds c (byteAt l 2)) (some { chan := chanOf c, mode := .matched (byteAt l 2) })
    | _ => none
  else none

/-- An indicator record (Table 6-3, order 3; Table 12-6). -/
def parseIndicator (d : Declared) (l : List Byte) : Option IndicatorMap :=
  let c := byteAt l 1
  match (byteAt l 0).toNat with
  | 0 => some .none
  | 1 => some .station
  | 2 => onlyIf (d.hasChannel c) (.channel (chanOf c) none)
  | 3 => onlyIf (d.holds c (byteAt l 2)) (.channel (chanOf c) (some (byteAt l 2)))
  | _ => none

/-- An emit map record (Table 6-3, order 3; Table 12-6). -/
def parseEmit (d : Declared) (l : List Byte) : Option EmitEntry :=
  let c := byteAt l 0
  match parseEmission d (byteAt l 3) (longAt l 4) (byteAt l 8) with
  | none => none
  | some e =>
    if (d.record c).isHome then
      match (byteAt l 1).toNat with
      | 0 =>
        onlyIf (d.holds c (byteAt l 2))
          { chan := chanOf c, value := some (byteAt l 2), emission := e }
      | 1 => some { chan := chanOf c, value := none, emission := e }
      | _ => none
    else none

/-- A code set record (Table 6-3, order 4; Table 12-6). -/
def parseCodeSet (l : List Byte) : Option CodeSet :=
  let c : CodeSet :=
    { leaderMark := (wordAt l 0).toNat, leaderSpace := (wordAt l 2).toNat
      bitMark := (wordAt l 4).toNat, zeroSpace := (wordAt l 6).toNat
      oneSpace := (wordAt l 8).toNat, holdSpace := (wordAt l 10).toNat
      bitCount := (byteAt l 12).toNat, framePeriod := (byteAt l 13).toNat
      releaseTimeout := (byteAt l 14).toNat, carrier := (byteAt l 15).toNat
      tolerance := (byteAt l 16).toNat }
  onlyIf
    ([c.leaderMark, c.leaderSpace, c.bitMark, c.zeroSpace, c.oneSpace, c.holdSpace].all
        (within 100 20000)
      && within 8 32 c.bitCount && within 40 200 c.framePeriod && within 60 250 c.releaseTimeout
      && within 30 60 c.carrier && within 10 30 c.tolerance)
    c

/-- The leader windows of two sets overlap (R131). -/
def leadersOverlap (a b : CodeSet) : Bool :=
  decide (a.leaderMark * (100 - a.tolerance) ≤ b.leaderMark * (100 + b.tolerance)
    ∧ b.leaderMark * (100 - b.tolerance) ≤ a.leaderMark * (100 + a.tolerance))

/-- No two of the sets have overlapping leader windows. -/
def leadersApart : List CodeSet → Bool
  | [] => true
  | a :: l => l.all (fun b => !leadersOverlap a b) && leadersApart l

/-- The code set section: at most 4 sets, their leader windows apart (Table 6-3, order 4). -/
def parseCodeSets (l : List Byte) : Option (List CodeSet) :=
  match parseSection 17 4 parseCodeSet l with
  | none => none
  | some cs => onlyIf (leadersApart cs) cs

/-- Table 12-6. -/
def Trigger.ofCode (b : Byte) : Option Trigger :=
  match b.toNat with
  | 1 => some .press
  | 2 => some .shortRelease
  | 3 => some .hold
  | 4 => some .repeated
  | 5 => some .release
  | _ => none

/-- The source of a binding record (Table 6-3, order 5). -/
def parseSource (d : Declared) (kind n : Byte) (code : CodeValue) : Option Source :=
  match kind.toNat with
  | 1 => onlyIf (decide (n.toNat < 48)) (.key (keyOf n))
  | 2 => onlyIf (d.hasSet n) (.ir (setOf n) code)
  | _ => none

/-- The condition of a binding record (Table 6-3, order 5). -/
def parseCondition (d : Declared) (flag c v : Byte) : Option (Option (Chan × Byte)) :=
  match flag.toNat with
  | 0 => some none
  | 1 => onlyIf (d.holds c v) (some (chanOf c, v))
  | _ => none

/-- The action of a binding record (Table 6-3, order 5). -/
def parseAction (d : Declared) (l : List Byte) : Option Action :=
  let n := byteAt l 11
  match (byteAt l 10).toNat with
  | 1 =>
    (parseChannelAct d n (byteAt l 12) (byteAt l 13)).map fun x => .channel x.1 x.2.1 x.2.2
  | 2 => onlyIf (d.hasMacro n) (.start (macroOf n))
  | 3 => onlyIf (d.hasMacro n) (.stop (macroOf n))
  | 4 => (parseEmission d n (longAt l 14) (byteAt l 18)).map .emit
  | _ => none

/-- A binding record (Table 6-3, order 5; Table 12-6). -/
def parseBinding (d : Declared) (l : List Byte) : Option Binding :=
  match parseSource d (byteAt l 0) (byteAt l 1) (longAt l 2), Trigger.ofCode (byteAt l 6),
    parseCondition d (byteAt l 7) (byteAt l 8) (byteAt l 9), parseAction d l with
  | some s, some t, some c, some a =>
    some { source := s, trigger := t, condition := c, action := a }
  | _, _, _, _ => none

/-- A step of macro k (Table 6-3, order 6; Table 12-7). -/
def parseStep (d : Declared) (k : Nat) (l : List Byte) : Option Step :=
  let b := byteAt l 1
  match (byteAt l 0).toNat with
  | 1 => (parseChannelAct d b (byteAt l 2) (byteAt l 3)).map fun x => .channel x.1 x.2.1 x.2.2
  | 2 => onlyIf (within 10 10000 (wordAt l 1).toNat) (.wait (wordAt l 1).toNat)
  | 3 =>
    match b.toNat with
    | 0 => some (.confirm false)
    | 1 => some (.confirm true)
    | _ => none
  | 4 => (parseEmission d b (longAt l 4) (byteAt l 2)).map .emit
  | 5 => onlyIf (d.hasMacro b && b.toNat != k) (.call (macroOf b))
  | _ => none

/-- The steps of macros k, k + 1, … with the given step counts (R180). -/
def parseMacros (d : Declared) : Nat → List Nat → List (List Byte) → Option (List (List Step))
  | _, [], _ => some []
  | k, n :: ns, steps =>
    match allSome ((steps.take n).map (parseStep d k)), parseMacros d (k + 1) ns (steps.drop n) with
    | some m, some ms => some (m :: ms)
    | _, _ => none

/-- The macro section (Table 6-3, order 6; R180). -/
def parseMacroSection (d : Declared) (l : List Byte) : Option (List (List Step)) :=
  match l with
  | [] => some []
  | m :: rest =>
    let counts := (rest.take m.toNat).map BitVec.toNat
    if m.toNat ≤ 16 ∧ counts.length = m.toNat ∧ counts.all (within 1 16) = true
        ∧ counts.sum ≤ 128 ∧ l.length = 1 + m.toNat + 8 * counts.sum then
      parseMacros d 0 counts (pieces 8 (rest.drop m.toNat))
    else none

/-! ### The whole image -/

/-- The parts of a validated image. -/
structure Image where
  settings   : Settings
  records    : Vector Record 64
  loads      : List (Option OutputMap)
  indicators : List IndicatorMap
  emitMap    : List EmitEntry
  codeSets   : List CodeSet
  bindings   : List Binding
  macros     : List (List Step)
  deriving DecidableEq, Repr

/-- The channel records that the image declares, every other one UNUSED. -/
def declaredRecords (rs : List (Chan × Record)) : Vector Record 64 :=
  rs.foldl (fun v r => v.set r.1 r.2) (Vector.replicate 64 Record.unused)

/-- A part, or the fault code of the check that failed. -/
def orFault {α : Type} (c : FaultCode) : Option α → Except FaultCode α
  | some a => .ok a
  | none => .error c

/-- The code sets that section 6 declares, for the sections that name one before it is judged: its
length in whole records, rounded down (R103, R179; log entry 38). -/
def setsDeclared (l : List Byte) : Nat := sectionLength l 5 / 17

/-- The validation of an image whose check passes, section by section, in the order of Table 6-3
(R103, R179, R180). How many code sets are declared for sections 5 and 7 where the length of section 6
is no multiple of 17 is the model's choice (log entry 38). -/
def validate (own : Addr) (l : List Byte) : Except FaultCode Image := do
  let settings ← orFault .badSetting (parseSettings (sectionBytes l 0))
  let channels ← orFault .badChannel (parseChannels own (sectionBytes l 1))
  let d : Declared :=
    { records := declaredRecords channels, sets := setsDeclared l
      macros := (byteAt (sectionBytes l 7) 0).toNat }
  let loads ← orFault .badMap (parseSection 3 8 (parseOutput d) (sectionBytes l 2))
  let indicators ← orFault .badMap (parseSection 3 8 (parseIndicator d) (sectionBytes l 3))
  let emitMap ← orFault .badMap (parseSection 9 16 (parseEmit d) (sectionBytes l 4))
  let codeSets ← orFault .badCodeSet (parseCodeSets (sectionBytes l 5))
  let bindings ← orFault .badBinding (parseSection 19 96 (parseBinding d) (sectionBytes l 6))
  let macros ← orFault .badMacro (parseMacroSection d (sectionBytes l 7))
  return { settings := settings, records := d.records, loads := loads, indicators := indicators,
           emitMap := emitMap, codeSets := codeSets, bindings := bindings, macros := macros }

/-- The check of a whole image: the image check, then the validation (R102, R103). -/
def checkImage (own : Addr) (l : List Byte) : Except FaultCode Image :=
  if imageCheckPasses l then validate own l else .error .badCheck

/-! ### The end of LOADING (R104) -/

/-- LOADING fails with a fault code; no part of the image is given to any block (R104). -/
def State.loadFails (s : State) (c : FaultCode) : State :=
  { s with start := { s.start with state := .configFault, fault := c, loaded := [] } }

/-- Every block is given its part of the image, and the station enters LISTENING (R104, R56, R106). -/
def State.loadSucceeds (s : State) (m : Image) : State :=
  let s : State :=
    { s with
      channels := { s.channels with records := m.records }
      peers := { s.peers with ownPeriod := m.settings.period }
      gestures :=
        { s.gestures with
          holdTime := m.settings.holdTime, repeatPeriod := m.settings.repeatPeriod }
      ir := { s.ir with codeSets := m.codeSets }
      bindings := m.bindings
      macros := { s.macros with table := m.macros }
      outputs :=
        { s.outputs with
          emitMap := m.emitMap
          loads :=
            tabV fun i : OutId => { s.outputs.loads[i] with map := m.loads.getD i.val none } }
      indicators :=
        { s.indicators with
          indicators :=
            tabV fun i : OutId =>
              { s.indicators.indicators[i] with map := m.indicators.getD i.val .none } }
      start :=
        { s.start with
          state := .listening, listenWindow := m.settings.listenWindow
          listenAt := some (s.now + m.settings.listenWindow), loaded := [] } }
  s.startChannels

/-- The image is wholly read (R101, R104). -/
def State.imageComplete (s : State) (l : List Byte) : State :=
  match checkImage s.start.ownAddress l with
  | .ok m => s.loadSucceeds m
  | .error c => s.loadFails c

/-- The image identity, from the moment its field has been read behind the signature (R101). -/
def State.readIdentity (s : State) (l : List Byte) : State :=
  if 4 ≤ l.length then { s with start := { s.start with imageId := wordAt l 2 } } else s

/-- The image with one more byte read (R101). -/
def State.imageByte (s : State) (b : Byte) : State :=
  let l := s.start.loaded ++ [b]
  let s := ({ s with start := { s.start with loaded := l } } : State).readIdentity l
  match headerFault l with
  | some c => s.loadFails c
  | none => if headerLength ≤ l.length ∧ declaredLength l ≤ l.length then s.imageComplete l else s

/-- One read of the configuration memory, in LOADING: the next byte, or no answer (R101). -/
def State.imageRead (answer : Option Byte) (s : State) : State :=
  if s.start.state = .loading then
    match answer with
    | some b => s.imageByte b
    | none => s.loadFails .noMemory
  else s

end Sys2Proof.Machine
end

