-- ==== Sys2Proof/Machine/Line.lean ====
section
/-! DEFINITION. The Line Unit (chapter 1) and the choice, attempts and outcomes of the Transmit Queue
(chapter 2). -/

namespace Sys2Proof.Machine

/-! ### Line condition (R3, R4, R13) -/

/-- The Line Unit replaced. -/
def State.setLine (s : State) (l : LineUnit) : State := { s with line := l }

/-- A recessive run of 5 bit times has ended in BUSY or STUCK: the line is IDLE, the Line Unit returns
to WAITING, and a frame being received is cut (R3, R5, R13). While this station transmits, its own
edges keep the line from it. -/
def State.idleDeclared (s : State) : State :=
  if s.line.condition ≠ .idle ∧ s.line.attempt = none ∧ s.line.wire.quiet + idleRun ≤ s.now then
    (s.bumpIf (s.line.activity == .receiving) .framesCut).setLine
      { s.line with
        condition := .idle, activity := .waiting, reception := none, answer := none }
  else s

/-- The time this station lengthens a slot's edge by, from the edge on: it asserts the slot it has
decided on when that slot's edge comes (R17). -/
def LineUnit.assertTime (l : LineUnit) : Time :=
  match l.answer with
  | some a => if a.seen = a.slot.position then longLow else 0
  | none => 0

/-- A frame being received when the line is driven dominant from now until it is released (R2): each bit
whose sample, 25 µs after its edge, is still to come reads 0 if the line is dominant then; and on a
recessive line a new bit starts. -/
def Reception.hear (r : Reception) (now released : Time) (starts : Bool) : Reception :=
  let recent := r.recent.filter fun edge => decide (now ≤ edge + sampleTime)
  let sampled := r.bits.length - recent.length
  let bits :=
    r.bits.take sampled
      ++ List.zipWith (fun b edge => b && sampleBit (released - edge)) (r.bits.drop sampled) recent
  if starts then { bits := bits ++ [sampleBit (released - now)], recent := recent ++ [now] }
  else { bits := bits, recent := recent }

/-- The first edge of a frame starts its first bit (R2, R12). -/
def Reception.first (now released : Time) : Reception :=
  { bits := [sampleBit (released - now)], recent := [now] }

/-- What a dominant edge of another station means to the Line Unit (R3, R5, R9, R12, R17): in IDLE it
is the first edge of a frame, which is received in every station state but LOADING; in RECEIVING it
is a bit of the frame, and in ANSWERING the edge of a slot. -/
def LineUnit.edge (l : LineUnit) (w : Wire) (now : Time) (loading : Bool) : LineUnit :=
  if l.condition = .idle then
    if loading = false ∧ l.activity = .waiting then
      { l with
        condition := .busy, activity := .receiving, wire := w
        reception := some (Reception.first now w.freed) }
    else { l with condition := .busy, wire := w }
  else
    { l with
      wire := w
      reception := l.reception.map fun r => r.hear now w.freed (decide (l.wire.freed ≤ now))
      answer := l.answer.map fun a => if l.wire.freed ≤ now then { a with seen := a.seen + 1 } else a }

/-- The level of the line when other stations drive it dominant from now for a time. -/
def State.wirePulled (s : State) (low : Time) : Wire :=
  s.line.wire.pullBy s.now low (if s.line.wire.freed ≤ s.now then s.line.assertTime else 0)

/-- An attempt in which other stations drive the line from now for a time. -/
def Attempt.hear (now low : Time) (a : Attempt) : Attempt :=
  { a with heard := a.heard ++ [{ start := now, stop := now + low }] }

/-- A dominant edge of another station, and the time for which other stations then hold the line: it also
shows in the samples of an attempt in progress (R2). -/
def State.dominantEdge (low : Time) (s : State) : State :=
  let l := s.line.edge (s.wirePulled low) s.now (s.start.state == .loading)
  s.setLine { l with attempt := l.attempt.map (Attempt.hear s.now low) }

/-- The level of the line is outside the part: it changes also while the part is held (R5). -/
def State.wireEdge (s : State) (low : Time) : State :=
  s.setLine { s.line with wire := s.wirePulled low }

/-! ### The start of an attempt (R9) -/

/-- An attempt begins when the line is IDLE and an entry is eligible (R9). -/
def State.attemptBegin (s : State) : State :=
  if s.mayBegin then
    match s.chosen with
    | some (i, e) => s.beginWith i e
    | none => s
  else s

/-! ### Outcomes to producers (Table 2-4) -/

/-- The outcomes a producer can be told (R34). -/
inductive Outcome where
  | delivered
  | declined
  | failed
  deriving DecidableEq, Repr

/-- A RECALL entry has ended: at the last one the recall window starts (R109). -/
def State.recallEnded (s : State) : State :=
  { s with
    start :=
      { s.start with
        recallsOut := s.start.recallsOut - 1
        recallAt := if s.start.recallsOut ≤ 1 then some (s.now + recallTime) else s.start.recallAt } }

/-- A REQUEST has been delivered: its entry is SENT, with its confirm deadline (R84). -/
def State.requestSent (s : State) (tag : Byte) : State :=
  { s with
    requests :=
      { s.requests with
        entries :=
          modifyFirst (fun e => e.tag == tag)
            (fun e => { e with state := .sent (s.now + confirmTime) }) s.requests.entries } }

/-- A CHANGE has failed four times: its channel is dirty (R71). -/
def State.changeFailed (s : State) (c : Chan) : State :=
  s.modifyHome c fun h => { h with dirty := true }

/-- The fetch-outstanding flag of a destination cleared (R47). -/
def State.fetchEnded (s : State) (a : Addr) : State :=
  s.setPeer a { s.peer a with fetchOut := false }

/-- The producer of an entry that has left the queue is told its outcome (R34, Table 2-4). -/
def State.tellProducer (s : State) (e : Entry) (o : Outcome) : State :=
  match e.content, o with
  | .announce, .delivered => s.announceDelivered e.carried
  | .change _ _, .delivered => s.clearDirtyAll e.carried.all
  | .change t _, .failed => s.changeFailed t.chan
  | .state _, .delivered => s.clearDirtyAll e.carried.all
  | .request tag _ _ _, .delivered => s.requestSent tag
  | .request tag _ _ _, .declined => s.endRequest tag .declined
  | .request tag _ _ _, .failed => s.endRequest tag .unreachable
  | .fetch _, _ => s.fetchEnded e.destination
  | .recall _, _ => s.recallEnded
  | _, _ => s

/-! ### The endings of an attempt (R30 to R33, R35) -/

/-- How the Line Unit hands an attempt back (Table 1-7). -/
inductive Ending where
  | lost
  | ended (o : Outcome)
  deriving DecidableEq, Repr

/-- The entry on the line, if there is one. -/
def TxQueue.onLine (q : TxQueue) : Option Entry := q.entries.find? Entry.onLine

/-- The entry on the line leaves the queue. -/
def State.dequeue (s : State) : State :=
  { s with queue := { s.queue with entries := s.queue.entries.eraseP Entry.onLine } }

/-- The entry on the line goes off it, changed by a function; its triples are discarded. -/
def State.offLine (s : State) (f : Entry → Entry) : State :=
  { s with
    queue :=
      { s.queue with
        entries :=
          modifyFirst Entry.onLine
            (fun e => f { e with onLine := false, carried := Carried.none }) s.queue.entries } }

/-- The entry leaves the queue, its producer takes the outcome, and then the departure notice is
given (R33, R95). -/
def State.leaveWith (s : State) (e : Entry) (o : Outcome) : State :=
  (s.dequeue.tellProducer e o).grantOccasion

/-- The fourth failed attempt is the last (R31). -/
def mostRetries : Nat := 3

/-- The ending of an attempt at the Transmit Queue (R30, R31, R33, R35). -/
def State.handBack (s : State) (ending : Ending) : State :=
  match s.queue.onLine with
  | none => s
  | some e =>
    if e.withdrawn then s.dequeue.grantOccasion
    else
      match ending with
      | .lost => s.offLine id
      | .ended .failed =>
        if e.attempts < mostRetries then
          s.offLine fun e =>
            { e with attempts := e.attempts + 1, holdBack := some (s.now + holdBackTime) }
        else s.leaveWith e .failed
      | .ended o => s.leaveWith e o

/-- The Line Unit hands the attempt back and goes to another activity; a reception begins with the
bits given. -/
def State.endAttempt (s : State) (activity : Activity) (reception : Option Reception) (wire : Wire)
    (ending : Ending) : State :=
  (s.setLine
    { s.line with
      activity := activity, attempt := none, reception := reception
      wire := wire }).handBack ending

/-- The bit an attempt is in has been sampled, 25 µs after its edge (R2). -/
def Attempt.sampled (a : Attempt) (now : Time) : Bool :=
  decide (a.edge (a.bitAt now) + sampleTime ≤ now)

/-- The bit an attempt is in, as sent. -/
def Attempt.sent (a : Attempt) (now : Time) : Bool := a.bits.getD (a.bitAt now) true

/-- Other stations drive the line dominant at a moment; a release exactly then leaves it recessive (log
entry 34). -/
def Attempt.pulledAt (a : Attempt) (t : Time) : Bool :=
  a.heard.any fun p => decide (p.start ≤ t ∧ t < p.stop)

/-- What a transmitter reads of one of its bits, 25 µs after the edge it drives there, when the line is
dominant from that edge for a time: 0 where it is dominant at the sample, be it by an edge of another
station behind its own release (R2). -/
def Attempt.reads (a : Attempt) (bit : Nat) (low : Time) : Bool :=
  sampleBit low && !a.pulledAt (a.edge bit + sampleTime)

/-- An arbitration loss at a bit this station sent as 1 and reads as 0: the winning frame is received
from its first bit (R10). -/
def State.arbitrationLost (bit : Fin 7) (low : Time) (s : State) : State :=
  match s.line.attempt with
  | some a =>
    if s.line.activity = .arbitrating ∧ a.bitAt s.now = bit.val ∧ a.sampled s.now = true
        ∧ a.sent s.now = true ∧ a.reads bit.val low = false then
      (s.bump .arbitrationLosses).endAttempt .receiving
        (some { bits := a.frame.bits.take bit.val ++ [false], recent := [] })
        (s.line.wire.held (a.edge bit.val) low) .lost
    else s
  | none => s

/-- A bit that reads as it was not sent is a bit error: in the arbitration bits a 0 that reads 1, later
a bit that differs in either direction (R10, R11). -/
def State.misread (s : State) (a : Attempt) (low : Time) : Bool :=
  a.sampled s.now
    && match s.line.activity with
        | .arbitrating => !a.sent s.now && a.reads (a.bitAt s.now) low
        | .sending => a.sent s.now != a.reads (a.bitAt s.now) low
        | _ => false

/-- A bit error: the attempt has failed and the rest of the frame is disregarded (R10, R11). -/
def State.bitErred (low : Time) (s : State) : State :=
  match s.line.attempt with
  | some a =>
    if s.misread a low then
      (s.bump .attemptsFailed).endAttempt .ignoring none
        (s.line.wire.held (a.edge (a.bitAt s.now)) low) (.ended .failed)
    else s
  | none => s

/-- The outcome of the answer window (R19): for an addressed frame by TAKEN, then DECLINED; for a
broadcast by GARBLED. -/
def outcomeOf (destination : Addr) (taken declined garbled : Bool) : Outcome :=
  if destination = 0 then (if garbled then .failed else .delivered)
  else if taken then .delivered
  else if declined then .declined
  else .failed

/-- The counter an outcome increments (R19). -/
def State.countOutcome (s : State) : Outcome → State
  | .delivered => s.bump .framesDelivered
  | .declined => s
  | .failed => s.bump .attemptsFailed

/-- The end of the third slot of an attempt (Table 1-2, R19). -/
def Attempt.windowEnd (a : Attempt) : Time := a.start + (a.frame.bitCount + 3) * bitTime

/-- A slot of the answer window, 0 to 2, was asserted: it reads 0, 25 µs after its edge (R17, R19). -/
def Attempt.asserted (a : Attempt) (slot : Nat) (low : Time) : Bool :=
  !a.reads (a.frame.bitCount + slot) low

/-- The line as the three slots of an answer window leave it, each dominant from its edge for its time (R3,
R17). -/
def Attempt.windowHeld (a : Attempt) (w : Wire) (taken declined garbled : Time) : Wire :=
  ((w.held (a.edge (a.frame.bitCount + 2)) garbled).held (a.edge (a.frame.bitCount + 1))
    declined).held (a.edge a.frame.bitCount) taken

/-- The answer window has been read, at the end of its third slot (R19). The Line Unit stays in
READING until the line is IDLE (R5). -/
def State.windowRead (taken declined garbled : Time) (s : State) : State :=
  match s.line.attempt with
  | some a =>
    if a.windowEnd ≤ s.now then
      let o :=
        outcomeOf a.frame.destination (a.asserted 0 taken) (a.asserted 1 declined)
          (a.asserted 2 garbled)
      (s.countOutcome o).endAttempt .reading none
        (a.windowHeld s.line.wire taken declined garbled) (.ended o)
    else s
  | none => s

/-! ### A STUCK line (R4) -/

/-- A pending restart when the line becomes STUCK: if the third slot has not ended, it waits for IDLE
(R176). -/
def PendingRestart.stuck (now : Time) : PendingRestart → PendingRestart
  | .atTime t => if now < t then .atIdle else .atTime t
  | r => r

/-- The Line Unit's own part of a STUCK line: nothing is driven any more, and a reception whose frame
is not taken is abandoned (R4; log entry 13). -/
def LineUnit.stuck (l : LineUnit) (now : Time) : LineUnit :=
  { l with
    condition := .stuck, reception := none, answer := none, wire := l.wire.release now
    activity := if l.activity = .receiving then .ignoring else l.activity }

/-- The dominant run has lasted 20 bit times and goes on (R3). -/
def Wire.stuck (w : Wire) (now : Time) : Bool :=
  decide (w.edge + stuckRun ≤ now ∧ w.edge + stuckRun < w.freed)

/-- A dominant run of more than 20 bit times in BUSY: the line is STUCK and an attempt in progress has
failed (R3, R4, R31). -/
def State.lineStuck (s : State) : State :=
  if s.line.condition = .busy ∧ s.line.wire.stuck s.now = true then
    let s := (s.bump .lineStuckEvents).setLine (s.line.stuck s.now)
    let s : State := { s with service := { s.service with restart := s.service.restart.stuck s.now } }
    if s.line.attempt = none then s
    else (s.bump .attemptsFailed).endAttempt .ignoring none s.line.wire (.ended .failed)
  else s

/-! ### Hold-back (R32) -/

/-- The hold-back deadline of the entry at an age position expires; if it is due, the entry is READY and
goes on an IDLE line at once if the queue chooses it (R32). -/
def State.holdBackExpiry (position : Fin 12) (s : State) : State :=
  match s.queue.entries[position.val]? with
  | some e =>
    if due s.now e.holdBack then
      ({ s with
          queue :=
            { s.queue with
              entries :=
                modifyAt (fun e => { e with holdBack := none }) position.val s.queue.entries } } :
        State).beginAt position.val
    else s
  | none => s

end Sys2Proof.Machine
end

