-- ==== Sys2Proof/Machine/Pins.lean ====
section
/-! DEFINITION. What the output pins show at a moment, as functions of the state: the panel line, the
key matrix rows, the load outputs, the indicators and the infrared carrier. No command reads them. -/

namespace Sys2Proof.Machine

/-! ### The panel line (R1, R17) -/

/-- A transmitter drives the line at a moment (R1). -/
def Attempt.drives (a : Attempt) (now : Time) : Bool :=
  match a.bits[(now - a.start) / bitTime]? with
  | some b => decide ((now - a.start) % bitTime < lowTime b)
  | none => false

/-- A receiver drives the line for its slot: from the moment it sees the slot's edge until 37.5 µs after
it (R17). -/
def Answer.drives (a : Answer) (edge now : Time) : Bool :=
  decide (a.seen = a.slot.position + 1 ∧ edge ≤ now ∧ now < edge + longLow)

/-- The LINE output is dominant (R1, R17). -/
def State.lineDriven (s : State) : Bool :=
  (match s.line.attempt with
    | some a => a.drives s.now
    | none => false)
  || (match s.line.answer with
    | some a => a.drives s.line.wire.edge s.now
    | none => false)

/-! ### The key matrix (R119, Table 12-8) -/

/-- A row output is driven while its row is the one being read in a scan. A scan is one event, and
between scans no row is driven (log entry 33). -/
def rowPin (reading : Option (Fin 8)) (row : Fin 8) : Bool := reading == some row

/-! ### Load outputs (R162) -/

/-- A load output pin is active (R162). -/
def State.loadPin (s : State) (i : OutId) : Bool :=
  let d := (s.outputs.loads[i]).shown.toNat
  decide (((s.now + s.outputs.pulsePhase) % pulseTime) * 255 < d * pulseTime)

/-! ### Indicators (R167 to R170) -/

/-- The patterns of Table 10-3. -/
inductive Pattern where
  | on
  | off
  | slowBlink
  | fastBlink
  | doubleBlink
  deriving DecidableEq, Repr

/-- A pattern at a time within the cycle of the pattern clock (Table 10-3). -/
def Pattern.shows (p : Pattern) (t : Time) : Bool :=
  match p with
  | .on => true
  | .off => false
  | .slowBlink => decide (t < 500 * ms)
  | .fastBlink => decide (t % (250 * ms) < 125 * ms)
  | .doubleBlink => decide (t < 300 * ms ∧ t % (200 * ms) < 100 * ms)

/-- The value a record shows, or none while it cannot be trusted (R168). -/
def Record.shownValue : Record → Option Byte
  | .home h => if h.state = .live then some h.value else none
  | .mirror m => if m.state = .fresh then some m.value else none
  | .unused => none

/-- The base pattern of an indicator map (R168). -/
def State.basePattern (s : State) : IndicatorMap → Pattern
  | .none => .off
  | .station =>
    match s.start.state with
    | .active => .on
    | .listening => .slowBlink
    | .joining => .slowBlink
    | _ => .off
  | .channel c want =>
    match (s.chan c).shownValue with
    | none => .slowBlink
    | some v =>
      match want with
      | some w => if v = w then .on else .off
      | none => if v ≠ 0 then .on else .off

/-- A flash at a time since its notice (R169). -/
def flashShows (t : Time) : Bool := decide (t < 500 * ms ∧ t % (200 * ms) < 100 * ms)

/-- The pattern that stands in front of every base pattern in a station state (R170). -/
def StationState.override : StationState → Option Pattern
  | .loading => some .fastBlink
  | .configFault => some .fastBlink
  | .addressConflict => some .doubleBlink
  | _ => none

/-- An indicator pin is on (R167 to R170). -/
def State.indicatorPin (s : State) (i : OutId) : Bool :=
  let ind := s.indicators.indicators[i]
  let phase := (s.now - s.indicators.clockStart) % patternTime
  match s.start.state.override with
  | some p => p.shows phase
  | none =>
    match ind.flash with
    | some e =>
      if s.now < e then flashShows (flashTime - (e - s.now))
      else (s.basePattern ind.map).shows phase
    | none => (s.basePattern ind.map).shows phase

/-! ### The infrared carrier (R141) -/

/-- The time into the mark of a frame that holds at t, if a mark does: intervals in µs, a mark first
and then marks and spaces in turn. -/
def markTime : Bool → List Nat → Time → Option Time
  | _, [], _ => none
  | mark, d :: l, t =>
    if t < d * us then (if mark then some t else none) else markTime (!mark) l (t - d * us)

/-- The carrier at a time into a mark: on for the first third of each carrier period (R141). -/
def carrierOn (kHz : Nat) (t : Time) : Bool := decide (3 * ((t * kHz) % ms) < ms)

/-- The carrier output is on (R141). -/
def State.carrierPin (s : State) : Bool :=
  match s.emitter.current with
  | none => false
  | some e =>
    match s.ir.codeSet e.emission.set with
    | none => false
    | some c =>
      match markTime true (e.intervals c) (s.now - e.frameStart) with
      | some t => carrierOn c.carrier t
      | none => false

end Sys2Proof.Machine
end

