-- ==== Sys2Proof/Machine/Events.lean ====
section
/-! DEFINITION. The frame of every event: time passes, nothing acts while the reset pin or the
power-on sequence holds the part, the departure notices of the event's evictions come last, and the
events of the same instant that reach a freed place before a grant come in between. -/

namespace Sys2Proof.Machine

/-- What a step answers. -/
abbrev Result := Host.Outcome State Fault Refusal

/-- When a command comes. -/
def moment : Instr → Moment
  | .powerOn dt _ => dt
  | .resetPinAsserted dt => dt
  | .resetPinReleased dt _ => dt
  | .imageRead dt _ => dt
  | .idleDeclaration dt => dt
  | .lineStuck dt => dt
  | .attemptBegin dt => dt
  | .arbitrationLoss read _ => read.dt
  | .bitError read => read.dt
  | .answerWindowRead dt _ _ _ => dt
  | .holdBackExpiry dt _ => dt
  | .announce dt _ => dt
  | .change dt _ => dt
  | .request dt _ => dt
  | .fetch dt _ => dt
  | .state dt _ => dt
  | .recall dt _ => dt
  | .recallReply dt _ => dt
  | .querySummary dt _ => dt
  | .queryChannel dt _ => dt
  | .queryPeer dt _ => dt
  | .queryCounters dt _ => dt
  | .reply dt _ => dt
  | .restart dt _ => dt
  | .pendingRestart dt _ => dt
  | .silenceDeadlineExpiry dt _ => dt
  | .announceTimerExpiry dt => dt
  | .listenWindowExpiry dt => dt
  | .recallWindowExpiry dt => dt
  | .confirmDeadlineExpiry dt _ => dt
  | .scan dt _ => dt
  | .stuckDeadlineExpiry dt => dt
  | .holdDeadlineExpiry dt _ => dt
  | .repeatDeadlineExpiry dt _ => dt
  | .waitDeadlineExpiry dt _ => dt
  | .completeCode dt => dt
  | .holdMarker dt => dt
  | .limitPassed dt => dt
  | .releaseDeadlineExpiry dt => dt
  | .emissionFrame dt => dt
  | .emissionEnd dt => dt
  | .blankingEnd dt => dt
  | .stepDeadlineExpiry dt _ => dt
  | .flashEnd dt _ => dt
  | .dominantEdge read => read.dt
  | .headerFailed dt => dt
  | .frameOfUnknownKind dt _ _ => dt
  | .queryUnknownItem dt _ => dt
  | .irInputEdge dt _ => dt

/-- The commands that reset the part (R99): they act on a held part too. -/
def isReset : Instr → Bool
  | .powerOn .. => true
  | .resetPinAsserted .. => true
  | .resetPinReleased .. => true
  | _ => false

/-- The effect of a command that is no reset, when its time has passed. -/
def effectOf : Instr → State → State
  | .imageRead _ answer => State.imageRead answer
  | .idleDeclaration _ => State.idleDeclared
  | .lineStuck _ => State.lineStuck
  | .attemptBegin _ => State.attemptBegin
  | .arbitrationLoss read bit => State.arbitrationLost bit read.low
  | .bitError read => State.bitErred read.low
  | .answerWindowRead _ taken declined garbled => State.windowRead taken declined garbled
  | .holdBackExpiry _ position => State.holdBackExpiry position
  | .announce _ rx => State.receive kindAnnounce rx
  | .change _ rx => State.receive kindChange rx
  | .request _ rx => State.receive kindRequest rx
  | .fetch _ rx => State.receive kindFetch rx
  | .state _ rx => State.receive kindState rx
  | .recall _ rx => State.receive kindRecall rx
  | .recallReply _ rx => State.receive kindRecallReply rx
  | .querySummary _ rx => State.receive kindQuery rx
  | .queryChannel _ rx => State.receive kindQuery rx
  | .queryPeer _ rx => State.receive kindQuery rx
  | .queryCounters _ rx => State.receive kindQuery rx
  | .reply _ rx => State.receive kindReply rx
  | .restart _ rx => State.receive kindRestart rx
  | .pendingRestart _ straps => State.pendingRestart straps
  | .silenceDeadlineExpiry _ address => State.silenceExpiry address
  | .announceTimerExpiry _ => State.announceExpiry
  | .listenWindowExpiry _ => State.listenExpiry
  | .recallWindowExpiry _ => State.recallExpiry
  | .confirmDeadlineExpiry _ tag => State.confirmExpiry tag
  | .scan _ columns => State.scan (readings columns)
  | .stuckDeadlineExpiry _ => State.stuckExpiry
  | .holdDeadlineExpiry _ which => State.holdExpiry which
  | .repeatDeadlineExpiry _ which => State.repeatExpiry which
  | .waitDeadlineExpiry _ slot => State.waitExpiry slot
  | .completeCode _ => State.completeCode
  | .holdMarker _ => State.holdMarker
  | .limitPassed _ => State.limitExpiry
  | .releaseDeadlineExpiry _ => State.releaseExpiry
  | .emissionFrame _ => State.emissionFrame
  | .emissionEnd _ => State.emissionEnd
  | .blankingEnd _ => State.blankingEnd
  | .stepDeadlineExpiry _ output => State.stepOutput output
  | .flashEnd _ indicator => State.endFlash indicator
  | .dominantEdge read => State.dominantEdge read.low
  | .headerFailed _ => State.headerFailed
  | .frameOfUnknownKind _ kind rx => State.receive kind rx
  | .queryUnknownItem _ rx => State.receive kindQuery rx
  | .irInputEdge _ mark => State.irEdge mark
  | .powerOn _ _ => id
  | .resetPinAsserted _ => id
  | .resetPinReleased _ _ => id

/-- An event with its effect, and the departure notices of its evictions (R95). -/
def State.happens (s : State) (dt : Moment) (effect : State → State) : State :=
  (effect (s.advance dt)).settle

/-! ### Events of one instant (R96, R144; log entry 37) -/

/-- A part of an event that was owed is done. An entry that another event has ended does not end again, and
a frame is handed on where it is being received. -/
def State.pay (s : State) : Owing → State
  | .table => s.grantOccasion
  | .emitter => s.emitterGrant
  | .removal e outcome => if s.requestOf e.tag = some e then State.finish e outcome s else s
  | .conclusion e outcome => s.conclude e outcome
  | .cancels tags => State.cancelTags tags.length tags s
  | .pair source c p => s.matchPair source c p
  | .fetch source => s.fetchDecision source
  | .handing f notice => if s.line.activity = .receiving then State.takenHeard f notice s else s
  | .malformed f notice =>
    if s.line.activity = .receiving then State.malformedHeard f notice s else s

/-- What is owed is done, in its order, up to a grant, and then the departure notices are given: all of it
for 0. -/
def State.goOn (s : State) (rival : Nat) : State :=
  (s.owed.foldl (fun s o => s.thenDo o fun s => s.pay o) (s.calm rival)).settle

/-- A command is an event of the same instant as the one before it and reaches a place that one frees
before a slot that waits for it. -/
def isRival (c : Instr) : Bool := (moment c).rival != 0 && (moment c).after == 0 && !isReset c

/-- The commands that are to come before grants of the event that is running. -/
def State.rivals (s : State) : List Instr := s.pending.takeWhile isRival

/-- It is what a frame does behind its evidence. -/
def Owing.ofFrame : Owing → Bool
  | .handing _ _ => true
  | .malformed _ _ => true
  | _ => false

/-- The rows that come from the line. -/
def fromLine : Instr → Bool
  | .idleDeclaration _ => true
  | .lineStuck _ => true
  | .attemptBegin _ => true
  | .arbitrationLoss _ _ => true
  | .bitError _ => true
  | .answerWindowRead _ _ _ _ => true
  | .announce _ _ => true
  | .change _ _ => true
  | .request _ _ => true
  | .fetch _ _ => true
  | .state _ _ => true
  | .recall _ _ => true
  | .recallReply _ _ => true
  | .querySummary _ _ => true
  | .queryChannel _ _ => true
  | .queryPeer _ _ => true
  | .queryCounters _ _ => true
  | .queryUnknownItem _ _ => true
  | .reply _ _ => true
  | .restart _ _ => true
  | .frameOfUnknownKind _ _ _ => true
  | .dominantEdge _ => true
  | .headerFailed _ => true
  | _ => false

/-- A rival of an event happens, up to a grant of its own if it has one. -/
def State.beside (s : State) (c : Instr) : State :=
  let t := (s.calm s.rival).happens (moment c) (effectOf c)
  { t with owed := s.owed ++ t.owed }

/-- A rival comes before the grant up to which an event has gone. None where it has not come to one, where
the rival is one from the line in the midst of a frame, which is the one thing that the line brings at its
instant, and where the rival makes the station leave ACTIVE, in which all issues are made. -/
def State.metBy (s : State) (c : Instr) : Option State :=
  if s.owed = [] ∨ (fromLine c = true ∧ s.owed.any Owing.ofFrame = true) then none
  else
    let t := s.beside c
    if t.start.state = .active then some t else none

/-- Behind a rival: the rest of the events up to the grant that the next rival comes before, that rival, and
so on, and with no more rivals all the rest; and how many rivals there were. -/
def State.meet (s : State) : List Instr → Nat × State
  | [] => (0, s.goOn 0)
  | c :: cs =>
    match (s.goOn (moment c).rival).metBy c with
    | some t =>
      let (n, u) := t.meet cs
      (n + 1, u)
    | none => (0, s.goOn 0)

/-- An event up to a grant, its first rival, and then the rest with the rivals still to come, in one. -/
def State.withRivals (s : State) (dt : Moment) (effect : State → State) : Option State :=
  match s.rivals with
  | [] => none
  | c :: cs =>
    match ((s.calm (moment c).rival).happens dt effect).metBy c with
    | some t =>
      let (n, u) := t.meet cs
      some { u with taken := n + 1 }
    | none => none

/-- An event `dt` after the one before it, with its effect. While the part is held at its reset values
only time passes (R99), and an event that came before the grants of an earlier one has had its effect. -/
def event (dt : Moment) (s : State) (effect : State → State) : Result :=
  if s.start.hold ≠ .none then .next (s.advance dt)
  else if s.taken ≠ 0 then .next { s.advance dt with taken := s.taken - 1 }
  else .next ((s.withRivals dt effect).getD ((s.calm 0).happens dt effect))

end Sys2Proof.Machine
end

