-- ==== Sys2Proof/Machine/Commands.lean ====
section
/-! DEFINITION. The meaning of every command, in the order of the table: a reset, or an event with its
effect. -/

namespace Sys2Proof.Machine

/-- POWER_ON (R99). -/
def execPowerOn (dt : Moment) (straps : Addr) (s : State) : Result :=
  .next ((s.advance dt).powerOn straps)

/-- RESET_PIN_ASSERTED (R99). -/
def execResetPinAsserted (dt : Moment) (s : State) : Result := .next (s.advance dt).pinAsserted

/-- RESET_PIN_RELEASED (R99). -/
def execResetPinReleased (dt : Moment) (straps : Addr) (s : State) : Result :=
  .next ((s.advance dt).pinReleased straps)

/-- IMAGE_READ (R101). -/
def execImageRead (dt : Moment) (answer : Option Byte) (s : State) : Result :=
  event dt s (State.imageRead answer)

/-- IDLE_DECLARATION (R3). -/
def execIdleDeclaration (dt : Moment) (s : State) : Result := event dt s State.idleDeclared

/-- LINE_STUCK (R4). -/
def execLineStuck (dt : Moment) (s : State) : Result := event dt s State.lineStuck

/-- ATTEMPT_BEGIN (R9). -/
def execAttemptBegin (dt : Moment) (s : State) : Result := event dt s State.attemptBegin

/-- ARBITRATION_LOSS (R10). -/
def execArbitrationLoss (read : LineRead) (bit : Fin 7) (s : State) : Result :=
  event read.dt s (State.arbitrationLost bit read.low)

/-- BIT_ERROR (R11). -/
def execBitError (read : LineRead) (s : State) : Result :=
  event read.dt s (State.bitErred read.low)

/-- ANSWER_WINDOW_READ (R19). -/
def execAnswerWindowRead (dt : Moment) (taken declined garbled : Time) (s : State) : Result :=
  event dt s (State.windowRead taken declined garbled)

/-- HOLD_BACK_EXPIRY (R32). -/
def execHoldBackExpiry (dt : Moment) (position : Fin 12) (s : State) : Result :=
  event dt s (State.holdBackExpiry position)

/-- ANNOUNCE (R49). -/
def execAnnounce (dt : Moment) (rx : Rx) (s : State) : Result :=
  event dt s (State.receive kindAnnounce rx)

/-- CHANGE (R59). -/
def execChange (dt : Moment) (rx : Rx) (s : State) : Result :=
  event dt s (State.receive kindChange rx)

/-- REQUEST (R67). -/
def execRequest (dt : Moment) (rx : Rx) (s : State) : Result :=
  event dt s (State.receive kindRequest rx)

/-- FETCH (R76). -/
def execFetch (dt : Moment) (rx : Rx) (s : State) : Result :=
  event dt s (State.receive kindFetch rx)

/-- STATE (R78). -/
def execState (dt : Moment) (rx : Rx) (s : State) : Result :=
  event dt s (State.receive kindState rx)

/-- RECALL (R113). -/
def execRecall (dt : Moment) (rx : Rx) (s : State) : Result :=
  event dt s (State.receive kindRecall rx)

/-- RECALL_REPLY (R110). -/
def execRecallReply (dt : Moment) (rx : Rx) (s : State) : Result :=
  event dt s (State.receive kindRecallReply rx)

/-- QUERY_SUMMARY (R173): a QUERY whose item is SUMMARY. -/
def execQuerySummary (dt : Moment) (rx : Rx) (s : State) : Result :=
  event dt s (State.receive kindQuery rx)

/-- QUERY_CHANNEL (R174): a QUERY whose item is CHANNEL. -/
def execQueryChannel (dt : Moment) (rx : Rx) (s : State) : Result :=
  event dt s (State.receive kindQuery rx)

/-- QUERY_PEER (R174): a QUERY whose item is PEER. -/
def execQueryPeer (dt : Moment) (rx : Rx) (s : State) : Result :=
  event dt s (State.receive kindQuery rx)

/-- QUERY_COUNTERS (R173): a QUERY whose item is COUNTERS. -/
def execQueryCounters (dt : Moment) (rx : Rx) (s : State) : Result :=
  event dt s (State.receive kindQuery rx)

/-- REPLY (R178). -/
def execReply (dt : Moment) (rx : Rx) (s : State) : Result :=
  event dt s (State.receive kindReply rx)

/-- RESTART (R175). -/
def execRestart (dt : Moment) (rx : Rx) (s : State) : Result :=
  event dt s (State.receive kindRestart rx)

/-- PENDING_RESTART (R176). -/
def execPendingRestart (dt : Moment) (straps : Addr) (s : State) : Result :=
  event dt s (State.pendingRestart straps)

/-- SILENCE_DEADLINE_EXPIRY (R44). -/
def execSilenceDeadlineExpiry (dt : Moment) (address : Addr) (s : State) : Result :=
  event dt s (State.silenceExpiry address)

/-- ANNOUNCE_TIMER_EXPIRY (R48). -/
def execAnnounceTimerExpiry (dt : Moment) (s : State) : Result := event dt s State.announceExpiry

/-- LISTEN_WINDOW_EXPIRY (R106). -/
def execListenWindowExpiry (dt : Moment) (s : State) : Result := event dt s State.listenExpiry

/-- RECALL_WINDOW_EXPIRY (R114). -/
def execRecallWindowExpiry (dt : Moment) (s : State) : Result := event dt s State.recallExpiry

/-- CONFIRM_DEADLINE_EXPIRY (R87). -/
def execConfirmDeadlineExpiry (dt : Moment) (tag : Byte) (s : State) : Result :=
  event dt s (State.confirmExpiry tag)

/-- SCAN (R119). -/
def execScan (dt : Moment) (columns : Vector (BitVec 6) 8) (s : State) : Result :=
  event dt s (State.scan (readings columns))

/-- STUCK_DEADLINE_EXPIRY (R124). -/
def execStuckDeadlineExpiry (dt : Moment) (s : State) : Result := event dt s State.stuckExpiry

/-- HOLD_DEADLINE_EXPIRY (R127). -/
def execHoldDeadlineExpiry (dt : Moment) (which : TrackerSel) (s : State) : Result :=
  event dt s (State.holdExpiry which)

/-- REPEAT_DEADLINE_EXPIRY (R127). -/
def execRepeatDeadlineExpiry (dt : Moment) (which : TrackerSel) (s : State) : Result :=
  event dt s (State.repeatExpiry which)

/-- WAIT_DEADLINE_EXPIRY (R158). -/
def execWaitDeadlineExpiry (dt : Moment) (slot : SlotId) (s : State) : Result :=
  event dt s (State.waitExpiry slot)

/-- COMPLETE_CODE (R137). -/
def execCompleteCode (dt : Moment) (s : State) : Result := event dt s State.completeCode

/-- HOLD_MARKER (R137). -/
def execHoldMarker (dt : Moment) (s : State) : Result := event dt s State.holdMarker

/-- LIMIT_PASSED (R136). -/
def execLimitPassed (dt : Moment) (s : State) : Result := event dt s State.limitExpiry

/-- RELEASE_DEADLINE_EXPIRY (R138). -/
def execReleaseDeadlineExpiry (dt : Moment) (s : State) : Result := event dt s State.releaseExpiry

/-- EMISSION_FRAME (R141). -/
def execEmissionFrame (dt : Moment) (s : State) : Result := event dt s State.emissionFrame

/-- EMISSION_END (R141). -/
def execEmissionEnd (dt : Moment) (s : State) : Result := event dt s State.emissionEnd

/-- BLANKING_END (R142). -/
def execBlankingEnd (dt : Moment) (s : State) : Result := event dt s State.blankingEnd

/-- STEP_DEADLINE_EXPIRY (R164). -/
def execStepDeadlineExpiry (dt : Moment) (output : OutId) (s : State) : Result :=
  event dt s (State.stepOutput output)

/-- FLASH_END (R169). -/
def execFlashEnd (dt : Moment) (indicator : OutId) (s : State) : Result :=
  event dt s (State.endFlash indicator)

/-- DOMINANT_EDGE (R3). -/
def execDominantEdge (read : LineRead) (s : State) : Result :=
  if s.start.hold = .none then event read.dt s (State.dominantEdge read.low)
  else .next ((s.advance read.dt).wireEdge read.low)

/-- HEADER_FAILED (R7). -/
def execHeaderFailed (dt : Moment) (s : State) : Result := event dt s State.headerFailed

/-- FRAME_OF_UNKNOWN_KIND (R15). -/
def execFrameOfUnknownKind (dt : Moment) (kind : BitVec 4) (rx : Rx) (s : State) : Result :=
  event dt s (State.receive kind rx)

/-- QUERY_UNKNOWN_ITEM (R172): a QUERY whose item is none of the four. -/
def execQueryUnknownItem (dt : Moment) (rx : Rx) (s : State) : Result :=
  event dt s (State.receive kindQuery rx)

/-- IR_INPUT_EDGE (R132). -/
def execIrInputEdge (dt : Moment) (mark : Bool) (s : State) : Result := event dt s (State.irEdge mark)

end Sys2Proof.Machine
end

