-- ==== Sys2Proof/Machine/Dispatch.lean ====
section
/-! DEFINITION. One arm per command: its meaning. -/

namespace Sys2Proof.Machine

/-- The effect of a command on everything but the queue of commands. -/
def exec (i : Instr) (s : State) : Host.Outcome State Fault Refusal :=
  match i with
  | .powerOn dt straps => Sys2Proof.Machine.execPowerOn dt straps s
  | .resetPinAsserted dt => Sys2Proof.Machine.execResetPinAsserted dt s
  | .resetPinReleased dt straps => Sys2Proof.Machine.execResetPinReleased dt straps s
  | .imageRead dt answer => Sys2Proof.Machine.execImageRead dt answer s
  | .idleDeclaration dt => Sys2Proof.Machine.execIdleDeclaration dt s
  | .lineStuck dt => Sys2Proof.Machine.execLineStuck dt s
  | .attemptBegin dt => Sys2Proof.Machine.execAttemptBegin dt s
  | .arbitrationLoss read bit => Sys2Proof.Machine.execArbitrationLoss read bit s
  | .bitError read => Sys2Proof.Machine.execBitError read s
  | .answerWindowRead dt taken declined garbled => Sys2Proof.Machine.execAnswerWindowRead dt taken declined garbled s
  | .holdBackExpiry dt position => Sys2Proof.Machine.execHoldBackExpiry dt position s
  | .announce dt rx => Sys2Proof.Machine.execAnnounce dt rx s
  | .change dt rx => Sys2Proof.Machine.execChange dt rx s
  | .request dt rx => Sys2Proof.Machine.execRequest dt rx s
  | .fetch dt rx => Sys2Proof.Machine.execFetch dt rx s
  | .state dt rx => Sys2Proof.Machine.execState dt rx s
  | .recall dt rx => Sys2Proof.Machine.execRecall dt rx s
  | .recallReply dt rx => Sys2Proof.Machine.execRecallReply dt rx s
  | .querySummary dt rx => Sys2Proof.Machine.execQuerySummary dt rx s
  | .queryChannel dt rx => Sys2Proof.Machine.execQueryChannel dt rx s
  | .queryPeer dt rx => Sys2Proof.Machine.execQueryPeer dt rx s
  | .queryCounters dt rx => Sys2Proof.Machine.execQueryCounters dt rx s
  | .reply dt rx => Sys2Proof.Machine.execReply dt rx s
  | .restart dt rx => Sys2Proof.Machine.execRestart dt rx s
  | .pendingRestart dt straps => Sys2Proof.Machine.execPendingRestart dt straps s
  | .silenceDeadlineExpiry dt address => Sys2Proof.Machine.execSilenceDeadlineExpiry dt address s
  | .announceTimerExpiry dt => Sys2Proof.Machine.execAnnounceTimerExpiry dt s
  | .listenWindowExpiry dt => Sys2Proof.Machine.execListenWindowExpiry dt s
  | .recallWindowExpiry dt => Sys2Proof.Machine.execRecallWindowExpiry dt s
  | .confirmDeadlineExpiry dt tag => Sys2Proof.Machine.execConfirmDeadlineExpiry dt tag s
  | .scan dt columns => Sys2Proof.Machine.execScan dt columns s
  | .stuckDeadlineExpiry dt => Sys2Proof.Machine.execStuckDeadlineExpiry dt s
  | .holdDeadlineExpiry dt which => Sys2Proof.Machine.execHoldDeadlineExpiry dt which s
  | .repeatDeadlineExpiry dt which => Sys2Proof.Machine.execRepeatDeadlineExpiry dt which s
  | .waitDeadlineExpiry dt slot => Sys2Proof.Machine.execWaitDeadlineExpiry dt slot s
  | .completeCode dt => Sys2Proof.Machine.execCompleteCode dt s
  | .holdMarker dt => Sys2Proof.Machine.execHoldMarker dt s
  | .limitPassed dt => Sys2Proof.Machine.execLimitPassed dt s
  | .releaseDeadlineExpiry dt => Sys2Proof.Machine.execReleaseDeadlineExpiry dt s
  | .emissionFrame dt => Sys2Proof.Machine.execEmissionFrame dt s
  | .emissionEnd dt => Sys2Proof.Machine.execEmissionEnd dt s
  | .blankingEnd dt => Sys2Proof.Machine.execBlankingEnd dt s
  | .stepDeadlineExpiry dt output => Sys2Proof.Machine.execStepDeadlineExpiry dt output s
  | .flashEnd dt indicator => Sys2Proof.Machine.execFlashEnd dt indicator s
  | .dominantEdge read => Sys2Proof.Machine.execDominantEdge read s
  | .headerFailed dt => Sys2Proof.Machine.execHeaderFailed dt s
  | .frameOfUnknownKind dt kind rx => Sys2Proof.Machine.execFrameOfUnknownKind dt kind rx s
  | .queryUnknownItem dt rx => Sys2Proof.Machine.execQueryUnknownItem dt rx s
  | .irInputEdge dt mark => Sys2Proof.Machine.execIrInputEdge dt mark s

end Sys2Proof.Machine
end

