-- ==== Sys2Proof/Safety.lean ====
section
/-! DEFINITION. What the statements name: the conditions under which a command has its own effect, and
the invariants that every step keeps. -/

namespace Sys2Proof.Machine

/-! ### Conditions -/

/-- The part is not held at its reset values, no eviction owes its departure notice and nothing is owed
behind a rival (which is so between steps), the command has not had its effect as a rival of an earlier
one, and no rival of it waits (log entry 37). -/
abbrev State.Awake (s : State) : Prop :=
  s.start.hold = .none ∧ s.queue.evicted = false ∧ s.rival = 0 ∧ s.owed = [] ∧ s.taken = 0
    ∧ s.rivals = []

/-- The kind code and the bits of a frame row. -/
def frameRow : Instr → Option (BitVec 4 × Rx)
  | .announce _ rx => some (kindAnnounce, rx)
  | .change _ rx => some (kindChange, rx)
  | .request _ rx => some (kindRequest, rx)
  | .fetch _ rx => some (kindFetch, rx)
  | .state _ rx => some (kindState, rx)
  | .recall _ rx => some (kindRecall, rx)
  | .recallReply _ rx => some (kindRecallReply, rx)
  | .querySummary _ rx => some (kindQuery, rx)
  | .queryChannel _ rx => some (kindQuery, rx)
  | .queryPeer _ rx => some (kindQuery, rx)
  | .queryCounters _ rx => some (kindQuery, rx)
  | .queryUnknownItem _ rx => some (kindQuery, rx)
  | .reply _ rx => some (kindReply, rx)
  | .restart _ rx => some (kindRestart, rx)
  | .frameOfUnknownKind _ kind rx => some (kind, rx)
  | _ => none

/-- The Line Unit is receiving a frame whose bits begin these. -/
abbrev State.Hears (s : State) (kind : BitVec 4) (rx : Rx) : Prop :=
  s.line.attempt = none ∧ s.line.activity = .receiving ∧ s.receivesBits (rxBits kind rx) = true

/-- A valid frame arrives: both checks pass (R15). -/
abbrev State.HearsValid (s : State) (kind : BitVec 4) (rx : Rx) : Prop :=
  s.Hears kind rx ∧ headerPasses kind rx = true ∧ checkPasses kind rx = true

/-- A frame arrives that is taken (R16). -/
abbrev State.HearsTaken (s : State) (kind : BitVec 4) (rx : Rx) : Prop :=
  s.HearsValid kind rx ∧ wellFormed s.channels.records (frameOf kind rx) = true

/-- The sender is a peer that is PRESENT under the nonzero incarnation it sends with, so its frame
gives no claim and no notice (R41, R46). -/
abbrev State.KnowsSender (s : State) (rx : Rx) : Prop :=
  s.start.state.hearsPeers = true ∧ rx.source ≠ s.start.ownAddress
    ∧ (s.peer rx.source).presence = .present
    ∧ (s.peer rx.source).incarnation = rx.incarnation ∧ rx.incarnation ≠ 0

/-- The state once a taken frame of a known sender has been counted and given to the Peer Table: its
period is recorded if it is an ANNOUNCE, and its silence deadline restarts (R16, R42, R43). -/
def State.heardFrom (s : State) (f : Frame) : State :=
  let p := f.period?.orElse fun _ => (s.peer f.source).period
  (s.bump .framesTaken).setPeer f.source
    { s.peer f.source with period := p, silentAt := some (s.now + silenceTime p) }

/-- The state once a taken frame of a known sender to another station has ended: counted and heard from,
the Line Unit in ANSWERING until the line is IDLE (R5), and no slot (R16, R18). -/
def State.overheard (s : State) (f : Frame) : State :=
  let h := s.heardFrom f
  { h with
    line :=
      { h.line with
        activity := .answering, reception := none, answer := none
        wire := { h.line.wire with quiet := max h.line.wire.quiet h.now } } }

/-- A part that is reset at a moment (R99, R100): every block at its reset values, the line released
with its runs counted from now (R5), and the pattern clock at its start (R167). The model's own clock,
free choices and queue run on, the other stations' hold of the line is outside the part, and the phase
of the pulse period is kept (log entry 8). -/
def State.anew (s : State) (dt : Moment) (hold : Hold) (own : Addr) (cause : StartCause) (count : Byte)
    (scanAt : Option Time) (st : StationState) (fault : FaultCode) : State :=
  let w := (s.advance dt).line.wire
  let freed := min w.freed (max w.others (s.now + dt.after))
  { State.reset with
    now := s.now + dt.after, draws := s.draws, pending := s.pending
    line :=
      { State.reset.line with
        wire :=
          { edge := s.now + dt.after, others := w.others, freed := freed
            quiet := max (s.now + dt.after) freed } }
    outputs := { State.reset.outputs with pulsePhase := s.outputs.pulsePhase }
    indicators := { State.reset.indicators with clockStart := s.now + dt.after }
    scanner := { State.reset.scanner with scanAt := scanAt }
    start :=
      { State.reset.start with
        hold := hold, ownAddress := own, cause := cause, count := count, state := st
        fault := fault } }

/-- The run slots wait for nothing of the Request Table, so no departure leads to a grant (R95). -/
abbrev State.NoneWaits (s : State) : Prop := s.requests.waiting = []

/-- The entry on the line of an attempt in progress, the only one (R20), not withdrawn. -/
abbrev State.Sends (s : State) (before : List Entry) (e : Entry) (after : List Entry) : Prop :=
  s.queue.entries = before ++ e :: after ∧ e.onLine = true ∧ e.withdrawn = false
    ∧ ∀ f ∈ before ++ after, f.onLine = false

/-! ### Invariants -/

/-- A queue entry is as Table 2-1 allows: at most 3 failed attempts, no hold-back deadline while it is
on the line, and withdrawn only if it is a REQUEST on the line (R31, R35). -/
abbrev Entry.sound (e : Entry) : Prop :=
  e.attempts ≤ 3 ∧ (e.onLine = true → e.holdBack = none)
    ∧ (e.withdrawn = true → e.onLine = true ∧ e.content.cls = 0)

/-- R20: at most 12 entries, at most one ANNOUNCE, at most one on the line; and no eviction owes its
notice between steps. -/
abbrev QueueSound (s : State) : Prop :=
  s.queue.entries.length ≤ 12
    ∧ s.queue.entries.countP (fun e => e.content.isAnnounce) ≤ 1
    ∧ s.queue.entries.countP Entry.onLine ≤ 1
    ∧ (∀ e ∈ s.queue.entries, e.sound)
    ∧ s.queue.evicted = false

/-- The activities of a transmitter (R5). -/
abbrev Activity.transmits (a : Activity) : Prop := a = .arbitrating ∨ a = .sending ∨ a = .reading

/-- R3, R5, R20: the Line Unit holds an attempt exactly while an entry is on the line; then it transmits
and the line is BUSY; it holds a reception exactly in RECEIVING and a slot only in ANSWERING; on an
IDLE line it is WAITING; it holds no attempt while a restart is pending (R176); a recessive run does not
start before the line is released by every station; and in LOADING, LISTENING and ADDRESS_CONFLICT it
holds neither an attempt nor a slot, and so drives nothing (R6, R106). -/
abbrev LineSound (s : State) : Prop :=
  (s.line.attempt.isSome = s.queue.entries.any Entry.onLine)
    ∧ (s.line.attempt.isSome = true → s.line.activity.transmits ∧ s.line.condition = .busy)
    ∧ (s.line.reception.isSome = decide (s.line.activity = .receiving))
    ∧ (s.line.answer.isSome = true → s.line.activity = .answering)
    ∧ (s.line.condition = .idle → s.line.activity = .waiting)
    ∧ (s.service.restart ≠ .clear → s.line.attempt = none)
    ∧ s.line.wire.others ≤ s.line.wire.freed ∧ s.line.wire.freed ≤ s.line.wire.quiet
    ∧ (s.start.state ∈ [.loading, .listening, .addressConflict] →
        s.line.attempt = none ∧ s.line.answer = none)

/-- A FETCH to an address. -/
abbrev Entry.fetches (a : Addr) (e : Entry) : Bool :=
  e.destination == a && e.content.kind == kindFetch

/-- R47: the fetch-outstanding flag of a peer record is set exactly while a FETCH to that peer is in
the queue, and at most one is. -/
abbrev FetchSound (s : State) : Prop :=
  ∀ a : Addr, s.queue.entries.countP (Entry.fetches a) = if (s.peer a).fetchOut then 1 else 0

/-- A record's value lies within its kind's range, and so does a HOME default (R52). -/
abbrev Record.inRange : Record → Prop
  | .unused => True
  | .home h => h.kind.holds h.value = true ∧ h.kind.holds h.default = true
  | .mirror m => m.kind.holds m.value = true

/-- R52: every channel value lies within its kind's range, and so does every value that the recall
collection may give a HOME channel; no collection is open in LOADING. -/
abbrev ValuesInRange (s : State) : Prop :=
  (∀ c : Chan, (s.chan c).inRange)
    ∧ (∀ k ∈ s.start.collection, ∀ t ∈ k.triples, (s.chan t.chan).admits t.value = true)
    ∧ (s.start.state = .loading → s.start.collection = none)

/-- The state of a HOME record in a station state (Table 4-3); no HOME record is held in LOADING and
CONFIG_FAULT (R56). -/
abbrev homeStateIn : StationState → Option HomeState
  | .loading => none
  | .configFault => none
  | .listening => some .recalling
  | .joining => some .recalling
  | .active => some .live
  | .addressConflict => some .frozen

/-- A HOME record's state is the one the station state gives. -/
abbrev Record.follows (st : StationState) : Record → Prop
  | .home h => homeStateIn st = some h.state
  | _ => True

/-- R54: every HOME record's state follows the station state: LIVE if and only if ACTIVE. -/
abbrev HomesFollowStation (s : State) : Prop := ∀ c : Chan, (s.chan c).follows s.start.state

/-- A FRESH mirror's owner is PRESENT, under the nonzero incarnation the mirror holds. -/
abbrev Record.backed (s : State) : Record → Prop
  | .mirror m =>
    m.state = .fresh →
      (s.peer m.owner).presence = .present ∧ (s.peer m.owner).incarnation = m.heldIncarnation
        ∧ m.heldIncarnation ≠ 0
  | _ => True

/-- R55: a MIRROR record is FRESH only while the peer record of its owner is PRESENT. -/
abbrev FreshIsPresent (s : State) : Prop := ∀ c : Chan, (s.chan c).backed s

/-- R15, R42, Table 3-1: the announced period of a peer record is absent, or 5 to 40 as an ANNOUNCE gives
it. -/
abbrev PeriodsSound (s : State) : Prop :=
  ∀ a : Addr, ∀ p ∈ (s.peer a).period, 5 ≤ p.toNat ∧ p.toNat ≤ 40

/-- R43, R44: outside ADDRESS_CONFLICT a silence deadline runs exactly for the peers that are PRESENT
or JOINING. -/
abbrev SilenceSound (s : State) : Prop :=
  s.start.state ≠ .addressConflict →
    ∀ a : Addr, (s.peer a).silentAt.isSome =
      decide ((s.peer a).presence = .present ∨ (s.peer a).presence = .joining)

/-- The release deadline runs. -/
def Release.runs : Release → Bool
  | .running _ => true
  | .suspended _ => false

/-- R140, R142: at most 4 emissions wait, none without a current one, the receiver is blanked without
an end in sight exactly while an emission is current, and the release deadline of a held code runs
exactly while the receiver is not blanked. -/
abbrev EmitterSound (s : State) : Prop :=
  s.emitter.queue.length ≤ 4
    ∧ (s.emitter.current = none → s.emitter.queue = [])
    ∧ (s.emitter.current.isSome = true ↔ s.ir.blanking = .on)
    ∧ ∀ h ∈ s.ir.held, h.release.runs = decide (s.ir.blanking = .off)

/-- R121, R122: at most 4 keys are listed, none twice, and the LISTED keys are exactly those of the
pressed-key list. -/
abbrev KeysSound (s : State) : Prop :=
  s.scanner.pressed.length ≤ 4
    ∧ (s.scanner.pressed.map Pressed.key).Nodup
    ∧ ∀ k : Key, (s.keyRec k).state = .listed ↔ k ∈ s.scanner.pressed.map Pressed.key

/-- An unused output keeps duty 0 and target 0 (R162); a step deadline runs only for an output that has
not reached its target (Table 10-1). -/
abbrev LoadOutput.sound (o : LoadOutput) : Prop :=
  (o.map = none → o.duty = 0 ∧ o.target = 0) ∧ (o.stepAt.isSome = true → o.duty ≠ o.target)

/-- R162, R164 for every load output; none is mapped before an image is loaded. -/
abbrev OutputsSound (s : State) : Prop :=
  (∀ i : OutId, (s.outputs.loads[i]).sound)
    ∧ (s.start.state = .loading → ∀ i : OutId, (s.outputs.loads[i]).map = none)

/-- R80, R81, R94, R144: at most 8 requests, no two with the same tag; each run slot at most once in
each waiting order, and there only in the state that waits for it; at most 2 records on a run's call stack
(R155); and between steps nothing is owed behind a rival (log entry 37). -/
abbrev RequestsSound (s : State) : Prop :=
  s.requests.entries.length ≤ 8
    ∧ (s.requests.entries.map ReqEntry.tag).Nodup
    ∧ s.requests.waiting.Nodup
    ∧ s.emitter.waiting.Nodup
    ∧ (∀ i ∈ s.requests.waiting, ∃ t, (s.slot i).state = .waitTable t)
    ∧ (∀ i ∈ s.emitter.waiting, ∃ t, (s.slot i).state = .waitEmitter t)
    ∧ (∀ i : SlotId, (s.slot i).stack.length ≤ 2)
    ∧ s.rival = 0 ∧ s.owed = []

/-- R155: every tag in a run's outstanding list is that of a request of the Request Table that the run
issued, and none is there twice; an IDLE slot has none (R161). -/
abbrev OutstandingPresent (s : State) : Prop :=
  ∀ i : SlotId,
    (s.slot i).outstanding.Nodup
      ∧ ((s.slot i).state = .idle → (s.slot i).outstanding = [])
      ∧ ∀ tag ∈ (s.slot i).outstanding,
          ∃ e ∈ s.requests.entries, e.tag = tag ∧ e.origin = .run i (s.slot i).generation

/-- R154: no macro has more than 16 steps. -/
abbrev MacrosBounded (s : State) : Prop := ∀ m ∈ s.macros.table, m.length ≤ 16

/-- Between events no run is in the midst of its steps: each has come to a wait or to its end
(R156). -/
abbrev RunsAtRest (s : State) : Prop := ∀ i : SlotId, (s.slot i).state ≠ .performing

/-- R80: every entry of the Request Table names a MIRROR channel together with that channel's owner;
there is none before an image is loaded. -/
abbrev RequestsNameMirrors (s : State) : Prop :=
  (∀ e ∈ s.requests.entries, (s.chan e.chan).mirrorOf e.owner (fun _ => true) = true)
    ∧ (s.start.state = .loading → s.requests.entries = [])

/-- R98, R114: the own incarnation is 0 until join completion, and 1–255 in ACTIVE. -/
abbrev IncarnationSound (s : State) : Prop :=
  match s.start.state with
  | .active => s.peers.ownIncarnation ≠ 0
  | .addressConflict => True
  | _ => s.peers.ownIncarnation = 0

end Sys2Proof.Machine
end

