-- ==== Sys2Proof/Certificates/Slice0/Obligations.lean ====
section
/-! DEFINITION. The statements for the provers. `s.advance dt` is state s when the time of a command
that comes at dt has passed. -/

open Sys2Proof Sys2Proof.Machine

/-! ### The machine -/

/-- A step runs the command at the front of the queue on the state with the queue's rest. On an empty
queue the part idles, which is the model's choice (log entry 5). -/
def Obligations.StepRunsTheFrontCommand : Prop :=
  (∀ (c : Instr) (rest : List Instr) (s : State),
    step { s with pending := c :: rest } = exec c { s with pending := rest })
  ∧ ∀ s : State, s.pending = [] → step s = .next s

/-- Every command answers a next state, in every state: the time it carries has passed, and the queue of
commands is left to step. That it does so in every state is the model's choice: an event that cannot
happen in a state only lets time pass (log entry 2), and so does every event but a reset while the part
is held (log entry 4), and one that has had its effect before the grants of an earlier one (log entry 37).
What else a command does, the other statements say. -/
def Obligations.EveryCommandCompletes : Prop :=
  ∀ (c : Instr) (s : State),
    ∃ t, exec c s = .next t ∧ t.now = s.now + (moment c).after ∧ t.pending = s.pending

/-- While the asserted reset pin or the power-on sequence holds the part, a command that is no reset lets
its time pass and nothing more (R99); a dominant edge still changes the level of the line, which is
outside the part (R5). That the power-on sequence holds the part as the pin does (log entry 4) and that
the level of the line is followed while the part is held (log entry 14) are the model's choices. -/
def Obligations.AHeldPartOnlyWaits : Prop :=
  ∀ (c : Instr) (s : State), s.start.hold ≠ .none → isReset c = false →
    ((∀ dt low, c ≠ .dominantEdge ⟨dt, low⟩) → exec c s = .next (s.advance (moment c)))
    ∧ ∀ dt low, c = .dominantEdge ⟨dt, low⟩ →
        exec c s =
          .next
            { s.advance dt with
              line :=
                { (s.advance dt).line with wire := (s.advance dt).wirePulled low } }

/-- What the passage of time does: the clock runs (log entry 1); an attempt moves from ARBITRATING to
SENDING to READING by the bit times since its first edge (R5) and drives the edge of each of its bits, a
dominant run and a bit time beginning with an edge on a recessive line (R1, R3; that an edge at the very
instant at which the line is released begins a run and a bit time of its own is the model's choice, log
entry 34); and from the start of the next pulse period on each load output drives its present duty (R162;
the phase is free and one for all outputs, log entry 8; a duty set at the very start of a period waits for
the next, log entry 29). -/
def Obligations.WhatTimeDoes : Prop :=
  ∀ (s : State) (dt : Moment),
    ∃ ld, s.advance dt =
      { s with
        now := s.now + dt.after
        line := (s.advance dt).line
        outputs := { s.outputs with loads := ld } }
    ∧ (s.line.attempt = none → (s.advance dt).line = s.line)
    ∧ (∀ a, s.line.attempt = some a →
        let w := s.line.wire
        let bit := min ((s.now + dt.after - a.start) / 100) (42 + 8 * a.frame.body.length)
        let edge := a.start + bit * 100
        let low := if (a.frame.bits ++ [true, true, true]).getD bit true = true then 25 else 75
        (s.advance dt).line =
          { s.line with
            activity :=
              if s.now + dt.after < a.start + 7 * 100 then .arbitrating
              else if s.now + dt.after < a.start + (40 + 8 * a.frame.body.length) * 100 then .sending
              else .reading
            wire :=
              if w.freed ≤ edge then
                { w with edge := edge, freed := edge + low, quiet := edge + 100 }
              else
                { w with
                  freed := max w.freed (edge + low), quiet := max w.quiet (edge + low) } })
    ∧ ∀ i : OutId, ld[i] =
        { s.outputs.loads[i] with
          shown :=
            if (s.now + s.outputs.pulsePhase) / 2000 < (s.now + dt.after + s.outputs.pulsePhase) / 2000
            then (s.outputs.loads[i]).duty else (s.outputs.loads[i]).shown }

/-- What the reset leaves, by the rules that give the values (R5, R36, R38, R48, R56, R97, R98, R99,
R121, R125, R126, R131, R139, R145, R146, R154, R155, R162, R166, R168, R171, R176). -/
def Obligations.WhatResetLeaves : Prop :=
  State.reset.line.condition = .busy ∧ State.reset.line.activity = .waiting
    ∧ State.reset.line.attempt = none ∧ State.reset.line.reception = none
    ∧ State.reset.line.answer = none
    ∧ State.reset.queue.entries = []
    ∧ (∀ a : Addr, State.reset.peer a =
        { presence := .unseen, incarnation := 0, period := none, silentAt := none,
          fetchOut := false })
    ∧ State.reset.peers.ownIncarnation = 0 ∧ State.reset.peers.announceAt = none
    ∧ (∀ c : Chan, State.reset.chan c = .unused) ∧ State.reset.channels.cursor = 0
    ∧ State.reset.requests.entries = [] ∧ State.reset.requests.tagCounter = 0
    ∧ State.reset.requests.waiting = []
    ∧ State.reset.start.state = .loading ∧ State.reset.start.cause = .power
    ∧ State.reset.start.count = 1 ∧ State.reset.start.fault = .none
    ∧ State.reset.start.imageId = 0 ∧ State.reset.start.listenAt = none
    ∧ State.reset.start.recallsOut = 0 ∧ State.reset.start.recallAt = none
    ∧ State.reset.start.collection = none
    ∧ (∀ k : Key, State.reset.keyRec k = { state := .up, count := 0 })
    ∧ State.reset.scanner.pressed = [] ∧ State.reset.scanner.settling = 3
    ∧ State.reset.gestures.holdTime = 600 * ms ∧ State.reset.gestures.repeatPeriod = 200 * ms
    ∧ State.reset.gestures.trackers = []
    ∧ State.reset.ir.codeSets = [] ∧ State.reset.ir.decoder = .idle ∧ State.reset.ir.held = none
    ∧ State.reset.ir.blanking = .off
    ∧ State.reset.emitter.current = none ∧ State.reset.emitter.queue = []
    ∧ State.reset.emitter.waiting = []
    ∧ State.reset.bindings = [] ∧ State.reset.macros.table = []
    ∧ (∀ i : SlotId, (State.reset.slot i).state = .idle ∧ (State.reset.slot i).generation = 0)
    ∧ (∀ i : OutId, (State.reset.outputs.loads[i]).map = none
        ∧ (State.reset.outputs.loads[i]).duty = 0 ∧ (State.reset.outputs.loads[i]).target = 0
        ∧ (State.reset.outputs.loads[i]).stepAt = none)
    ∧ State.reset.outputs.emitMap = []
    ∧ (∀ i : OutId, State.reset.indicators.indicators[i] = { map := .none, flash := none })
    ∧ (∀ k : Counter, State.reset.service.counters.get k = 0)
    ∧ State.reset.service.restart = .clear

/-! ### Resets and the start -/

/-- Power-on and the release of an asserted reset pin leave every block at its reset values, as
State.anew writes them out, read the straps, and begin LOADING and the first scan, or end LOADING in
CONFIG_FAULT with BAD_ADDRESS where the straps are 0; they differ only in start cause and start count
(R99, R100). While the pin is asserted every block is held at its reset values, and power that comes on
then gives cause POWER and count 1 and leaves the pin's hold (log entry 19). Of this the model's own
choices are the own address 0 and no scan while the pin is asserted (log entry 4), the values that no
rule gives (log entries 6 and 7), the kept phase of the pulse period (log entry 8), the level of the
line at State.reset and a recessive run that counts from the reset (log entry 14), the pattern clock that
starts at the assertion (log entry 32), and a pin that is asserted within the power-on sequence and takes
its place (log entry 39). -/
def Obligations.ResetsBeginLoading : Prop :=
  ∀ (s : State) (dt : Moment) (straps : Addr),
    let st : StationState := if straps = 0 then .configFault else .loading
    let fault : FaultCode := if straps = 0 then .badAddress else .none
    (s.start.hold ≠ .pin →
      exec (.powerOn dt straps) s =
        .next (s.anew dt .none straps .power 1 (some (s.now + dt.after)) st fault))
    ∧ (s.start.hold = .pin →
        exec (.powerOn dt straps) s = .next (s.anew dt .pin 0 .power 1 none .loading .none))
    ∧ exec (.resetPinAsserted dt) s =
        .next (s.anew dt .pin 0 s.start.cause s.start.count none .loading .none)
    ∧ (s.start.hold = .pin →
        exec (.resetPinReleased dt straps) s =
          .next
            (s.anew dt .none straps .pin (if s.start.count = 255 then 255 else s.start.count + 1)
              (some (s.now + dt.after)) st fault))

/-- A pending restart that is due: at the end of the third slot, or, where the line became STUCK before
that, on the IDLE line (R176). In CONFIG_FAULT it begins a new start with cause LINE, through LOADING as
after a pin reset (R99, R105); the values there that no rule gives are those of the model's reset (log
entries 6, 7 and 8), with a recessive run counted from it (log entry 14). In JOINING and ACTIVE it is a
line restart (R116): the station is LISTENING again with cause LINE, the listen window runs, the own
incarnation is 0, every peer is UNSEEN with its incarnation kept, the records take their start values and
the cursor the lowest HOME channel, the queue, the requests, the runs, the emitter, the trackers and the
flashes are emptied, the keys that are down become HELD_AT_START, the held code is cleared, no slot is
asserted any more (R6, R106), and outputs, counters, image tables and the rest of the line stay as they
are. Where the restart is taken late, the listen window and blanking run from then (log entry 26). -/
def Obligations.PendingRestartBegins : Prop :=
  ∀ (s : State) (dt : Moment) (straps : Addr),
    s.Awake →
    ((∃ t0, s.service.restart = .atTime t0 ∧ t0 ≤ s.now + dt.after)
      ∨ (s.service.restart = .atIdle ∧ s.line.condition = .idle)) →
    (s.start.state = .configFault →
      exec (.pendingRestart dt straps) s =
        .next
          (s.anew dt .none straps .line (if s.start.count = 255 then 255 else s.start.count + 1)
            (some (s.now + dt.after)) (if straps = 0 then .configFault else .loading)
            (if straps = 0 then .badAddress else .none)))
    ∧ (s.start.state = .joining ∨ s.start.state = .active →
        ∃ t, exec (.pendingRestart dt straps) s = .next t
          ∧ t.start =
              { s.start with
                state := .listening, cause := .line
                count := if s.start.count = 255 then 255 else s.start.count + 1
                listenAt := some (s.now + dt.after + s.start.listenWindow), recallsOut := 0
                recallAt := none, collection := none }
          ∧ t.peers.ownIncarnation = 0 ∧ t.peers.announceAt = none
          ∧ t.peers.ownPeriod = s.peers.ownPeriod
          ∧ (∀ a : Addr, t.peer a =
              { presence := .unseen, incarnation := (s.peer a).incarnation, period := none,
                silentAt := none, fetchOut := false })
          ∧ (∀ c : Chan, t.chan c =
              match s.chan c with
              | .unused => .unused
              | .home h =>
                .home
                  { h with
                    value := h.default
                    memory :=
                      if h.kind = .level then (if h.default = 0 then 255 else h.default) else 0
                    version := 0, heldIncarnation := 0, state := .recalling, dirty := false
                    lastOrigin := 0 }
              | .mirror m =>
                .mirror { m with value := 0, version := 0, heldIncarnation := 0, state := .unknown })
          ∧ t.channels.cursor =
              ((List.finRange 64).filter fun c => (s.chan c).isHome).headD 0
          ∧ t.queue.entries = [] ∧ t.requests.entries = [] ∧ t.requests.waiting = []
          ∧ t.requests.tagCounter = s.requests.tagCounter
          ∧ (∀ i : SlotId, t.slot i =
              { s.slot i with state := .idle, stack := [], outstanding := [], failed := false })
          ∧ t.emitter.current = none ∧ t.emitter.queue = [] ∧ t.emitter.waiting = []
          ∧ t.ir =
              { s.ir with
                decoder := .idle, held := none
                blanking :=
                  if s.emitter.current.isSome then .ending (s.now + dt.after + 10 * ms)
                  else s.ir.blanking }
          ∧ t.gestures = { s.gestures with trackers := [] }
          ∧ t.scanner.pressed = [] ∧ t.scanner.settling = 3
          ∧ t.scanner.scanAt = s.scanner.scanAt
          ∧ (∀ k : Key, t.keyRec k =
              if (s.keyRec k).state = .up then s.keyRec k
              else { s.keyRec k with state := .heldAtStart })
          ∧ (∀ i : OutId, t.indicators.indicators[i] =
              { s.indicators.indicators[i] with flash := none })
          ∧ t.indicators.clockStart = s.indicators.clockStart
          ∧ t.service.restart = .clear
          ∧ t.service.counters = s.service.counters ∧ t.bindings = s.bindings
          ∧ t.macros.table = s.macros.table ∧ t.line = { (s.advance dt).line with answer := none }
          ∧ t.outputs = (s.advance dt).outputs)

/-- One read of the configuration memory in LOADING (R101, R104). A byte joins those read, and the image
identity is taken once its field has been read behind the signature; while no check fails and the image
is not complete, nothing else changes. A read that gets no answer ends LOADING in CONFIG_FAULT with
NO_MEMORY. A header field that fails its check ends it with BAD_SIGNATURE or BAD_LENGTH: the signature
A5h 46h; the declared length, 40 to 4096; each of the eight sections, which lies wholly within the
declared length and, if it is not empty, behind the header and apart from the sections before it. At
which byte each check is made is the model's reading (log entry 11), that an empty section is asked only
to lie within the declared length is its reading of the section rule (log entry 12), and the bytes read
stand in a field of the model's own (log entry 31). -/
def Obligations.ImageByteIsRead : Prop :=
  (∀ (s : State) (dt : Moment) (b : Byte),
    let l := s.start.loaded ++ [b]
    let id := if 4 ≤ l.length then wordAt l 2 else s.start.imageId
    s.Awake → s.start.state = .loading →
    (headerFault l = none → (l.length < 40 ∨ l.length < declaredLength l) →
      exec (.imageRead dt (some b)) s =
        .next { s.advance dt with start := { s.start with loaded := l, imageId := id } })
    ∧ (∀ c, headerFault l = some c →
        exec (.imageRead dt (some b)) s =
          .next
            { s.advance dt with
              start :=
                { s.start with state := .configFault, fault := c, loaded := [], imageId := id } })
    ∧ exec (.imageRead dt none) s =
        .next
          { s.advance dt with
            start := { s.start with state := .configFault, fault := .noMemory, loaded := [] } })
  ∧ ∀ l : List Byte,
      let declared := (wordAt l 4).toNat
      let offset (k : Nat) := (wordAt l (8 + 4 * k)).toNat
      let length (k : Nat) := (wordAt l (10 + 4 * k)).toNat
      let fits (k : Nat) : Prop :=
        offset k + length k ≤ declared
          ∧ (length k = 0
              ∨ 40 ≤ offset k
                ∧ ∀ j, j < k → length j = 0 ∨ offset j + length j ≤ offset k
                    ∨ offset k + length k ≤ offset j)
      (2 ≤ l.length → ¬(byteAt l 0 = 0xA5 ∧ byteAt l 1 = 0x46) →
        headerFault l = some .badSignature)
      ∧ ((2 ≤ l.length → byteAt l 0 = 0xA5 ∧ byteAt l 1 = 0x46) →
          (6 ≤ l.length → ¬(40 ≤ declared ∧ declared ≤ 4096) → headerFault l = some .badLength)
          ∧ ((6 ≤ l.length → 40 ≤ declared ∧ declared ≤ 4096) →
              ((∃ k, k < 8 ∧ 12 + 4 * k ≤ l.length ∧ ¬fits k) → headerFault l = some .badLength)
              ∧ ((∀ k, k < 8 → 12 + 4 * k ≤ l.length → fits k) → headerFault l = none)))

/-- The last byte of an image (R102 to R104): the image check is compared, and then the sections are
judged in the order of Table 6-3. The first that fails ends LOADING in CONFIG_FAULT with its code, and
no block is given anything. When none fails, the station is LISTENING, the listen window runs, and every
block has its part of the image. What a section must hold, the next statement says. The load outputs,
indicators and emit map name code sets and macros before their sections are judged; that sections of no
whole number of records declare as many sets as fit whole is the model's choice (log entry 38). The check runs over
every byte but the two of the check field, in byte order and most significant bit first: a register of 16
bits that starts with all at 1 shifts one place for each bit, and where the bit and the bit shifted out
differ, bits 12, 5 and 0 are inverted (R102). -/
def Obligations.ImageIsComplete : Prop :=
  (∀ (bits : List Bool) (b : Bool),
    let reg := imageCheckOf bits
    imageCheckOf [] = 0xFFFF
    ∧ imageCheckOf (bits ++ [b]) =
        if b = reg.getLsbD 15 then reg <<< 1
        else (reg <<< 1) ^^^ ((1 : BitVec 16) <<< 12 ||| (1 : BitVec 16) <<< 5 ||| 1))
  ∧ (∀ (l : List Byte),
      byteBits l = l.flatMap (fun b => (List.range 8).map fun i => b.getLsbD (7 - i))
      ∧ (8 ≤ l.length →
          (imageCheckPasses l = true ↔
            imageCheckOf (byteBits (l.take 6 ++ l.drop 8)) = (l.getD 6 0 ++ l.getD 7 0 : BitVec 16))
          ∧ wordAt l 6 = (l.getD 6 0 ++ l.getD 7 0 : BitVec 16)))
  ∧ ∀ (s : State) (dt : Moment) (b : Byte) (l : List Byte),
    s.Awake → s.start.state = .loading → l = s.start.loaded ++ [b] → headerFault l = none →
    40 ≤ l.length → declaredLength l ≤ l.length →
    let sec (k : Nat) : List Byte :=
      (l.drop (wordAt l (8 + 4 * k)).toNat).take (wordAt l (10 + 4 * k)).toNat
    let fails (c : FaultCode) : Prop :=
      exec (.imageRead dt (some b)) s =
        .next
          { s.advance dt with
            start :=
              { s.start with
                state := .configFault, fault := c, imageId := wordAt l 2, loaded := [] } }
    (imageCheckOf (byteBits (l.take 6 ++ l.drop 8)) ≠ wordAt l 6 → fails .badCheck)
    ∧ (imageCheckOf (byteBits (l.take 6 ++ l.drop 8)) = wordAt l 6 →
        (parseSettings (sec 0) = none → fails .badSetting)
        ∧ ∀ st, parseSettings (sec 0) = some st →
          (parseChannels s.start.ownAddress (sec 1) = none → fails .badChannel)
          ∧ ∀ rs, parseChannels s.start.ownAddress (sec 1) = some rs →
            let d : Declared :=
              { records := declaredRecords rs, sets := (wordAt l 30).toNat / 17
                macros := (byteAt (sec 7) 0).toNat }
            let loads := parseSection 3 8 (parseOutput d) (sec 2)
            let inds := parseSection 3 8 (parseIndicator d) (sec 3)
            let emits := parseSection 9 16 (parseEmit d) (sec 4)
            (loads = none ∨ inds = none ∨ emits = none → fails .badMap)
            ∧ ∀ ls ns es, loads = some ls → inds = some ns → emits = some es →
              (parseCodeSets (sec 5) = none → fails .badCodeSet)
              ∧ ∀ cs, parseCodeSets (sec 5) = some cs →
                (parseSection 19 96 (parseBinding d) (sec 6) = none → fails .badBinding)
                ∧ ∀ bs, parseSection 19 96 (parseBinding d) (sec 6) = some bs →
                  (parseMacroSection d (sec 7) = none → fails .badMacro)
                  ∧ ∀ macros, parseMacroSection d (sec 7) = some macros →
                    ∃ t, exec (.imageRead dt (some b)) s = .next t
                      ∧ t.start =
                          { s.start with
                            state := .listening, imageId := wordAt l 2, loaded := []
                            listenWindow := st.listenWindow
                            listenAt := some (s.now + dt.after + st.listenWindow) }
                      ∧ (∀ c : Chan, t.chan c = (d.records[c]).startValues)
                      ∧ (∀ c r, (c, r) ∈ rs → d.records[c] = r)
                      ∧ (∀ c : Chan, c ∉ rs.map Prod.fst → d.records[c] = .unused)
                      ∧ t.channels.cursor =
                          ((List.finRange 64).filter fun c => (t.chan c).isHome).headD 0
                      ∧ t.peers = { s.peers with ownPeriod := st.period }
                      ∧ t.gestures =
                          { s.gestures with
                            holdTime := st.holdTime, repeatPeriod := st.repeatPeriod }
                      ∧ t.bindings = bs
                      ∧ t.macros = { s.macros with table := macros }
                      ∧ t.outputs.emitMap = es
                      ∧ (∀ i : OutId, t.outputs.loads[i] =
                          { (s.advance dt).outputs.loads[i] with map := ls.getD i.val none })
                      ∧ (∀ i : OutId, t.indicators.indicators[i] =
                          { s.indicators.indicators[i] with map := ns.getD i.val .none })
                      ∧ t.ir = { s.ir with codeSets := cs } ∧ t.emitter = s.emitter
                      ∧ t.scanner = s.scanner ∧ t.requests = s.requests
                      ∧ t.indicators.clockStart = s.indicators.clockStart
                      ∧ t.line = (s.advance dt).line ∧ t.queue = s.queue
                      ∧ t.service = s.service)

/-- What the sections of a start image must hold, and what they give (Tables 6-3, 12-3, 12-6 and 12-7,
R131, R179, R180). A section holds whole records, no more than its limit, each of them valid: the
settings within their ranges; channels, no number twice, in a role and of a kind, a default within the
kind, an owner 1 to 31 that is not the own address; load outputs of HOME channels; indicators, with a
match value within the kind; emit map entries of HOME channels with a declared set and 1 to 8 repeats;
code sets within their ranges, no two leader windows overlapping; bindings and macro steps that name
what is declared, with operations valid for the channel's kind; and macros of 1 to 16 steps, at most 16
of them and 128 steps in all, none calling itself. The codes and offsets are those of Table 12-3 and of
12.3, the valid operations those of Table 4-7. That the mode byte of an output that no channel has is
not judged is the model's reading (log entry 21). -/
def Obligations.ImageSectionsAreJudged : Prop :=
  (∀ (α : Type) (size most : Nat) (parse : List Byte → Option α) (l : List Byte) (xs : List α),
    0 < size →
    (parseSection size most parse l = some xs ↔
      l.length = size * xs.length ∧ xs.length ≤ most
        ∧ ∀ i x, xs[i]? = some x → parse ((l.drop (size * i)).take size) = some x))
  ∧ (∀ (l : List Byte) (st : Settings),
      let p := (byteAt l 0).toNat
      let w := (byteAt l 1).toNat
      let h := (wordAt l 2).toNat
      let r := (wordAt l 4).toNat
      parseSettings l = some st ↔
        l.length = 6 ∧ (5 ≤ p ∧ p ≤ 40) ∧ (20 ≤ w ∧ w ≤ 160) ∧ 3 * p + 5 ≤ w
          ∧ (200 ≤ h ∧ h ≤ 2000) ∧ (50 ≤ r ∧ r ≤ 1000)
          ∧ st =
              { period := byteAt l 0, listenWindow := 100 * w * ms, holdTime := h * ms
                repeatPeriod := r * ms })
  ∧ (∀ (own : Addr) (l : List Byte) (rs : List (Chan × Record)),
      parseChannels own l = some rs ↔
        parseSection 4 64 (parseChannel own) l = some rs ∧ (rs.map Prod.fst).Nodup)
  ∧ (∀ (own : Addr) (l : List Byte) (c : Chan) (r : Record),
      parseChannel own l = some (c, r) ↔
        byteAt l 0 = chanByte c
          ∧ ∃ k : ChanKind, byteAt l 2 = k.code
            ∧ ((byteAt l 1 = 1 ∧ k.holds (byteAt l 3) = true
                ∧ r = .home (HomeRec.declared k (byteAt l 3)))
              ∨ (byteAt l 1 = 2 ∧ 1 ≤ (byteAt l 3).toNat ∧ (byteAt l 3).toNat ≤ 31
                ∧ byteAt l 3 ≠ own.setWidth 8
                ∧ r = .mirror (MirrorRec.declared k ((byteAt l 3).setWidth 5)))))
  ∧ (∀ (l : List Byte) (cs : List CodeSet),
      parseCodeSets l = some cs ↔
        parseSection 17 4 parseCodeSet l = some cs
          ∧ cs.Pairwise fun a b =>
              a.leaderMark * (100 + a.tolerance) < b.leaderMark * (100 - b.tolerance)
                ∨ b.leaderMark * (100 + b.tolerance) < a.leaderMark * (100 - a.tolerance))
  ∧ (∀ (l : List Byte) (c : CodeSet),
      parseCodeSet l = some c ↔
        c =
            { leaderMark := (wordAt l 0).toNat, leaderSpace := (wordAt l 2).toNat
              bitMark := (wordAt l 4).toNat, zeroSpace := (wordAt l 6).toNat
              oneSpace := (wordAt l 8).toNat, holdSpace := (wordAt l 10).toNat
              bitCount := (byteAt l 12).toNat, framePeriod := (byteAt l 13).toNat
              releaseTimeout := (byteAt l 14).toNat, carrier := (byteAt l 15).toNat
              tolerance := (byteAt l 16).toNat }
          ∧ (∀ n ∈ [c.leaderMark, c.leaderSpace, c.bitMark, c.zeroSpace, c.oneSpace, c.holdSpace],
              100 ≤ n ∧ n ≤ 20000)
          ∧ (8 ≤ c.bitCount ∧ c.bitCount ≤ 32) ∧ (40 ≤ c.framePeriod ∧ c.framePeriod ≤ 200)
          ∧ (60 ≤ c.releaseTimeout ∧ c.releaseTimeout ≤ 250)
          ∧ (30 ≤ c.carrier ∧ c.carrier ≤ 60) ∧ (10 ≤ c.tolerance ∧ c.tolerance ≤ 30))
  ∧ ∀ (d : Declared),
      let holds (c : Chan) (v : Byte) : Prop :=
        ∃ k, (d.records[c]).kind? = some k ∧ k.holds v = true
      let acts (c : Byte) (o : Byte) (x : Byte) (ch : Chan) (op : Op) : Prop :=
        c = chanByte ch ∧ o = op.code ∧ ∃ k, (d.records[ch]).kind? = some k ∧ opValid k op x = true
      let emits (set : Byte) (code : CodeValue) (repeats : Byte) (e : Emission) : Prop :=
        set.toNat < d.sets ∧ 1 ≤ repeats.toNat ∧ repeats.toNat ≤ 8
          ∧ e = { set := setOf set, code := code, repeats := repeats.toNat }
      (∀ (l : List Byte) (m : Option OutputMap),
        parseOutput d l = some m ↔
          (byteAt l 0 = 0xFF ∧ m = none)
            ∨ ∃ c : Chan, byteAt l 0 = chanByte c ∧ (d.records[c]).isHome = true
              ∧ ((byteAt l 1 = 1 ∧ m = some { chan := c, mode := .switch })
                ∨ (byteAt l 1 = 2 ∧ m = some { chan := c, mode := .dim (byteAt l 2) })
                ∨ (byteAt l 1 = 3 ∧ holds c (byteAt l 2)
                  ∧ m = some { chan := c, mode := .matched (byteAt l 2) })))
      ∧ (∀ (l : List Byte) (m : IndicatorMap),
          parseIndicator d l = some m ↔
            (byteAt l 0 = 0 ∧ m = .none) ∨ (byteAt l 0 = 1 ∧ m = .station)
              ∨ ∃ c : Chan, byteAt l 1 = chanByte c
                ∧ ((byteAt l 0 = 2 ∧ d.records[c] ≠ .unused ∧ m = .channel c none)
                  ∨ (byteAt l 0 = 3 ∧ holds c (byteAt l 2)
                    ∧ m = .channel c (some (byteAt l 2)))))
      ∧ (∀ (l : List Byte) (e : EmitEntry),
          parseEmit d l = some e ↔
            byteAt l 0 = chanByte e.chan ∧ (d.records[e.chan]).isHome = true
              ∧ emits (byteAt l 3) (longAt l 4) (byteAt l 8) e.emission
              ∧ ((byteAt l 1 = 0 ∧ holds e.chan (byteAt l 2) ∧ e.value = some (byteAt l 2))
                ∨ (byteAt l 1 = 1 ∧ e.value = none)))
      ∧ (∀ (l : List Byte) (b : Binding),
          parseBinding d l = some b ↔
            ((byteAt l 0 = 1 ∧ (byteAt l 1).toNat < 48 ∧ b.source = .key (keyOf (byteAt l 1)))
                ∨ (byteAt l 0 = 2 ∧ (byteAt l 1).toNat < d.sets
                  ∧ b.source = .ir (setOf (byteAt l 1)) (longAt l 2)))
              ∧ (byteAt l 6).toNat =
                  (match b.trigger with
                  | .press => 1
                  | .shortRelease => 2
                  | .hold => 3
                  | .repeated => 4
                  | .release => 5)
              ∧ ((byteAt l 7 = 0 ∧ b.condition = none)
                ∨ ∃ c : Chan, byteAt l 7 = 1 ∧ byteAt l 8 = chanByte c ∧ holds c (byteAt l 9)
                  ∧ b.condition = some (c, byteAt l 9))
              ∧ ((∃ c op, byteAt l 10 = 1 ∧ acts (byteAt l 11) (byteAt l 12) (byteAt l 13) c op
                    ∧ b.action = .channel c op (byteAt l 13))
                ∨ (byteAt l 10 = 2 ∧ (byteAt l 11).toNat < d.macros
                  ∧ b.action = .start (macroOf (byteAt l 11)))
                ∨ (byteAt l 10 = 3 ∧ (byteAt l 11).toNat < d.macros
                  ∧ b.action = .stop (macroOf (byteAt l 11)))
                ∨ ∃ e, byteAt l 10 = 4 ∧ emits (byteAt l 11) (longAt l 14) (byteAt l 18) e
                  ∧ b.action = .emit e))
      ∧ (∀ (k : Nat) (l : List Byte) (x : Step),
          parseStep d k l = some x ↔
            (∃ c op, byteAt l 0 = 1 ∧ acts (byteAt l 1) (byteAt l 2) (byteAt l 3) c op
                ∧ x = .channel c op (byteAt l 3))
              ∨ (byteAt l 0 = 2 ∧ 10 ≤ (wordAt l 1).toNat ∧ (wordAt l 1).toNat ≤ 10000
                ∧ x = .wait (wordAt l 1).toNat)
              ∨ (byteAt l 0 = 3 ∧ byteAt l 1 = 0 ∧ x = .confirm false)
              ∨ (byteAt l 0 = 3 ∧ byteAt l 1 = 1 ∧ x = .confirm true)
              ∨ (∃ e, byteAt l 0 = 4 ∧ emits (byteAt l 1) (longAt l 4) (byteAt l 2) e
                ∧ x = .emit e)
              ∨ (byteAt l 0 = 5 ∧ (byteAt l 1).toNat < d.macros ∧ (byteAt l 1).toNat ≠ k
                ∧ x = .call (macroOf (byteAt l 1))))
      ∧ ∀ (l : List Byte) (macros : List (List Step)),
          let m := (byteAt l 0).toNat
          parseMacroSection d l = some macros ↔
            (l = [] ∧ macros = [])
              ∨ (l ≠ [] ∧ m ≤ 16 ∧ macros.length = m
                ∧ (∀ k steps, macros[k]? = some steps →
                    (byteAt l (1 + k)).toNat = steps.length ∧ 1 ≤ steps.length
                      ∧ steps.length ≤ 16)
                ∧ (macros.map List.length).sum ≤ 128
                ∧ l.length = 1 + m + 8 * (macros.map List.length).sum
                ∧ ∀ k steps j x, macros[k]? = some steps → steps[j]? = some x →
                    parseStep d k
                      ((l.drop (1 + m + 8 * (((macros.take k).map List.length).sum + j))).take 8)
                      = some x)

/-- The listen window expires: JOINING, an open collection with incarnation 0 and no triples, and the
RECALL entries for the HOME channels, ascending, 14 to an entry and one empty entry where there are
none, each admitted by the empty queue and counted as outstanding (R106, R108). On an IDLE line the
attempt for the first of them begins at once, before the others are offered (R9, R22), at the moment the
expiry is taken where it is taken late (log entry 26). -/
def Obligations.ListenWindowEnds : Prop :=
  (∀ (s : State) (dt : Moment) (t0 : Time) (first : List Chan) (rest : List (List Chan)),
    s.Awake → s.start.state = .listening → s.start.listenAt = some t0 → t0 ≤ s.now + dt.after →
    s.queue.entries = [] → s.line.attempt = none →
    recallLists ((List.finRange 64).filter fun c => (s.chan c).isHome) = first :: rest →
    let joining : StartController :=
      { s.start with
        state := .joining, listenAt := none, recallsOut := rest.length + 1
        collection := some { latest := 0, triples := [] } }
    (s.line.condition ≠ .idle →
      exec (.listenWindowExpiry dt) s =
        .next
          { s.advance dt with
            start := joining
            queue :=
              { entries := (first :: rest).map fun l => Entry.new (.recall l) 0
                evicted := false } })
    ∧ (s.line.condition = .idle → s.line.activity = .waiting → s.service.restart = .clear →
        exec (.listenWindowExpiry dt) s =
          .next
            { s.advance dt with
              start := joining
              queue :=
                { entries :=
                    { Entry.new (.recall first) 0 with onLine := true }
                      :: rest.map fun l => Entry.new (.recall l) 0
                  evicted := false }
              line :=
                { s.line with
                  condition := .busy, activity := .arbitrating
                  attempt :=
                    some
                      { start := s.now + dt.after
                        frame :=
                          { cls := 2, source := s.start.ownAddress, kind := 6, destination := 0
                            incarnation := s.peers.ownIncarnation, body := first.map chanByte } }
                  wire := s.line.wire.pull (s.now + dt.after) 25 } }))
  ∧ ∀ homes : List Chan,
      (recallLists homes).flatten = homes
        ∧ (recallLists homes).length = max 1 ((homes.length + 13) / 14)
        ∧ (∀ l ∈ recallLists homes, l.length ≤ 14)
        ∧ ∀ l ∈ (recallLists homes).dropLast, l.length = 14

/-- The recall window expires: ACTIVE under an incarnation one later than the latest reported, every
HOME channel LIVE at version 1 with its recalled value or its default and the outputs mapped to it
retargeted to that value, the rotation cursor at the lowest HOME channel; then the ANNOUNCE is offered
and its timer started, and then the FETCH decision is made for every owner that is PRESENT, ascending
(R48, R57, R58, R75, R114, R115). Nothing else changes. Where the expiry is taken late, the announce timer
and the fades that the retargeting starts are counted from the moment it is taken, which is the model's
choice (log entry 26). -/
def Obligations.JoinCompletes : Prop :=
  ∀ (s : State) (dt : Moment) (t0 : Time) (k : Collection),
    s.Awake → s.start.state = .joining → s.start.recallAt = some t0 → t0 ≤ s.now + dt.after →
    s.start.collection = some k →
    let inc : Byte := if k.latest = 255 then 1 else k.latest + 1
    let valueOf (c : Chan) (h : HomeRec) : Byte :=
      ((k.triples.find? fun x => x.chan == c).map Triple.value).getD h.default
    let fetches (v : State) (a : Addr) : State :=
      if (v.peer a).presence = .present then v.fetchDecision a else v
    ∃ u : State,
      (u =
        { s.advance dt with
          start := { s.start with state := .active, recallAt := none, collection := none }
          peers := { s.peers with ownIncarnation := inc }
          channels := u.channels
          outputs := { (s.advance dt).outputs with loads := u.outputs.loads } })
      ∧ (∀ c : Chan, u.chan c =
          match s.chan c with
          | .home h =>
            .home
              { h with
                value := valueOf c h, version := 1, state := .live, dirty := false
                lastOrigin := 0, heldIncarnation := inc
                memory := if h.kind = .level ∧ valueOf c h ≠ 0 then valueOf c h else h.memory }
          | r => r)
      ∧ u.channels.cursor = ((List.finRange 64).filter fun c => (s.chan c).isHome).headD 0
      ∧ (∀ i : OutId, u.outputs.loads[i] =
          match (s.outputs.loads[i]).map with
          | none => (s.advance dt).outputs.loads[i]
          | some m =>
            match s.chan m.chan with
            | .home h =>
              ((s.advance dt).outputs.loads[i]).retarget m.mode (valueOf m.chan h) (s.now + dt.after)
            | _ => (s.advance dt).outputs.loads[i])
      ∧ exec (.recallWindowExpiry dt) s =
          let v := (u.offer .announce 0).2
          .next
            ((((List.range 31).map fun i => BitVec.ofNat 5 (i + 1)).foldl fetches
              { v with
                peers :=
                  { v.peers with
                    announceAt := some (s.now + dt.after + 100 * s.peers.ownPeriod.toNat * ms) } }).settle)

/-! ### The Line Unit and the Transmit Queue -/

/-- The line becomes IDLE: a receiver in RECEIVING discards what it has read and counts a cut frame, a
receiver in any other activity counts nothing, the Line Unit returns to WAITING and asserts nothing, and
no block is touched. The line has been recessive for 5 bit times, and no attempt is in progress (R13). -/
def Obligations.IdleCutsAReception : Prop :=
  ∀ (s : State) (dt : Moment),
    s.Awake → s.line.condition ≠ .idle → s.line.attempt = none →
    s.line.wire.quiet + 5 * 100 ≤ s.now + dt.after →
    let idle : State :=
      { s.advance dt with
        line :=
          { condition := .idle, activity := .waiting, attempt := none, reception := none
            answer := none, wire := s.line.wire }
        service :=
          if s.line.activity = .receiving then
            { s.service with counters := s.service.counters.inc .framesCut }
          else s.service }
    exec (.idleDeclaration dt) s = .next idle ∧ idle.lineDriven = false

/-- The edges of other stations. On an IDLE line an edge makes it BUSY and is the first of a frame, which
is received except in LOADING (R3, R5, R9). In RECEIVING each edge on a recessive line starts a bit, read
25 µs later: 1 where the line is then recessive, 0 where it is dominant; whatever holds the line dominant
at the sample of a bit, another edge too, makes it 0, and what comes later changes it no more (R2; a line
released exactly at the sample reads recessive, log entry 34). In ANSWERING it is the edge of a slot,
which this station holds for 37.5 µs from the edge if it is the slot it has decided on (R17). Every edge
on a recessive line begins a dominant run and a bit time, and a recessive run of less than 5 bit times
declares nothing (R3). On a line that is not IDLE, in IGNORING, READING and WAITING and during an own
attempt, an edge moves the level of the line and, in the attempt, what its samples show, and nothing else;
a line released at the very moment of an edge counts as recessive (log entry 34). The bits of a frame are
its fields in the order of Table 1-2, each most significant bit first (R1). The header check runs over the
first 28, a register of 4 bits that starts at 0, and the frame check over the 32 header bits and the body,
one of 8 bits that starts with all at 1: each shifts one place for each bit, and where the bit and the bit
shifted out differ, its two or three least significant bits are inverted (R7, R8). A header that fails its
check, or declares 15 bytes, makes the station IGNORING: counted, nothing taken, no slot (R7); the header
of a frame row that does not pass does the same. -/
def Obligations.FirstEdgeAndHeader : Prop :=
  (∀ (s : State) (dt : Moment) (low : Time),
    s.Awake → s.line.attempt = none →
    let now := s.now + dt.after
    let w := s.line.wire
    let struck (own : Time) : Wire :=
      { edge := now, others := max w.others (now + low), freed := now + max low own
        quiet := now + max (max low own) 100 }
    let held : Wire :=
      { w with
        others := max w.others (now + low), freed := max w.freed (now + low)
        quiet := max w.quiet (now + low) }
    (s.line.condition = .idle → s.line.activity = .waiting → s.line.answer = none →
      w.freed ≤ now →
      exec (.dominantEdge ⟨dt, low⟩) s =
        .next
          { s.advance dt with
            line :=
              if s.start.state = .loading then
                { s.line with condition := .busy, wire := struck 0 }
              else
                { s.line with
                  condition := .busy, activity := .receiving
                  reception := some { bits := [decide (low ≤ 50)], recent := [now] }
                  wire := struck 0 } })
    ∧ (∀ (bits last : List Bool) (past recent : List Time),
        s.line.condition ≠ .idle →
        s.line.reception = some { bits := bits ++ last, recent := past ++ recent } →
        s.line.answer = none → last.length = recent.length →
        (∀ edge ∈ past, edge + 50 < now) → (∀ edge ∈ recent, now ≤ edge + 50) →
        let starts : Prop := w.freed ≤ now
        let released := if starts then now + low else max w.freed (now + low)
        let read :=
          bits ++ List.zipWith (fun b edge => b && decide (released ≤ edge + 50)) last recent
        exec (.dominantEdge ⟨dt, low⟩) s =
          .next
            { s.advance dt with
              line :=
                { s.line with
                  reception :=
                    some
                      (if starts then
                        { bits := read ++ [decide (low ≤ 50)], recent := recent ++ [now] }
                      else { bits := read, recent := recent })
                  wire := if starts then struck 0 else held } })
    ∧ (∀ a, s.line.condition ≠ .idle → s.line.reception = none → s.line.answer = some a →
        w.freed ≤ now →
        let own := if a.seen = a.slot.position then 75 else 0
        let t : State :=
          { s.advance dt with
            line :=
              { s.line with answer := some { a with seen := a.seen + 1 }, wire := struck own } }
        exec (.dominantEdge ⟨dt, low⟩) s = .next t
          ∧ (∀ d : Moment, (t.advance d).lineDriven =
              (decide (a.seen = a.slot.position) && decide (d.after < 75))))
    ∧ (∀ a, s.line.condition ≠ .idle → s.line.reception = none → s.line.answer = some a →
        now < w.freed →
        exec (.dominantEdge ⟨dt, low⟩) s =
          .next { s.advance dt with line := { s.line with wire := held } })
    ∧ (now < w.quiet + 5 * 100 → exec (.idleDeclaration dt) s = .next (s.advance dt)))
  ∧ (∀ (s : State) (dt : Moment) (low : Time),
      s.Awake → s.line.condition ≠ .idle → s.line.reception = none → s.line.answer = none →
      let now := s.now + dt.after
      let l := (s.advance dt).line
      exec (.dominantEdge ⟨dt, low⟩) s =
        .next
          { s.advance dt with
            line :=
              { l with
                attempt :=
                  l.attempt.map fun a =>
                    { a with heard := a.heard ++ [{ start := now, stop := now + low }] }
                wire :=
                  if l.wire.freed ≤ now then
                    { edge := now, others := max l.wire.others (now + low), freed := now + low
                      quiet := now + max low 100 }
                  else
                    { l.wire with
                      others := max l.wire.others (now + low), freed := max l.wire.freed (now + low)
                      quiet := max l.wire.quiet (now + low) } } })
  ∧ (∀ (kind : BitVec 4) (rx : Rx),
      let msb : ∀ {w : Nat}, BitVec w → List Bool :=
        fun {w} x => (List.range w).map fun i => x.getLsbD (w - 1 - i)
      let head : List Bool :=
        msb rx.cls ++ msb rx.source ++ msb kind ++ msb rx.destination ++ msb rx.incarnation
          ++ msb (BitVec.ofNat 4 rx.body.length)
      let body : List Bool := rx.body.flatMap msb
      rxBits kind rx = head ++ msb rx.headerCheck ++ body ++ msb rx.frameCheck
      ∧ head.length = 28 ∧ (rxBits kind rx).length = 40 + 8 * rx.body.length
      ∧ (headerPasses kind rx = true ↔
          rx.body.length < 15 ∧ headerCheckOf head = rx.headerCheck)
      ∧ (checkPasses kind rx = true ↔
          frameCheckOf (head ++ msb rx.headerCheck ++ body) = rx.frameCheck))
  ∧ (∀ (bits : List Bool) (b : Bool),
      let h := headerCheckOf bits
      let f := frameCheckOf bits
      headerCheckOf [] = 0 ∧ frameCheckOf [] = 255
      ∧ headerCheckOf (bits ++ [b]) = (if b = h.getLsbD 3 then h <<< 1 else (h <<< 1) ^^^ 3)
      ∧ frameCheckOf (bits ++ [b]) = if b = f.getLsbD 7 then f <<< 1 else (f <<< 1) ^^^ 7)
  ∧ ∀ (s : State) (dt : Moment) (r : Reception),
      let now := s.now + dt.after
      let ignored : State :=
        { s.advance dt with
          line :=
            { s.line with
              activity := .ignoring, reception := none, answer := none
              wire := { s.line.wire with quiet := max s.line.wire.quiet now } }
          service := { s.service with counters := s.service.counters.inc .headerFailures } }
      s.Awake → s.line.attempt = none → s.line.activity = .receiving →
      s.line.reception = some r →
      (r.bits.length < 32 ∨ msbBits (headerCheckOf (r.bits.take 28)) ≠ (r.bits.drop 28).take 4
          ∨ (r.bits.drop 24).take 4 = [true, true, true, true] →
        exec (.headerFailed dt) s = .next ignored)
      ∧ ∀ c kind rx, frameRow c = some (kind, rx) → moment c = dt → s.Hears kind rx →
          headerPasses kind rx = false → exec c s = .next ignored

/-- An attempt begins: the chosen entry is eligible, of the lowest class among the eligible ones, and
the oldest of those; it goes on the line with the triples it carries, the first edge is driven, and its
frame is formed from it (R9, R28, R29). What it carries is read at this moment: an ANNOUNCE the dirty
HOME channels ascending, up to 3, and then the rotation from the cursor (R73); a CHANGE its triple; a
STATE and a RECALL REPLY what their records hold (R77, R79). The body has the layout of Table 12-2. The bits
sent are the fields in the order of Table 1-2, each most significant bit first, with the header check behind
the body length and the frame check behind the body (R1, R7, R8). -/
def Obligations.AttemptBegins : Prop :=
  (∀ (f : Frame),
    let msb : ∀ {w : Nat}, BitVec w → List Bool :=
      fun {w} x => (List.range w).map fun i => x.getLsbD (w - 1 - i)
    let head : List Bool :=
      msb f.cls ++ msb f.source ++ msb f.kind ++ msb f.destination ++ msb f.incarnation
        ++ msb (BitVec.ofNat 4 f.body.length)
    let checked : List Bool := head ++ msb (headerCheckOf head) ++ f.body.flatMap msb
    f.bits = checked ++ msb (frameCheckOf checked)
    ∧ f.bits.length = 40 + 8 * f.body.length) ∧
  (∀ (s : State) (dt : Moment) (f : Entry),
    s.Awake → s.line.condition = .idle → s.line.activity = .waiting → s.line.attempt = none →
    s.service.restart = .clear → f ∈ s.queue.entries → f.eligible s.start.state = true →
    ∃ before e after, s.queue.entries = before ++ e :: after
      ∧ e.eligible s.start.state = true
      ∧ (∀ g ∈ before, g.eligible s.start.state = true → e.content.cls < g.content.cls)
      ∧ (∀ g ∈ after, g.eligible s.start.state = true → e.content.cls ≤ g.content.cls)
      ∧ (let frame : Frame :=
          { cls := kindClass e.content.kind.toNat, source := s.start.ownAddress
            kind := e.content.kind, destination := e.destination
            incarnation := s.peers.ownIncarnation
            body := bodyOf s.peers.ownPeriod e.content (s.carriedBy e.content) }
        exec (.attemptBegin dt) s =
          .next
            { s.advance dt with
              queue :=
                { s.queue with
                  entries :=
                    before ++ { e with onLine := true, carried := s.carriedBy e.content } :: after }
              line :=
                { s.line with
                  condition := .busy, activity := .arbitrating
                  attempt := some { start := s.now + dt.after, frame := frame }
                  wire :=
                    s.line.wire.pull (s.now + dt.after)
                      (if frame.bits.getD 0 true = true then 25 else 75) } }))
  ∧ (∀ (s : State),
      let triple (c : Chan) : Option Triple :=
        match s.chan c with
        | .home h => some { chan := c, value := h.value, version := h.version }
        | _ => none
      let homes := (List.finRange 64).filter fun c => (s.chan c).isHome
      let dirty :=
        (homes.filter fun c =>
          match s.chan c with
          | .home h => h.dirty
          | _ => false).take 3
      let turn :=
        ((homes.filter (s.channels.cursor ≤ ·) ++ homes.filter (· < s.channels.cursor)).filter
          fun c => !dirty.contains c).take (3 - dirty.length)
      s.carriedBy .announce = { fixed := dirty.filterMap triple, byTurn := turn.filterMap triple }
      ∧ (∀ x ps, s.carriedBy (.change x ps) = { fixed := [x], byTurn := [] })
      ∧ (∀ cs, s.carriedBy (.state cs) = { fixed := cs.filterMap triple, byTurn := [] })
      ∧ (∀ j cs, s.carriedBy (.recallReply j cs) =
          { fixed :=
              cs.filterMap fun c =>
                match s.chan c with
                | .mirror m =>
                  if m.state ≠ .unknown ∧ m.heldIncarnation = j then
                    some { chan := c, value := m.value, version := m.version }
                  else none
                | _ => none
            byTurn := [] })
      ∧ (∀ t c o x, s.carriedBy (.request t c o x) = { fixed := [], byTurn := [] })
      ∧ (∀ cs, s.carriedBy (.fetch cs) = { fixed := [], byTurn := [] })
      ∧ (∀ cs, s.carriedBy (.recall cs) = { fixed := [], byTurn := [] })
      ∧ ∀ bs, s.carriedBy (.reply bs) = { fixed := [], byTurn := [] })
  ∧ ∀ (period : Byte) (k : Carried),
      let triples : List Byte :=
        (k.fixed ++ k.byTurn).flatMap fun x =>
          [BitVec.ofNat 8 x.chan.val, x.value] ++ wordBytes (x.version.setWidth 16)
      bodyOf period .announce k = period :: triples
      ∧ (∀ x ps, bodyOf period (.change x ps) k =
          triples ++ ps.flatMap fun p => [p.address, p.tag])
      ∧ (∀ t c o x, bodyOf period (.request t c o x) k = [t, BitVec.ofNat 8 c.val, o.code, x])
      ∧ (∀ cs, bodyOf period (.fetch cs) k = cs.map fun c => BitVec.ofNat 8 c.val)
      ∧ (∀ cs, bodyOf period (.state cs) k = triples)
      ∧ (∀ cs, bodyOf period (.recall cs) k = cs.map fun c => BitVec.ofNat 8 c.val)
      ∧ (∀ j cs, bodyOf period (.recallReply j cs) k = j :: triples)
      ∧ ∀ bs, bodyOf period (.reply bs) k = bs

/-- An arbitration loss: at the sample of an arbitration bit that this station sent as 1, others hold the
line dominant, from the edge of the bit or by an edge of theirs behind its release. The entry is READY
again with its attempts, hold-back and age unchanged and its triples discarded, the loss is counted, no
producer is told, nothing more is driven, and the winning frame is received from its first bit (R2, R10,
R30; that a line released exactly at the sample reads recessive, and one driven exactly then dominant, is
the model's choice, log entry 34). The line is dominant for as long as the reading says, or longer where an
edge of another station has said so (log entry 14); its dominant run began at the edge of the bit, or before
it where it was dominant then, and an edge behind the release began a run of its own (R3), one at the very
instant of the release too, which is the model's choice (log entry 34). -/
def Obligations.ArbitrationIsLost : Prop :=
  ∀ (s : State) (dt : Moment) (bit : Fin 7) (low : Time) (a : Attempt) (before : List Entry)
    (e : Entry) (after : List Entry),
    let edge := a.start + bit.val * 100
    let w := (s.advance dt).line.wire
    let run := if w.edge < edge + low then min w.edge edge else w.edge
    let released := max w.others (edge + low)
    let zero : Prop := 50 < low ∨ ∃ p ∈ a.heard, p.start ≤ edge + 50 ∧ edge + 50 < p.stop
    s.Awake → s.line.attempt = some a → edge + 50 ≤ s.now + dt.after → s.now + dt.after < edge + 100 →
    a.frame.bits.getD bit.val true = true → zero → s.Sends before e after →
    exec (.arbitrationLoss ⟨dt, low⟩ bit) s =
      .next
        { s.advance dt with
          queue :=
            { s.queue with
              entries :=
                before ++ { e with onLine := false, carried := Carried.none } :: after }
          line :=
            { s.line with
              activity := .receiving, attempt := none
              reception := some { bits := a.frame.bits.take bit.val ++ [false], recent := [] }
              wire :=
                { edge := run, others := released, freed := released
                  quiet := max released (run + 100) } }
          service := { s.service with counters := s.service.counters.inc .arbitrationLosses } }

/-- A bit error: a bit up to the end of the frame check that reads as it was not sent, in the arbitration
bits a 0 that reads 1; it reads 0 where the line is dominant at its sample, from its edge or by an edge of
another station behind its release. The station drives nothing more, ignores the rest of the frame, and
the attempt has failed (R2, R10, R11; a line released exactly at the sample reads recessive, log entry
34). With fewer than 3 failed attempts before, the entry is held back for 20 ms; at the fourth it leaves
the queue, its producer is told, and the departure notice is given (R31, R33, R95); the producer of a
RECALL REPLY does nothing (Table 2-4). When the hold-back ends, the entry is READY, and on an IDLE line
its attempt begins at once if it is the entry the queue chooses, of the lowest class among the eligible
ones and the oldest of those (R9, R28, R32), and not while a restart is pending (log entry 18); otherwise,
on an IDLE line or any other and during an attempt, it waits with the others. A hold-back runs from the
moment the bit error is taken where it is taken late (log entry 26). -/
def Obligations.BitErrorFailsTheAttempt : Prop :=
  (∀ (s : State) (dt : Moment) (low : Time) (a : Attempt) (k : Nat) (before : List Entry) (e : Entry)
      (after : List Entry),
    let edge := a.start + k * 100
    let w := (s.advance dt).line.wire
    let run := if w.edge < edge + low then min w.edge edge else w.edge
    let released := max w.others (edge + low)
    let one : Prop := low ≤ 50 ∧ ∀ p ∈ a.heard, ¬(p.start ≤ edge + 50 ∧ edge + 50 < p.stop)
    let failed (entries : List Entry) : State :=
      { s.advance dt with
        queue := { s.queue with entries := entries }
        line :=
          { s.line with
            activity := .ignoring, attempt := none, reception := none
            wire :=
              { edge := run, others := released, freed := released
                quiet := max released (run + 100) } }
        service := { s.service with counters := s.service.counters.inc .attemptsFailed } }
    s.Awake → s.line.attempt = some a → k < 40 + 8 * a.frame.body.length →
    edge + 50 ≤ s.now + dt.after → s.now + dt.after < edge + 100 →
    (one ↔ a.frame.bits.getD k true = false) →
    (k < 7 → a.frame.bits.getD k true = false) → s.Sends before e after →
    (e.attempts < 3 →
      exec (.bitError ⟨dt, low⟩) s =
        .next
          (failed
            (before ++
              { e with
                onLine := false, carried := Carried.none, attempts := e.attempts + 1
                holdBack := some (s.now + dt.after + 20 * ms) } :: after)))
    ∧ (e.attempts = 3 →
        exec (.bitError ⟨dt, low⟩) s =
          .next ((failed (before ++ after)).tellProducer e .failed).grantOccasion.settle)
    ∧ (e.attempts = 3 → e.content.kind = kindRecallReply → s.NoneWaits →
        exec (.bitError ⟨dt, low⟩) s = .next (failed (before ++ after))))
  ∧ ∀ (s : State) (dt : Moment) (p : Fin 12) (before : List Entry) (e : Entry) (after : List Entry)
      (t0 : Time),
      s.Awake → s.queue.entries = before ++ e :: after → before.length = p.val →
      e.holdBack = some t0 → t0 ≤ s.now + dt.after →
      (s.line.condition ≠ .idle ∨ s.service.restart ≠ .clear ∨ e.onLine = true
          ∨ mayBeSent s.start.state e.content = false
          ∨ (∃ g ∈ before, g.eligible s.start.state = true ∧ g.content.cls ≤ e.content.cls)
          ∨ (∃ g ∈ after, g.eligible s.start.state = true ∧ g.content.cls < e.content.cls) →
        exec (.holdBackExpiry dt p) s =
          .next
            { s.advance dt with
              queue := { s.queue with entries := before ++ { e with holdBack := none } :: after } })
      ∧ (s.line.attempt = none → s.line.condition = .idle → s.line.activity = .waiting →
          s.service.restart = .clear → e.onLine = false →
          mayBeSent s.start.state e.content = true →
          (∀ g ∈ before, g.eligible s.start.state = true → e.content.cls < g.content.cls) →
          (∀ g ∈ after, g.eligible s.start.state = true → e.content.cls ≤ g.content.cls) →
          exec (.holdBackExpiry dt p) s =
            .next
              { s.advance dt with
                queue :=
                  { s.queue with
                    entries :=
                      before ++
                        { e with
                          holdBack := none, onLine := true
                          carried := s.carriedBy e.content } :: after }
                line :=
                  { s.line with
                    condition := .busy, activity := .arbitrating
                    attempt := some { start := s.now + dt.after, frame := s.frameFor e }
                    wire :=
                      s.line.wire.pull (s.now + dt.after)
                        (if (s.frameFor e).bits.getD 0 true = true then 25 else 75) } })

/-- The answer window of a broadcast, read at the end of its third slot: a slot is asserted if the line is
dominant 25 µs after its edge, from it or by a later edge of another station, and a release exactly then
reads recessive (log entry 34). With no GARBLED slot the frame is delivered, whether TAKEN was asserted or
nothing, and its entry leaves the queue; with GARBLED the attempt has failed, and the entry is held back
or, at the fourth failure, leaves (R2, R19, R31, R33). Whatever its kind, the producer of an entry that
leaves is told, and then the departure notice is given, which may grant a run slot that waits (R33, R95).
A RECALL that ends, however it ends, is one fewer outstanding, and when none is left the recall window of
400 ms starts (R109). A delivered CHANGE clears its channel's dirty flag if the record still holds the
version carried, and a failed one sets it (R71, R72). A delivered ANNOUNCE does so for every triple
carried, and moves the cursor behind the last channel taken by rotation (R74). The line was dominant from
the edge of each slot for its time, and slots between which it stayed dominant are one run (R3). A
hold-back and the recall window run from the moment the answer window is read where it is read late (log
entry 26). -/
def Obligations.ChangeIsDeliveredOrFails : Prop :=
  ∀ (s : State) (dt : Moment) (taken declined garbled : Time) (a : Attempt) (before : List Entry)
    (e : Entry) (after : List Entry),
    let third := a.start + (42 + 8 * a.frame.body.length) * 100
    let zero (edge low : Time) : Prop :=
      50 < low ∨ ∃ p ∈ a.heard, p.start ≤ edge + 50 ∧ edge + 50 < p.stop
    let held (w : Wire) (start low : Time) : Wire :=
      let run := if w.edge < start + low then min w.edge start else w.edge
      let released := max w.others (start + low)
      { edge := run, others := released, freed := released, quiet := max released (run + 100) }
    let wire : Wire :=
      held (held (held (s.advance dt).line.wire third garbled) (third - 100) declined) (third - 200)
        taken
    let ended (entries : List Entry) (counter : Counter) : State :=
      { s.advance dt with
        queue := { s.queue with entries := entries }
        line :=
          { s.line with
            activity := .reading, attempt := none, reception := none, wire := wire }
        service := { s.service with counters := s.service.counters.inc counter } }
    s.Awake → s.line.attempt = some a → a.frame.destination = 0 → third + 100 ≤ s.now + dt.after →
    s.Sends before e after →
    (zero third garbled → e.attempts < 3 →
      exec (.answerWindowRead dt taken declined garbled) s =
        .next
          (ended
            (before ++
              { e with
                onLine := false, carried := Carried.none, attempts := e.attempts + 1
                holdBack := some (s.now + dt.after + 20 * ms) } :: after) .attemptsFailed))
    ∧ (¬zero third garbled →
        exec (.answerWindowRead dt taken declined garbled) s =
          .next
            (((ended (before ++ after) .framesDelivered).tellProducer e
              .delivered).grantOccasion.settle))
    ∧ (zero third garbled → e.attempts = 3 →
        exec (.answerWindowRead dt taken declined garbled) s =
          .next
            (((ended (before ++ after) .attemptsFailed).tellProducer e
              .failed).grantOccasion.settle))
    ∧ (s.NoneWaits → ∀ cs, e.content = .recall cs → ∀ counter : Counter,
        (¬zero third garbled ∧ counter = .framesDelivered)
          ∨ (zero third garbled ∧ e.attempts = 3 ∧ counter = .attemptsFailed) →
        exec (.answerWindowRead dt taken declined garbled) s =
          .next
            { ended (before ++ after) counter with
              start :=
                { s.start with
                  recallsOut := s.start.recallsOut - 1
                  recallAt :=
                    if s.start.recallsOut ≤ 1 then some (s.now + dt.after + 400 * ms)
                    else s.start.recallAt } })
    ∧ (s.NoneWaits → ∀ x ps h, e.content = .change x ps →
        e.carried = { fixed := [x], byTurn := [] } → s.chan x.chan = .home h →
        (¬zero third garbled →
          exec (.answerWindowRead dt taken declined garbled) s =
            .next
              ((ended (before ++ after) .framesDelivered).setChan x.chan
                (.home (if h.version = x.version then { h with dirty := false } else h))))
        ∧ (zero third garbled → e.attempts = 3 →
            exec (.answerWindowRead dt taken declined garbled) s =
              .next
                ((ended (before ++ after) .attemptsFailed).setChan x.chan
                  (.home { h with dirty := true }))))
    ∧ (s.NoneWaits → e.content = .announce →
        (zero third garbled → e.attempts = 3 →
          exec (.answerWindowRead dt taken declined garbled) s =
            .next (ended (before ++ after) .attemptsFailed))
        ∧ (¬zero third garbled →
            ∃ t, exec (.answerWindowRead dt taken declined garbled) s = .next t
              ∧ t = { ended (before ++ after) .framesDelivered with channels := t.channels }
              ∧ (∀ c : Chan, t.chan c =
                  match s.chan c with
                  | .home h =>
                    .home
                      { h with
                        dirty :=
                          h.dirty
                            && !((e.carried.fixed ++ e.carried.byTurn).any fun x =>
                                x.chan == c && x.version == h.version) }
                  | r => r)
              ∧ t.channels.cursor =
                  match e.carried.byTurn.getLast? with
                  | none => s.channels.cursor
                  | some x =>
                    let homes := (List.finRange 64).filter fun c => (s.chan c).isHome
                    ((homes.filter fun c => decide (x.chan < c)) ++ homes).headD x.chan))

/-- The answer window of an addressed frame, each slot asserted if the line is dominant 25 µs after its
edge, from it or by a later edge of another station: TAKEN asserted, it is delivered, whatever the other
slots read; DECLINED alone, it is declined; neither, the attempt has failed (R2, R19; a line released
exactly at the sample reads recessive, log entry 34). Whatever its kind, a delivered or declined entry
leaves the queue, and so does one that fails for the fourth time; its producer is told, and then the
departure notice is given (R31, R33, R95). A delivered REQUEST is SENT, its confirm deadline 250 ms after
the third slot (R84). A binding's request whose frame is declined ends DECLINED, and one whose frame fails
for the fourth time UNREACHABLE; each is counted and flashed (R84, R90). The line was dominant from the
edge of each slot for its time, and slots between which it stayed dominant are one run (R3). Deadlines run
from the moment the window is read where it is read late (log entry 26). -/
def Obligations.RequestIsDelivered : Prop :=
  ∀ (s : State) (dt : Moment) (taken declined garbled : Time) (a : Attempt) (before : List Entry)
    (e : Entry) (after : List Entry),
    let third := a.start + (42 + 8 * a.frame.body.length) * 100
    let zero (edge low : Time) : Prop :=
      50 < low ∨ ∃ p ∈ a.heard, p.start ≤ edge + 50 ∧ edge + 50 < p.stop
    let held (w : Wire) (start low : Time) : Wire :=
      let run := if w.edge < start + low then min w.edge start else w.edge
      let released := max w.others (start + low)
      { edge := run, others := released, freed := released, quiet := max released (run + 100) }
    let wire : Wire :=
      held (held (held (s.advance dt).line.wire third garbled) (third - 100) declined) (third - 200)
        taken
    let ended (entries : List Entry) : State :=
      { s.advance dt with
        queue := { s.queue with entries := entries }
        line :=
          { s.line with
            activity := .reading, attempt := none, reception := none, wire := wire } }
    s.Awake → s.line.attempt = some a → a.frame.destination ≠ 0 → third + 100 ≤ s.now + dt.after →
    s.Sends before e after →
    (¬zero (third - 200) taken → ¬zero (third - 100) declined → e.attempts < 3 →
      exec (.answerWindowRead dt taken declined garbled) s =
        .next
          ((ended
            (before ++
              { e with
                onLine := false, carried := Carried.none, attempts := e.attempts + 1
                holdBack := some (s.now + dt.after + 20 * ms) } :: after)).bump .attemptsFailed))
    ∧ (zero (third - 200) taken →
        exec (.answerWindowRead dt taken declined garbled) s =
          .next
            ((((ended (before ++ after)).bump .framesDelivered).tellProducer e
              .delivered).grantOccasion.settle))
    ∧ (¬zero (third - 200) taken → zero (third - 100) declined →
        exec (.answerWindowRead dt taken declined garbled) s =
          .next (((ended (before ++ after)).tellProducer e .declined).grantOccasion.settle))
    ∧ (¬zero (third - 200) taken → ¬zero (third - 100) declined → e.attempts = 3 →
        exec (.answerWindowRead dt taken declined garbled) s =
          .next
            ((((ended (before ++ after)).bump .attemptsFailed).tellProducer e
              .failed).grantOccasion.settle))
    ∧ ∀ (tag : Byte) (c : Chan) (op : Op) (x : Byte) (r1 : List ReqEntry) (r : ReqEntry)
        (r2 : List ReqEntry),
        e.content = .request tag c op x → s.requests.entries = r1 ++ r :: r2 → r.tag = tag →
        (∀ r' ∈ r1 ++ r2, r'.tag ≠ tag) → s.NoneWaits →
        let left : State :=
          { ended (before ++ after) with requests := { s.requests with entries := r1 ++ r2 } }
        (zero (third - 200) taken →
          exec (.answerWindowRead dt taken declined garbled) s =
            .next
              { (ended (before ++ after)).bump .framesDelivered with
                requests :=
                  { s.requests with
                    entries := r1 ++ { r with state := .sent (s.now + dt.after + 250 * ms) } :: r2 } })
        ∧ (r.origin = .binding → ¬zero (third - 200) taken → zero (third - 100) declined →
            exec (.answerWindowRead dt taken declined garbled) s = .next (left.requestFailed r.chan))
        ∧ (r.origin = .binding → ¬zero (third - 200) taken → ¬zero (third - 100) declined →
            e.attempts = 3 →
            exec (.answerWindowRead dt taken declined garbled) s =
              .next ((left.bump .attemptsFailed).requestFailed r.chan))

/-- What an outcome does at its producer (R34, Table 2-4). A FETCH that ends, however it ends, clears the
fetch-outstanding flag of its destination (R47). A RECALL that ends, however it ends, is one fewer
outstanding, and when none is left the recall window of 400 ms starts (R109). A delivered STATE clears
the dirty flags of the versions it carried (R71). A STATE, a RECALL REPLY and a REPLY have no other
effect. -/
def Obligations.OutcomesReachProducers : Prop :=
  ∀ (s : State) (e : Entry) (o : Outcome),
    (∀ cs, e.content = .fetch cs →
      s.tellProducer e o =
        s.setPeer e.destination { s.peer e.destination with fetchOut := false })
    ∧ (∀ cs, e.content = .recall cs →
        s.tellProducer e o =
          { s with
            start :=
              { s.start with
                recallsOut := s.start.recallsOut - 1
                recallAt :=
                  if s.start.recallsOut ≤ 1 then some (s.now + 400 * ms) else s.start.recallAt } })
    ∧ (∀ cs, e.content = .state cs →
        (o ≠ .delivered → s.tellProducer e o = s)
        ∧ (o = .delivered →
            ∃ v, s.tellProducer e o = { s with channels := { s.channels with records := v } }
              ∧ ∀ c : Chan, v[c] =
                  match s.chan c with
                  | .home h =>
                    .home
                      { h with
                        dirty :=
                          h.dirty
                            && !((e.carried.fixed ++ e.carried.byTurn).any fun x =>
                                x.chan == c && x.version == h.version) }
                  | r => r))
    ∧ ((∃ j cs, e.content = .recallReply j cs) ∨ (∃ bs, e.content = .reply bs) →
        s.tellProducer e o = s)

/-- The line becomes STUCK when a dominant run has lasted 20 bit times and goes on, and at no other time:
counted once, a reception is abandoned uncounted, no slot is driven any more, and a restart pending
before the end of the third slot waits for IDLE (R3, R4, R176; the activity is the model's, log entry
13). An attempt in progress stops driving at once and has failed: its entry is held back or, at the
fourth failure, leaves the queue (R4, R31). Where the row is taken late, the hold-back of 20 ms runs, and
the end of the third slot is judged, from the moment it is taken (log entry 26). -/
def Obligations.LineBecomesStuck : Prop :=
  ∀ (s : State) (dt : Moment),
    let now := s.now + dt.after
    let w := (s.advance dt).line.wire
    let freed := min w.freed (max w.others now)
    let stuck (activity : Activity) (entries : List Entry) (counters : Counters) : State :=
      { s.advance dt with
        queue := { s.queue with entries := entries }
        line :=
          { condition := .stuck, activity := activity, attempt := none, reception := none
            answer := none
            wire := { w with freed := freed, quiet := max freed (w.edge + 100) } }
        service :=
          { counters := counters
            restart :=
              match s.service.restart with
              | .atTime t => if now < t then .atIdle else .atTime t
              | r => r } }
    s.Awake →
    (s.line.condition = .busy → w.edge + 20 * 100 ≤ now → w.edge + 20 * 100 < w.freed →
      (s.line.attempt = none →
        exec (.lineStuck dt) s =
          .next
            (stuck (if s.line.activity = .receiving then .ignoring else s.line.activity)
              s.queue.entries (s.service.counters.inc .lineStuckEvents)))
      ∧ ∀ a before e after, s.line.attempt = some a → s.Sends before e after →
          let counters := (s.service.counters.inc .lineStuckEvents).inc .attemptsFailed
          (e.attempts < 3 →
            exec (.lineStuck dt) s =
              .next
                (stuck .ignoring
                  (before ++
                    { e with
                      onLine := false, carried := Carried.none, attempts := e.attempts + 1
                      holdBack := some (now + 20 * ms) } :: after) counters))
          ∧ (e.attempts = 3 →
              exec (.lineStuck dt) s =
                .next
                  ((stuck .ignoring (before ++ after) counters).tellProducer e
                    .failed).grantOccasion.settle))
    ∧ (s.line.condition ≠ .busy ∨ now < w.edge + 20 * 100 ∨ w.freed ≤ w.edge + 20 * 100 →
        exec (.lineStuck dt) s = .next (s.advance dt))

/-- An offer. In a station state that does not allow its kind it is refused, and so is an offer that does
not fit; a second ANNOUNCE is PRESENT; neither changes anything. A class-0 or class-1 offer to a full
queue takes the place of the youngest class-3 entry off the line, or else of the ANNOUNCE off the line
(R22, R23, R24). A CHANGE joins the youngest CHANGE for its channel if that is off the line and has room
for its pair, taking the newer triple (R25). On an IDLE line the attempt for an admitted entry begins at
once if it is the one the queue chooses (R9, R22), and not while a restart is pending (log entry 18). The
room of the queue is its free places, and for class 0 and 1 also the class-3 entries and the ANNOUNCE off
the line (R24); a CHANGE can be had where it would join one with its pair, or there is such room (R24,
R67). A withdrawal takes a REQUEST off the line from the queue, with its departure notice, and marks one on
the line, which leaves at the ending of its attempt, whatever that is, and tells no producer (R35). -/
def Obligations.AdmissionAndEviction : Prop :=
  (∀ (q : TxQueue) (c : Content) (dest : Addr),
    (q.entries.length < 12 →
      q.placeNew c dest = (.admitted, { q with entries := q.entries ++ [Entry.new c dest] }))
    ∧ (12 ≤ q.entries.length → 2 ≤ c.cls → q.placeNew c dest = (.refused, q))
    ∧ (∀ before e after, 12 ≤ q.entries.length → c.cls ≤ 1 →
        q.entries = before ++ e :: after → e.content.cls = 3 → e.onLine = false →
        (∀ f ∈ after, ¬(f.content.cls = 3 ∧ f.onLine = false)) →
        q.placeNew c dest =
          (.admitted, { entries := before ++ after ++ [Entry.new c dest], evicted := true }))
    ∧ (∀ before e after, 12 ≤ q.entries.length → c.cls ≤ 1 →
        (∀ f ∈ q.entries, ¬(f.content.cls = 3 ∧ f.onLine = false)) →
        q.entries = before ++ e :: after → e.content.isAnnounce = true → e.onLine = false →
        (∀ f ∈ after, ¬(f.content.isAnnounce = true ∧ f.onLine = false)) →
        q.placeNew c dest =
          (.admitted, { entries := before ++ after ++ [Entry.new c dest], evicted := true }))
    ∧ (12 ≤ q.entries.length → q.room c.cls = 0 → q.placeNew c dest = (.refused, q)))
  ∧ (∀ (q : TxQueue) (cls : Nat) (c : Chan),
      q.room cls =
          12 - q.entries.length
            + (if cls ≤ 1 then
                q.entries.countP (fun e => e.content.cls == 3 && !e.onLine)
                  + if q.entries.any (fun e => e.content.isAnnounce && !e.onLine) then 1 else 0
              else 0)
        ∧ (q.changeCanBeHad c = true ↔
            1 ≤ q.room 1
              ∨ ∃ before e after x ps, q.entries = before ++ e :: after
                ∧ e.content = .change x ps ∧ x.chan = c ∧ e.onLine = false ∧ ps.length < 4
                ∧ ∀ f ∈ after, ∀ y qs, f.content = .change y qs → y.chan ≠ c))
  ∧ (∀ (q : TxQueue) (st : StationState) (c : Content) (dest : Addr),
      (¬(st = .joining ∨ st = .active ∨ (st = .configFault ∧ c.isReply = true)) →
        q.offer st c dest = (.refused, q))
      ∧ (st = .joining ∨ st = .active ∨ (st = .configFault ∧ c.isReply = true) →
          (c = .announce → q.entries.any (fun e => e.content.isAnnounce) = true →
            q.offer st c dest = (.present, q))
          ∧ ((c = .announce → q.entries.any (fun e => e.content.isAnnounce) = false) →
              (∀ x ps, c ≠ .change x ps) → q.offer st c dest = q.placeNew c dest)
          ∧ ∀ x ps, c = .change x ps →
              ((∀ e ∈ q.entries, ∀ y qs, e.content = .change y qs → y.chan ≠ x.chan) →
                q.offer st c dest = q.placeNew c dest)
              ∧ ∀ before e after y qs, q.entries = before ++ e :: after →
                  e.content = .change y qs → y.chan = x.chan →
                  (∀ f ∈ after, ∀ z rs, f.content = .change z rs → z.chan ≠ x.chan) →
                  q.offer st c dest =
                    if e.onLine = false ∧ (qs.length < 4 ∨ ps = []) then
                      (.coalesced,
                        { q with
                          entries :=
                            before ++ { e with content := .change x (qs ++ ps) } :: after })
                    else q.placeNew c dest))
  ∧ (∀ (s : State) (c : Content) (dest : Addr),
      let o := s.queue.offer s.start.state c dest
      let t : State := { s with queue := o.2 }
      (s.offer c dest).1 = o.1
      ∧ (o.1 ≠ .admitted ∨ s.line.condition ≠ .idle ∨ s.service.restart ≠ .clear →
          (s.offer c dest).2 = t)
      ∧ (∀ es, o.1 = .admitted → s.line.condition = .idle → s.line.activity = .waiting →
          s.service.restart = .clear → o.2.entries = es ++ [Entry.new c dest] →
          ((∃ g ∈ es, g.eligible s.start.state = true ∧ g.content.cls ≤ c.cls) →
            (s.offer c dest).2 = t)
          ∧ ((∀ g ∈ es, g.eligible s.start.state = true → c.cls < g.content.cls) →
              (s.offer c dest).2 =
                { s with
                  queue :=
                    { o.2 with
                      entries :=
                        es ++
                          [{ Entry.new c dest with onLine := true, carried := s.carriedBy c }] }
                  line :=
                    { s.line with
                      condition := .busy, activity := .arbitrating
                      attempt :=
                        some { start := s.now, frame := s.frameFor (Entry.new c dest) }
                      wire :=
                        s.line.wire.pull s.now
                          (if (s.frameFor (Entry.new c dest)).bits.getD 0 true = true then 25
                          else 75) } })))
  ∧ ∀ (s : State) (before : List Entry) (e : Entry) (after : List Entry),
      let gone : State := { s with queue := { s.queue with entries := before ++ after } }
      s.queue.entries = before ++ e :: after →
      (∀ tag, e.content.isRequest tag = true →
        (∀ f ∈ before, f.content.isRequest tag = false) →
        s.withdrawRequest tag =
          if e.onLine = true then
            { s with
              queue := { s.queue with entries := before ++ { e with withdrawn := true } :: after } }
          else gone.grantOccasion)
      ∧ (∀ ending, e.onLine = true → e.withdrawn = true → (∀ f ∈ before, f.onLine = false) →
          s.handBack ending = gone.grantOccasion)

/-! ### Frames -/

/-- A frame whose header passed and whose frame check fails is garbled: counted, without effect on any
block, and answered GARBLED for destination 0 and the own address where the station state allows an
answer (R14). A state allows it so: JOINING and ACTIVE for a broadcast and for the own address,
CONFIG_FAULT for the own address alone, the others for nothing (R6). -/
def Obligations.GarbledFrame : Prop :=
  (∀ (c : Instr) (s : State) (kind : BitVec 4) (rx : Rx),
    frameRow c = some (kind, rx) → s.Awake → s.Hears kind rx → headerPasses kind rx = true →
    checkPasses kind rx = false →
    exec c s =
      .next
        { s.advance (moment c) with
          service := { s.service with counters := s.service.counters.inc .framesGarbled }
          line :=
            { s.line with
              activity := .answering, reception := none
              answer :=
                if s.mayAnswer (frameOf kind rx) = true then some { slot := .garbled, seen := 0 }
                else none
              wire :=
                { s.line.wire with quiet := max s.line.wire.quiet (s.now + (moment c).after) } } })
  ∧ ∀ (s : State) (f : Frame),
      s.mayAnswer f = true ↔
        (s.start.state = .joining ∨ s.start.state = .active)
            ∧ (f.destination = 0 ∨ f.destination = s.start.ownAddress)
          ∨ s.start.state = .configFault ∧ f.destination ≠ 0
            ∧ f.destination = s.start.ownAddress

/-- A valid frame of an unknown kind is malformed: counted once, its source heard from, nothing taken of
its body, and answered as malformed (R15). A valid frame is well formed when it meets a row of Table 1-5:
a source, the class, the destination, the body length and the incarnation of its kind, channel numbers
and a period in range, and triples with values within the kind of a channel declared here (R15). The
slots: where the station state allows an answer, a malformed frame draws DECLINED if it is addressed and
nothing if it is a broadcast; a taken frame draws TAKEN as a broadcast or when its block accepts it, and
DECLINED otherwise (R18). -/
def Obligations.UnknownKindIsMalformed : Prop :=
  (∀ (s : State) (dt : Moment) (kind : BitVec 4) (rx : Rx),
    s.Awake → s.HearsValid kind rx → (kind = 0 ∨ 10 < kind.toNat) → s.KnowsSender rx →
    rx.source ≠ 0 →
    exec (.frameOfUnknownKind dt kind rx) s =
      .next
        ((({ s.advance dt with
              service := { s.service with counters := s.service.counters.inc .framesMalformed } } :
            State).setPeer rx.source
          { s.peer rx.source with
            silentAt := some (s.now + dt.after + silenceTime (s.peer rx.source).period) }).answering
          (frameOf kind rx) .malformed))
  ∧ (∀ (records : Vector Record 64) (f : Frame),
      let len := f.body.length
      let within (k : ChanKind) (v : Byte) : Prop :=
        match k with
        | .switch => v.toNat ≤ 1
        | .level => True
        | .select => v.toNat ≤ 15
      let triples (l : List Byte) : Prop :=
        ∀ x ∈ rawTriples l, x.chan.toNat < 64
          ∧ match records[chanOf x.chan] with
            | .unused => True
            | .home h => within h.kind x.value
            | .mirror m => within m.kind x.value
      let broadcast := f.destination = 0
      wellFormed records f = true ↔
        f.source ≠ 0
          ∧ ((f.kind = 1 ∧ f.cls = 2 ∧ broadcast ∧ len ∈ [1, 5, 9, 13] ∧ f.incarnation ≠ 0
                ∧ 5 ≤ (byteAt f.body 0).toNat ∧ (byteAt f.body 0).toNat ≤ 40
                ∧ triples (f.body.drop 1))
            ∨ (f.kind = 2 ∧ f.cls = 1 ∧ broadcast ∧ len ∈ [4, 6, 8, 10, 12]
                ∧ f.incarnation ≠ 0 ∧ triples (f.body.take 4))
            ∨ (f.kind = 3 ∧ f.cls = 0 ∧ ¬broadcast ∧ len = 4 ∧ (byteAt f.body 1).toNat < 64)
            ∨ (f.kind = 4 ∧ f.cls = 2 ∧ ¬broadcast ∧ 1 ≤ len ∧ len ≤ 8
                ∧ ∀ c ∈ f.body, c.toNat < 64)
            ∨ (f.kind = 5 ∧ f.cls = 1 ∧ ¬broadcast ∧ len ∈ [4, 8, 12] ∧ f.incarnation ≠ 0
                ∧ triples f.body)
            ∨ (f.kind = 6 ∧ f.cls = 2 ∧ broadcast ∧ len ≤ 14 ∧ ∀ c ∈ f.body, c.toNat < 64)
            ∨ (f.kind = 7 ∧ f.cls = 1 ∧ ¬broadcast ∧ len ∈ [1, 5, 9, 13]
                ∧ byteAt f.body 0 ≠ 0 ∧ triples (f.body.drop 1))
            ∨ (f.kind = 8 ∧ f.cls = 3 ∧ ¬broadcast ∧ len = 2)
            ∨ (f.kind = 9 ∧ f.cls = 3 ∧ ¬broadcast ∧ 2 ≤ len ∧ len ≤ 14)
            ∨ (f.kind = 10 ∧ f.cls = 3 ∧ ¬broadcast ∧ len = 1)))
  ∧ ∀ (s : State) (f : Frame) (accepted : Bool),
      (s.answering f .malformed).line.answer =
          (if s.mayAnswer f = true ∧ f.destination ≠ 0 then some { slot := .declined, seen := 0 }
          else none)
        ∧ (s.answering f (.taken accepted)).line.answer =
          (if s.mayAnswer f = true then
            some
              { slot := if f.destination = 0 ∨ accepted = true then .taken else .declined
                seen := 0 }
          else none)
        ∧ ∀ j, s.answering f j =
            { s with
              line :=
                { s.line with
                  activity := .answering, reception := none, answer := (s.answering f j).line.answer
                  wire := { s.line.wire with quiet := max s.line.wire.quiet s.now } } }

/-- A valid frame from the own address, malformed or not, is an address conflict (R50, R117): counted as
malformed or taken, nothing taken from it, and the station is in ADDRESS_CONFLICT and answers no slot.
HOME channels are FROZEN; queue, requests, runs and emitter are emptied, and where an emission was
current blanking ends 10 ms later (R145); fades, flashes and the peers' and the station's own deadlines
are stopped, and the fetch-outstanding flags cleared; and the pattern clock starts again (R167, R170). The
other fields of the records, the incarnations, the tag counter, the generations, the image's tables, the
keys, the trackers and the held code stay. -/
def Obligations.OwnAddressHeard : Prop :=
  ∀ (c : Instr) (s : State) (kind : BitVec 4) (rx : Rx),
    frameRow c = some (kind, rx) → s.Awake → s.HearsValid kind rx →
    s.start.state.hearsPeers = true → rx.source = s.start.ownAddress → rx.source ≠ 0 →
    ∃ t, exec c s = .next t
      ∧ t.start =
          { s.start with
            state := .addressConflict, listenAt := none, recallsOut := 0, recallAt := none
            collection := none }
      ∧ t.service =
          { s.service with
            counters :=
              s.service.counters.inc
                (if wellFormed s.channels.records (frameOf kind rx) = true then .framesTaken
                else .framesMalformed) }
      ∧ t.line =
          { s.line with
            activity := .answering, reception := none, answer := none
            wire := { s.line.wire with quiet := max s.line.wire.quiet (s.now + (moment c).after) } }
      ∧ t.queue.entries = [] ∧ t.requests.entries = [] ∧ t.requests.waiting = []
      ∧ t.requests.tagCounter = s.requests.tagCounter
      ∧ t.emitter.current = none ∧ t.emitter.queue = [] ∧ t.emitter.waiting = []
      ∧ t.ir =
          { s.ir with
            blanking :=
              if s.emitter.current.isSome then .ending (s.now + (moment c).after + 10 * ms)
              else s.ir.blanking }
      ∧ (∀ i : SlotId, t.slot i =
          { s.slot i with state := .idle, stack := [], outstanding := [], failed := false })
      ∧ t.macros.table = s.macros.table
      ∧ (∀ ch : Chan, t.chan ch =
          match s.chan ch with
          | .home h => .home { h with state := .frozen }
          | r => r)
      ∧ t.channels.cursor = s.channels.cursor
      ∧ (∀ a : Addr, t.peer a = { s.peer a with silentAt := none, fetchOut := false })
      ∧ t.peers.announceAt = none ∧ t.peers.ownIncarnation = s.peers.ownIncarnation
      ∧ t.peers.ownPeriod = s.peers.ownPeriod
      ∧ (∀ i : OutId, t.outputs.loads[i] =
          { (s.advance (moment c)).outputs.loads[i] with stepAt := none })
      ∧ t.outputs.emitMap = s.outputs.emitMap
      ∧ (∀ i : OutId, t.indicators.indicators[i] =
          { s.indicators.indicators[i] with flash := none })
      ∧ t.indicators.clockStart = s.now + (moment c).after
      ∧ t.scanner = s.scanner ∧ t.gestures = s.gestures ∧ t.bindings = s.bindings

/-- ANNOUNCE and STATE from a known sender: counted, heard from, and each triple judged in body order; a
STATE is taken whatever its destination; after an ANNOUNCE the FETCH decision is made (R16, R49, R59,
R75, R78). A triple at a record (R60, R61): a MIRROR of the source takes it if it is not FRESH, or held
under another incarnation, or older; a HOME record or another owner's mirror counts an ownership
conflict; everything else is left. A triple is four bytes, and its version the low 12 bits of its field
(R178). -/
def Obligations.TriplesAreTaken : Prop :=
  (∀ (s : State) (dt : Moment) (rx : Rx),
    s.Awake → s.KnowsSender rx →
    (s.HearsTaken kindAnnounce rx →
      exec (.announce dt rx) s =
        .next
          (((((s.advance dt).heardFrom (frameOf kindAnnounce rx)).judgeAll rx.source rx.incarnation
            (triplesOf kindAnnounce rx.body)).fetchDecision rx.source).answering
              (frameOf kindAnnounce rx) (.taken true)))
    ∧ (s.HearsTaken kindState rx →
        exec (.state dt rx) s =
          .next
            ((((s.advance dt).heardFrom (frameOf kindState rx)).judgeAll rx.source rx.incarnation
              (triplesOf kindState rx.body)).answering (frameOf kindState rx) (.taken true))))
  ∧ (∀ (src : Addr) (i : Byte) (s : State) (x : Triple) (xs : List Triple),
      s.judgeAll src i [] = s
      ∧ s.judgeAll src i (x :: xs) = (State.judge src i s x).judgeAll src i xs
      ∧ State.judge src i s x =
          match s.chan x.chan with
          | .unused => s
          | .home _ => s.bump .ownershipConflicts
          | .mirror m =>
            if m.owner ≠ src then s.bump .ownershipConflicts
            else if m.state ≠ .fresh ∨ m.heldIncarnation ≠ i
                ∨ (1 ≤ (x.version - m.version).toNat ∧ (x.version - m.version).toNat ≤ 2047) then
              s.setChan x.chan
                (.mirror
                  { m with
                    value := x.value, version := x.version, heldIncarnation := i, state := .fresh })
            else s)
  ∧ ∀ (p c v h l : Byte) (rest : List Byte),
      triplesOf kindAnnounce (p :: rest) = triplesOf kindState rest
      ∧ triplesOf kindState (c :: v :: h :: l :: rest) =
          { chan := chanOf c, value := v, version := ((h ++ l : BitVec 16)).setWidth 12 }
            :: triplesOf kindState rest

/-- A CHANGE from a known sender: its triple is judged, and then the answered pairs are taken in the order
of the list (R59, R63). A pair with the own address and the tag of a request for that channel and owner
confirms it; every other pair, of another address, of no entry, or of an entry for another channel or
owner, is passed over (R85). A confirmed entry leaves the Request Table; where it is still QUEUED, its
REQUEST is withdrawn: off the line it leaves the queue, and on the line it is marked (R86). A binding is
told nothing (R91). A run is told under the generation that issued the request: the tag leaves its
outstanding list, and a CONFIRM that waited for the last tag is judged (R92, R159; the bound of 5,000 steps
and the state performing inside an event are the model's, log entry 27). -/
def Obligations.ChangeIsTaken : Prop :=
  ∀ (s : State) (dt : Moment) (rx : Rx) (x : Triple) (rest : List Triple),
    s.Awake → s.KnowsSender rx → s.HearsTaken kindChange rx →
    triplesOf kindChange rx.body = x :: rest →
    let pairs : List Pair := rawPairs (rx.body.drop 4)
    let own : Byte := s.start.ownAddress.setWidth 8
    let judged : State :=
      ((s.advance dt).heardFrom (frameOf kindChange rx)).judgeAll rx.source rx.incarnation
        (triplesOf kindChange rx.body)
    let confirm (u : State) (p : Pair) : State :=
      match u.requestOf p.tag with
      | some r =>
        if p.address = own ∧ r.chan = x.chan ∧ r.owner = rx.source then
          u.endRequest p.tag .confirmed
        else u
      | none => u
    let without (u : State) (gone : ReqEntry → Bool) : State :=
      { u with
        requests :=
          { u.requests with entries := u.requests.entries.filter fun e => !gone e } }
    exec (.change dt rx) s =
        .next ((pairs.foldl confirm judged).answering (frameOf kindChange rx) (.taken true)).settle
    ∧ ((∀ p ∈ pairs, p.address ≠ own
          ∨ ∀ r, s.requestOf p.tag = some r → r.chan ≠ x.chan ∨ r.owner ≠ rx.source) →
        exec (.change dt rx) s =
          .next (judged.answering (frameOf kindChange rx) (.taken true)))
    ∧ (let named (e : ReqEntry) : Bool :=
        pairs.any (fun p => p.address == own && p.tag == e.tag)
          && (e.chan == x.chan && e.owner == rx.source)
      (s.requests.entries.map ReqEntry.tag).Nodup → s.NoneWaits →
        (∀ e ∈ s.requests.entries, named e = true →
          e.origin = .binding ∧ ∃ t0, e.state = .sent t0) →
        exec (.change dt rx) s =
          .next ((without judged named).answering (frameOf kindChange rx) (.taken true)))
    ∧ ∀ (p : Pair) (r : ReqEntry),
        pairs = [p] → p.address = own → s.requestOf p.tag = some r → r.chan = x.chan →
        r.owner = rx.source → s.NoneWaits →
        let left : State := without judged (fun e => e.tag == p.tag)
        (∀ t0, r.state = .sent t0 → r.origin = .binding →
          exec (.change dt rx) s =
            .next (left.answering (frameOf kindChange rx) (.taken true)))
        ∧ (∀ before q after, r.state = .queued → r.origin = .binding →
            s.queue.entries = before ++ q :: after → q.content.isRequest p.tag = true →
            (∀ f ∈ before, f.content.isRequest p.tag = false) →
            exec (.change dt rx) s =
              .next
                (({ left with
                    queue :=
                      { s.queue with
                        entries :=
                          if q.onLine = true then before ++ { q with withdrawn := true } :: after
                          else before ++ after } } :
                  State).answering (frameOf kindChange rx) (.taken true)))
        ∧ ∀ (i : SlotId) (n : Byte) (t0 : Time), r.state = .sent t0 → r.origin = .run i n →
            let told : RunSlot := { s.slot i with outstanding := (s.slot i).outstanding.erase p.tag }
            ((s.slot i).generation ≠ n ∨ (s.slot i).state = .idle →
              exec (.change dt rx) s =
                .next (left.answering (frameOf kindChange rx) (.taken true)))
            ∧ ((s.slot i).generation = n → (s.slot i).state ≠ .idle →
                (s.slot i).state ≠ .waitConfirm ∨ told.outstanding ≠ [] →
                exec (.change dt rx) s =
                  .next ((left.setSlot i told).answering (frameOf kindChange rx) (.taken true)))
            ∧ ((s.slot i).generation = n → (s.slot i).state = .waitConfirm →
                told.outstanding = [] →
                exec (.change dt rx) s =
                  .next
                    ((State.runSteps 5000 i
                      (left.setSlot i { told with state := .performing })).answering
                        (frameOf kindChange rx) (.taken true)).settle)

/-- A REQUEST from a known sender. To this station in ACTIVE: for a LIVE HOME channel, a valid operation
and a CHANGE that can be had, the operation is applied with the requester's pair and the slot is TAKEN;
otherwise it is declined and nothing else changes (R67, R68). In LISTENING and JOINING it is declined and
nothing else changes (R67). To another station it is counted and heard from, and in no state does it change
anything else or draw a slot (R16, R18, R67). -/
def Obligations.RequestIsDecided : Prop :=
  ∀ (s : State) (dt : Moment) (rx : Rx),
    s.Awake → s.KnowsSender rx → s.HearsTaken kindRequest rx →
    let heard : State := (s.advance dt).heardFrom (frameOf kindRequest rx)
    (∀ tag cb ob x : Byte, s.start.state = .active → rx.destination = s.start.ownAddress →
      rx.body = [tag, cb, ob, x] →
      (∀ h op, s.chan (chanOf cb) = .home h → Op.ofCode ob = some op → h.state = .live →
        opValid h.kind op x = true → s.queue.changeCanBeHad (chanOf cb) = true →
        exec (.request dt rx) s =
          .next
            ((heard.apply (chanOf cb) h op x rx.source
              [{ address := rx.source.setWidth 8, tag := tag }]).answering
                (frameOf kindRequest rx) (.taken true)).settle)
      ∧ ((∀ h op, s.chan (chanOf cb) = .home h → Op.ofCode ob = some op → h.state = .live →
            opValid h.kind op x = true → s.queue.changeCanBeHad (chanOf cb) = false) →
          exec (.request dt rx) s =
            .next (heard.answering (frameOf kindRequest rx) (.taken false))))
    ∧ (s.start.state ≠ .active → rx.destination = s.start.ownAddress →
        exec (.request dt rx) s =
          .next (heard.answering (frameOf kindRequest rx) (.taken false)))
    ∧ (rx.destination ≠ s.start.ownAddress →
        exec (.request dt rx) s = .next ((s.advance dt).overheard (frameOf kindRequest rx)))

/-- An operation applied to a HOME channel: the value becomes the result, the version goes up by 1, a
nonzero LEVEL result becomes the memory level, and last origin names the requester (R65); the outputs
mapped to the channel are retargeted, and the emit map offers the emissions of the entries that match,
each FULL one dropped and counted (R58, R143, R163, R166); then a CHANGE with the new triple is offered,
and if it is refused the channel becomes dirty (R70, R71). The results are those of Table 4-7, for the
operations it has valid (R64). A retarget takes its target by Table 10-2 at once, or by steps where the
output fades. A CHANNEL action applies its operation to a LIVE HOME channel if it is valid there, does
nothing at any other HOME channel, and issues a request for a MIRROR (R66, R149, R150). -/
def Obligations.OperationIsApplied : Prop :=
  (∀ (s : State) (c : Chan) (h : HomeRec) (op : Op) (x : Byte) (origin : Addr) (ps : List Pair),
    s.chan c = .home h →
    let v := opResult h.kind op x h.value h.memory
    let applied : HomeRec :=
      { h with
        value := v, version := h.version + 1, lastOrigin := origin
        memory := if h.kind = .level ∧ v ≠ 0 then v else h.memory }
    let o :=
      (((s.setChan c (.home applied)).tellOutputs c v).emitMap c v).offer
        (.change { chan := c, value := v, version := h.version + 1 } ps) 0
    s.apply c h op x origin ps =
      if o.1 = .refused then o.2.setChan c (.home { applied with dirty := true }) else o.2)
  ∧ (∀ (k : ChanKind) (v m x : Byte),
      opResult k .set x v m = x
      ∧ opResult .switch .toggle x 0 m = 1 ∧ opResult .switch .toggle x 1 m = 0
      ∧ opResult .level .toggle x v m = (if v = 0 then m else 0)
      ∧ (opResult .level .stepUp x v m).toNat = min 255 (v.toNat + x.toNat)
      ∧ (opResult .level .stepDown x v m).toNat = v.toNat - x.toNat
      ∧ (opResult .select .stepUp x v m).toNat = (v.toNat + x.toNat) % 16
      ∧ ((opResult .select .stepDown x v m).toNat + x.toNat) % 16 = v.toNat % 16
      ∧ (opResult .select .stepDown x v m).toNat < 16)
  ∧ (∀ x : Byte,
      (opValid .switch .set x = true ↔ x.toNat ≤ 1) ∧ opValid .level .set x = true
      ∧ (opValid .select .set x = true ↔ x.toNat ≤ 15)
      ∧ opValid .switch .toggle x = true ∧ opValid .level .toggle x = true
      ∧ opValid .select .toggle x = false
      ∧ ∀ op, op = .stepUp ∨ op = .stepDown →
          opValid .switch op x = false ∧ (opValid .level op x = true ↔ x ≠ 0)
          ∧ (opValid .select op x = true ↔ x ≠ 0))
  ∧ (∀ (s : State) (c : Chan) (v : Byte),
      ∃ ld, s.tellOutputs c v = { s with outputs := { s.outputs with loads := ld } }
        ∧ ∀ i : OutId, ld[i] =
            match (s.outputs.loads[i]).map with
            | some m =>
              if m.chan = c then (s.outputs.loads[i]).retarget m.mode v s.now
              else s.outputs.loads[i]
            | none => s.outputs.loads[i])
  ∧ (∀ (o : LoadOutput) (mode : OutputMode) (v : Byte) (now : Time),
      let target : Byte :=
        match mode with
        | .switch => if v = 0 then 0 else 255
        | .dim _ => v
        | .matched m => if v = m then 255 else 0
      let atOnce : Prop :=
        match mode with
        | .dim rate => rate = 0
        | _ => True
      (atOnce → o.retarget mode v now = { o with target := target, duty := target, stepAt := none })
      ∧ (¬atOnce → target = o.duty →
          o.retarget mode v now = { o with target := target, stepAt := none })
      ∧ (¬atOnce → target ≠ o.duty →
          o.retarget mode v now =
            { o with target := target, stepAt := some (o.stepAt.getD (now + 20 * ms)) }))
  ∧ (∀ (s : State) (c : Chan) (v : Byte),
      s.emitMap c v =
        s.outputs.emitMap.foldl
          (fun u e =>
            if e.chan = c ∧ (e.value = none ∨ e.value = some v) then
              if (u.offerEmission e.emission).1 = true then (u.offerEmission e.emission).2
              else (u.offerEmission e.emission).2.bump .emissionsDropped
            else u)
          s)
  ∧ ∀ (s : State) (b : Binding) (c : Chan) (op : Op) (x : Byte), b.action = .channel c op x →
      (∀ h, s.chan c = .home h → h.state = .live → opValid h.kind op x = true →
        s.perform b = s.apply c h op x 0 [])
      ∧ (∀ h, s.chan c = .home h → ¬(h.state = .live ∧ opValid h.kind op x = true) →
          s.perform b = s)
      ∧ (s.chan c = .unused → s.perform b = s)
      ∧ ∀ m, s.chan c = .mirror m → s.perform b = (s.issue c m.owner op x .binding).2

/-- A FETCH from a known sender. To this station in ACTIVE: STATE entries for the HOME channels it lists,
three to an entry, if there are any and there is room for all; otherwise it is declined (R76). In LISTENING
and JOINING it is declined and nothing else changes (R76). To another station it is counted and heard from,
and in no state does it change anything else or draw a slot (R16, R18, R76). The FETCH
decision for an owner: in ACTIVE, with no FETCH to it outstanding, its STALE and UNKNOWN mirrors are
asked for, ascending, up to 8; the flag is set when the entry is admitted (R47, R75). -/
def Obligations.FetchIsAnswered : Prop :=
  (∀ (s : State) (dt : Moment) (rx : Rx),
    s.Awake → s.KnowsSender rx → s.HearsTaken kindFetch rx →
    let heard : State := (s.advance dt).heardFrom (frameOf kindFetch rx)
    let lists := pieces 3 (firsts ((rx.body.map chanOf).filter fun c => (s.chan c).isHome))
    (s.start.state = .active → rx.destination = s.start.ownAddress →
      exec (.fetch dt rx) s =
        if lists ≠ [] ∧ lists.length ≤ s.queue.room 1 then
          .next
            ((heard.offerAll rx.source (lists.map Content.state)).answering (frameOf kindFetch rx)
              (.taken true)).settle
        else .next (heard.answering (frameOf kindFetch rx) (.taken false)))
    ∧ (s.start.state ≠ .active → rx.destination = s.start.ownAddress →
        exec (.fetch dt rx) s = .next (heard.answering (frameOf kindFetch rx) (.taken false)))
    ∧ (rx.destination ≠ s.start.ownAddress →
        exec (.fetch dt rx) s = .next ((s.advance dt).overheard (frameOf kindFetch rx))))
  ∧ ∀ (s : State) (owner : Addr),
      (s.wanted owner =
        ((List.finRange 64).filter fun c =>
          match s.chan c with
          | .mirror m => m.owner == owner && m.state != .fresh
          | _ => false).take 8)
      ∧ (let asks :=
          s.start.state = .active ∧ (s.peer owner).fetchOut = false ∧ s.wanted owner ≠ []
        let o := s.offer (.fetch (s.wanted owner)) owner
        (¬asks → s.fetchDecision owner = s)
        ∧ (asks →
            s.fetchDecision owner =
              if o.1 = .admitted then o.2.setPeer owner { o.2.peer owner with fetchOut := true }
              else o.2)
        ∧ (asks → s.line.condition ≠ .idle →
            s.fetchDecision owner =
              if s.queue.entries.length < 12 then
                ({ s with
                    queue :=
                      { s.queue with
                        entries :=
                          s.queue.entries ++ [Entry.new (.fetch (s.wanted owner)) owner] } } :
                  State).setPeer owner { s.peer owner with fetchOut := true }
              else s))

/-- A RECALL, whose incarnation may be any (Table 1-5). In JOINING and ACTIVE, if an incarnation of its
sender is recorded, RECALL REPLY entries report it with the listed mirrors held under it, three to an entry
and one empty entry where there are none; in LISTENING nothing is offered (R79, R113). Before that, RECALL
is evidence of the sender: with incarnation 0 the peer is JOINING with its incarnation kept, its FRESH
mirrors are STALE, and the requests to it are cancelled (R40, R88); with the nonzero incarnation of a known
sender nothing but its deadline changes (R41); and where the record becomes PRESENT and a FETCH decision
follows, the two come in an order that the manual leaves free (R46, R75; log entry 3). -/
def Obligations.RecallIsAnswered : Prop :=
  (∀ (s : State) (dt : Moment) (rx : Rx),
    s.Awake → s.HearsTaken kindRecall rx → s.start.state.hearsPeers = true →
    rx.source ≠ s.start.ownAddress →
    let f := frameOf kindRecall rx
    let answers (u : State) : State :=
      let j := (u.peer rx.source).incarnation
      if (s.start.state = .joining ∨ s.start.state = .active) ∧ j ≠ 0 then
        u.offerAll rx.source (u.recallAnswers rx.source j (rx.body.map chanOf))
      else u
    let joining : State :=
      ((((s.advance dt).bump .framesTaken).setPeer rx.source
        { s.peer rx.source with
          presence := .joining
          silentAt := some (s.now + dt.after + silenceTime (s.peer rx.source).period) }).staleClaim
        rx.source none)
    let ev := ((s.advance dt).bump .framesTaken).evidence rx.source rx.incarnation none
    (rx.incarnation = 0 →
      exec (.recall dt rx) s =
        .next ((answers (joining.cancelRequests rx.source)).answering f (.taken true)).settle)
    ∧ (rx.incarnation = 0 → (∀ e ∈ s.requests.entries, e.owner ≠ rx.source) →
        exec (.recall dt rx) s = .next ((answers joining).answering f (.taken true)).settle)
    ∧ (s.KnowsSender rx →
        exec (.recall dt rx) s =
          .next ((answers ((s.advance dt).heardFrom f)).answering f (.taken true)).settle)
    ∧ (ev.1 = false ∨ ev.2.wouldFetch rx.source = false →
        exec (.recall dt rx) s = .next ((answers ev.2).answering f (.taken true)).settle)
    ∧ (ev.1 = true → ev.2.wouldFetch rx.source = true →
        let d : State := { ev.2 with draws := ev.2.draws + 1 }
        exec (.recall dt rx) s =
            .next ((answers (d.fetchDecision rx.source)).answering f (.taken true)).settle
          ∨ exec (.recall dt rx) s =
              .next (((answers d).fetchDecision rx.source).answering f (.taken true)).settle))
  ∧ ∀ (s : State) (src : Addr) (j : Byte) (listed : List Chan),
      let held :=
        (List.finRange 64).filter fun c =>
          listed.contains c
            && match s.chan c with
              | .mirror m => m.owner == src && m.state != .unknown && m.heldIncarnation == j
              | _ => false
      s.recallAnswers src j listed =
        if held = [] then [.recallReply j []]
        else (pieces 3 held).map fun cs => .recallReply j cs

/-- A RECALL REPLY to this station from a known sender: in JOINING it is merged into the collection and
TAKEN; without a collection it is late, counted and declined (R110, R111). One to another station is counted
and heard from, and in no state does it change anything else or draw a slot (R16, R18, R79). The merge (R110): a reply
under a later incarnation than the latest starts the collection again, one under the same incarnation
adds to it, and one under an earlier incarnation is disregarded; a triple is kept if its channel is HOME
here and no triple as new is held for it. -/
def Obligations.RecallReplyIsCollected : Prop :=
  (∀ (s : State) (dt : Moment) (rx : Rx),
    s.Awake → s.KnowsSender rx → s.HearsTaken kindRecallReply rx →
    let heard : State := (s.advance dt).heardFrom (frameOf kindRecallReply rx)
    (∀ k, rx.destination = s.start.ownAddress → s.start.state = .joining →
      s.start.collection = some k →
      exec (.recallReply dt rx) s =
        .next
          (({ heard with
              start :=
                { s.start with
                  collection :=
                    some
                      (k.merge ((List.finRange 64).filter fun c => (s.chan c).isHome)
                        (byteAt rx.body 0) (triplesOf kindRecallReply rx.body)) } } :
            State).answering (frameOf kindRecallReply rx) (.taken true)))
    ∧ (rx.destination = s.start.ownAddress → s.start.collection = none →
        exec (.recallReply dt rx) s =
          .next
            ((heard.bump .lateRecallReplies).answering (frameOf kindRecallReply rx)
              (.taken false)))
    ∧ (rx.destination ≠ s.start.ownAddress →
        exec (.recallReply dt rx) s =
          .next ((s.advance dt).overheard (frameOf kindRecallReply rx))))
  ∧ ∀ (k : Collection) (homes : List Chan) (j : Byte) (xs : List Triple),
      let gap := (j.toNat + 255 - k.latest.toNat) % 255
      let keep (c : Collection) (x : Triple) : Collection :=
        if x.chan ∈ homes then
          match c.triples.find? fun u => u.chan == x.chan with
          | none => { c with triples := c.triples ++ [x] }
          | some u =>
            if 1 ≤ (x.version - u.version).toNat ∧ (x.version - u.version).toNat ≤ 2047 then
              { c with
                triples := modifyFirst (fun y => y.chan == x.chan) (fun _ => x) c.triples }
            else c
        else c
      k.merge homes j xs =
        if k.latest = 0 ∨ (1 ≤ gap ∧ gap ≤ 127) then
          xs.foldl keep { latest := j, triples := [] }
        else if j = k.latest then xs.foldl keep k
        else k

/-- A QUERY to this station. From a known sender in JOINING and ACTIVE, the contents are captured, and
with a free place in the queue a REPLY to the asker is admitted and the QUERY is TAKEN; where the item is
unknown, the index out of range or the queue full, it is declined; in LISTENING it is declined (R172). One
to another station is counted and heard from, and in no state does it change anything else or draw a slot
(R16, R18, R172). In
CONFIG_FAULT a SUMMARY is TAKEN so and every other item declined; other frames reach no block there (R16,
R105, R172). A REPLY reaches no block: it is counted and, to this station, declined (R16, R18, R178). -/
def Obligations.QueryIsAnswered : Prop :=
  (∀ (c : Instr) (s : State) (rx : Rx) (item index : Byte),
    frameRow c = some (kindQuery, rx) → s.Awake → s.KnowsSender rx → s.HearsTaken kindQuery rx →
    rx.body = [item, index] →
    let heard : State := (s.advance (moment c)).heardFrom (frameOf kindQuery rx)
    (∀ bytes, rx.destination = s.start.ownAddress → s.start.state ≠ .listening → heard.replyContents item index = some bytes →
      s.queue.entries.length < 12 →
      exec c s =
        .next
          (({ heard with
              queue :=
                { s.queue with
                  entries :=
                    s.queue.entries ++ [Entry.new (.reply (item :: index :: bytes)) rx.source] } } :
            State).answering (frameOf kindQuery rx) (.taken true)))
    ∧ (rx.destination = s.start.ownAddress →
        s.start.state = .listening ∨ heard.replyContents item index = none
          ∨ 12 ≤ s.queue.entries.length →
        exec c s = .next (heard.answering (frameOf kindQuery rx) (.taken false)))
    ∧ (rx.destination ≠ s.start.ownAddress →
        exec c s = .next ((s.advance (moment c)).overheard (frameOf kindQuery rx))))
  ∧ (∀ (c : Instr) (s : State) (kind : BitVec 4) (rx : Rx),
      frameRow c = some (kind, rx) → s.Awake → s.HearsTaken kind rx →
      s.start.state = .configFault →
      let counted : State := (s.advance (moment c)).bump .framesTaken
      (kind = kindQuery → rx.destination = s.start.ownAddress →
        (∀ bytes, rx.body = [1, 0] → counted.replyContents 1 0 = some bytes →
          s.queue.entries.length < 12 →
          exec c s =
            .next
              (({ counted with
                  queue :=
                    { s.queue with
                      entries :=
                        s.queue.entries ++ [Entry.new (.reply (1 :: 0 :: bytes)) rx.source] } } :
                State).answering (frameOf kind rx) (.taken true)))
        ∧ (rx.body ≠ [1, 0] ∨ 12 ≤ s.queue.entries.length →
            exec c s = .next (counted.answering (frameOf kind rx) (.taken false))))
      ∧ ((kind ≠ kindQuery ∧ kind ≠ kindRestart) ∨ rx.destination ≠ s.start.ownAddress →
          exec c s = .next (counted.answering (frameOf kind rx) (.taken false))))
  ∧ ∀ (s : State) (dt : Moment) (rx : Rx),
      s.Awake → s.KnowsSender rx → s.HearsTaken kindReply rx →
      exec (.reply dt rx) s =
        .next
          (((s.advance dt).heardFrom (frameOf kindReply rx)).answering (frameOf kindReply rx)
            (.taken false))

/-- What a SUMMARY reply carries, and, outside CONFIG_FAULT, a CHANNEL reply by the channel's role, a
PEER reply for this station and for another one, and the COUNTERS reply of each group; no other item and
index has contents (R172, R173, R174). A remaining time is in units of 10 ms, rounded up (R174). The
codes are those of Table 12-3, and the three counts are of HOME records, of MIRROR records, and of other
stations that are PRESENT (R37, R173). -/
def Obligations.WhatRepliesCarry : Prop :=
  ([StationState.loading, .configFault, .listening, .joining, .active, .addressConflict].map
      StationState.code = [0, 1, 2, 3, 4, 5]
    ∧ [StartCause.power, .pin, .line].map StartCause.code = [1, 2, 3]
    ∧ [FaultCode.none, .badAddress, .noMemory, .badSignature, .badLength, .badCheck, .badSetting,
        .badChannel, .badMap, .badCodeSet, .badBinding, .badMacro].map FaultCode.code =
          [0, 1, 2, 3, 4, 5, 6, 7, 8, 9, 10, 11]
    ∧ [ChanKind.switch, .level, .select].map ChanKind.code = [1, 2, 3]
    ∧ [HomeState.recalling, .live, .frozen].map HomeState.code = [1, 2, 3]
    ∧ [MirrorState.unknown, .fresh, .stale].map MirrorState.code = [4, 5, 6]
    ∧ [Presence.unseen, .joining, .present, .silent].map Presence.code = [0, 1, 2, 3])
  ∧ (∀ (s : State),
      s.countChans Record.isHome =
          BitVec.ofNat 8
            ((List.finRange 64).countP fun c =>
              match s.chan c with
              | .home _ => true
              | _ => false)
        ∧ s.countChans Record.isMirror =
            BitVec.ofNat 8
              ((List.finRange 64).countP fun c =>
                match s.chan c with
                | .mirror _ => true
                | _ => false)
        ∧ s.presentCount =
            BitVec.ofNat 8
              ((List.range 31).countP fun i =>
                let a : Addr := BitVec.ofNat 5 (i + 1)
                a != s.start.ownAddress && (s.peer a).presence == .present))
  ∧ ∀ (s : State),
    s.replyContents 1 0 = some
      ([s.start.state.code, s.peers.ownIncarnation, s.start.cause.code, s.start.count,
          s.start.fault.code]
        ++ wordBytes s.start.imageId
        ++ [s.countChans Record.isHome, s.countChans Record.isMirror, s.presentCount])
    ∧ (∀ item index : Byte,
        s.replyContents item index = none ↔
          ¬((item = 1 ∧ index = 0)
            ∨ (s.start.state ≠ .configFault
              ∧ ((item = 2 ∧ index.toNat < 64)
                ∨ (item = 3 ∧ 1 ≤ index.toNat ∧ index.toNat ≤ 31)
                ∨ (item = 4 ∧ index.toNat < 3)))))
    ∧ (s.start.state ≠ .configFault →
        (∀ (b : Byte) (h : HomeRec), b.toNat < 64 → s.chan (chanOf b) = .home h →
          s.replyContents 2 b = some
            ([1, h.kind.code, s.start.ownAddress.setWidth 8, h.value]
              ++ wordBytes (h.version.setWidth 16)
              ++ [h.heldIncarnation, h.state.code, if h.dirty then 1 else 0,
                h.lastOrigin.setWidth 8, h.default, if h.kind = .level then h.memory else 0]))
        ∧ (∀ (b : Byte) (m : MirrorRec), b.toNat < 64 → s.chan (chanOf b) = .mirror m →
          s.replyContents 2 b = some
            ([2, m.kind.code, m.owner.setWidth 8, m.value] ++ wordBytes (m.version.setWidth 16)
              ++ [m.heldIncarnation, m.state.code, 0, 0, 0, 0]))
        ∧ (∀ (b : Byte), b.toNat < 64 → s.chan (chanOf b) = .unused →
          s.replyContents 2 b = some (List.replicate 12 0))
        ∧ (∀ (b : Byte), 1 ≤ b.toNat → b.toNat ≤ 31 → b.setWidth 5 = s.start.ownAddress →
          s.replyContents 3 b = some [4, s.peers.ownIncarnation, s.peers.ownPeriod, 0, 0, 0])
        ∧ (∀ (b : Byte), 1 ≤ b.toNat → b.toNat ≤ 31 → b.setWidth 5 ≠ s.start.ownAddress →
          s.replyContents 3 b = some
            (let r := s.peer (b.setWidth 5)
             [r.presence.code, r.incarnation, r.period.getD 0]
              ++ wordBytes
                (match r.silentAt with
                | some t => BitVec.ofNat 16 ((t - s.now + (10 * ms - 1)) / (10 * ms))
                | none => 0)
              ++ [if r.fetchOut then 1 else 0]))
        ∧ s.replyContents 4 0 = some
            (wordBytes s.service.counters.framesTaken ++ wordBytes s.service.counters.framesGarbled
              ++ wordBytes s.service.counters.headerFailures
              ++ wordBytes s.service.counters.framesCut
              ++ wordBytes s.service.counters.framesMalformed
              ++ wordBytes s.service.counters.framesDelivered)
        ∧ s.replyContents 4 1 = some
            (wordBytes s.service.counters.attemptsFailed
              ++ wordBytes s.service.counters.arbitrationLosses
              ++ wordBytes s.service.counters.lineStuckEvents
              ++ wordBytes s.service.counters.ownershipConflicts
              ++ wordBytes s.service.counters.lateRecallReplies
              ++ wordBytes s.service.counters.inputsDiscarded)
        ∧ s.replyContents 4 2 = some
            (wordBytes s.service.counters.emissionsDropped
              ++ wordBytes s.service.counters.requestsFailed))

/-- A RESTART to this station whose target is the own incarnation, from a known sender in JOINING and
ACTIVE, and with target 0 in CONFIG_FAULT: TAKEN, and the restart is pending for the end of the third
slot (R105, R175, R176). With another target, and in LISTENING, it is declined (R175). One to another
station is counted and heard from, and changes nothing else and draws no slot (R16, R18, R175). That the third slot
ends three bit times after the end of the frame check is the model's reading (R17; log entry 17). -/
def Obligations.RestartIsTaken : Prop :=
  ∀ (s : State) (dt : Moment) (rx : Rx) (target : Byte),
    s.Awake → s.HearsTaken kindRestart rx → rx.body = [target] →
    let heard : State := (s.advance dt).heardFrom (frameOf kindRestart rx)
    let counted : State := (s.advance dt).bump .framesTaken
    let pending (u : State) : State :=
      { u with service := { u.service with restart := .atTime (s.now + dt.after + 3 * 100) } }
    (s.KnowsSender rx → rx.destination = s.start.ownAddress → s.start.state ≠ .listening →
      exec (.restart dt rx) s =
        if target = s.peers.ownIncarnation then
          .next ((pending heard).answering (frameOf kindRestart rx) (.taken true))
        else .next (heard.answering (frameOf kindRestart rx) (.taken false)))
    ∧ (s.KnowsSender rx → rx.destination = s.start.ownAddress → s.start.state = .listening →
        exec (.restart dt rx) s =
          .next (heard.answering (frameOf kindRestart rx) (.taken false)))
    ∧ (s.KnowsSender rx → rx.destination ≠ s.start.ownAddress →
        exec (.restart dt rx) s = .next ((s.advance dt).overheard (frameOf kindRestart rx)))
    ∧ (rx.destination = s.start.ownAddress → s.start.state = .configFault →
        s.peers.ownIncarnation = 0 →
        exec (.restart dt rx) s =
          if target = 0 then
            .next ((pending counted).answering (frameOf kindRestart rx) (.taken true))
          else .next (counted.answering (frameOf kindRestart rx) (.taken false)))

/-! ### Peers, requests and runs -/

/-- A peer's silence deadline expires: SILENT, no deadline, its FRESH mirrors STALE; incarnation, period
and requests stay (R44). -/
def Obligations.PeerFallsSilent : Prop :=
  ∀ (s : State) (dt : Moment) (a : Addr) (t0 : Time),
    s.Awake → s.start.state.hearsPeers = true → (s.peer a).silentAt = some t0 →
    t0 ≤ s.now + dt.after →
    ∃ t, exec (.silenceDeadlineExpiry dt a) s = .next t
      ∧ t.peer a = { s.peer a with presence := .silent, silentAt := none }
      ∧ (∀ b : Addr, b ≠ a → t.peer b = s.peer b)
      ∧ (∀ c : Chan, t.chan c =
          match s.chan c with
          | .mirror m =>
            if m.owner = a ∧ m.state = .fresh then .mirror { m with state := .stale }
            else .mirror m
          | r => r)
      ∧ t.channels.cursor = s.channels.cursor
      ∧ t.peers.ownIncarnation = s.peers.ownIncarnation
      ∧ t.peers.ownPeriod = s.peers.ownPeriod ∧ t.peers.announceAt = s.peers.announceAt
      ∧ t.requests = s.requests
      ∧ t.queue = s.queue ∧ t.start = s.start ∧ t.service = s.service ∧ t.macros = s.macros
      ∧ t.scanner = s.scanner ∧ t.gestures = s.gestures ∧ t.ir = s.ir ∧ t.emitter = s.emitter
      ∧ t.bindings = s.bindings ∧ t.indicators = s.indicators
      ∧ t.outputs = (s.advance dt).outputs ∧ t.line = (s.advance dt).line

/-- Evidence of a peer, which every valid frame of another station gives in LISTENING, JOINING and ACTIVE
(R15, R16, R39). Incarnation 0 makes the record JOINING, a nonzero one PRESENT under that incarnation; a
period given is recorded; and the silence deadline starts again, at 3 times the recorded period, or at
12,000 ms without one (R40, R41, R42, R43). Incarnation 0 makes the peer's FRESH mirrors STALE, and a
nonzero one other than that recorded those held under another; either cancels the requests to the peer
(R40, R41, R62, R88), in an order that the manual leaves free (log entry 3). A record that becomes
PRESENT gives a notice, and with it a FETCH decision: after the triples of the frame, before a QUERY is
handed over, and otherwise in either order (R46, R75, R172; log entry 3); a malformed frame's notice gives
it at once, before the slot (log entry 30). From a REQUEST, FETCH, RECALL REPLY, QUERY or RESTART to another
station no block takes anything (R67, R76, R79, R172, R175). Where events of the instant come before a
grant that the frame makes, the cancellations, the hand-over and the FETCH decision still to come come
behind that grant and what it belongs to (R16, R75, R88, R90; log entry 37). -/
def Obligations.EvidenceOfAPeer : Prop :=
  (∀ (c : Instr) (s : State) (kind : BitVec 4) (rx : Rx),
    frameRow c = some (kind, rx) → s.Awake →
    let f := frameOf kind rx
    (s.HearsTaken kind rx →
      let period := if kind = kindAnnounce then some (byteAt rx.body 0) else none
      let ev :=
        ((s.advance (moment c)).bump .framesTaken).evidence rx.source rx.incarnation period
      let h := ev.2.handFrame f ev.1
      exec c s = .next (h.2.answering f (.taken h.1)).settle)
    ∧ (s.HearsValid kind rx → wellFormed s.channels.records f = false → rx.source ≠ 0 →
        let ev :=
          ((s.advance (moment c)).bump .framesMalformed).evidence rx.source rx.incarnation none
        exec c s =
          .next
            ((if ev.1 = true then ev.2.fetchDecision rx.source else ev.2).answering f
              .malformed).settle))
  ∧ (∀ (s : State) (src : Addr) (i : Byte) (p : Option Byte),
      let r := s.peer src
      let period : Option Byte := if p.isSome = true then p else r.period
      let heard : State :=
        s.setPeer src
          { r with
            presence := if i = 0 then .joining else .present
            incarnation := if i = 0 then r.incarnation else i
            period := period
            silentAt :=
              some
                (s.now +
                  match period with
                  | some b => 300 * b.toNat * ms
                  | none => 12000 * ms) }
      (s.start.state.hearsPeers = false → s.evidence src i p = (false, s))
      ∧ (s.start.state.hearsPeers = true → src ≠ s.start.ownAddress →
          s.evidence src i p =
            (decide (i ≠ 0 ∧ r.presence ≠ .present),
              if i = 0 then (heard.staleClaim src none).cancelRequests src
              else if r.incarnation ≠ 0 ∧ r.incarnation ≠ i then
                (heard.staleClaim src (some i)).cancelRequests src
              else heard)))
  ∧ (∀ (s : State) (src : Addr) (except : Option Byte),
      ∃ v, s.staleClaim src except = { s with channels := { s.channels with records := v } }
        ∧ ∀ c : Chan, v[c] =
            match s.chan c with
            | .mirror m =>
              if m.owner = src ∧ m.state = .fresh ∧ except ≠ some m.heldIncarnation then
                .mirror { m with state := .stale }
              else .mirror m
            | r => r)
  ∧ (∀ (s : State) (src : Addr),
      let tags := (s.requests.entries.filter fun e => e.owner == src).map ReqEntry.tag
      (tags = [] → s.cancelRequests src = s)
      ∧ (∀ t, tags = [t] → s.cancelRequests src = s.endRequest t .cancelled)
      ∧ s.cancelRequests src = State.cancelTags tags.length tags s)
  ∧ (∀ (n : Nat) (ts : List Byte) (s : State), 2 ≤ ts.length →
      ∃ t ∈ ts,
        let u : State := ({ s with draws := s.draws + 1 } : State).endRequest t .cancelled
        let rest := ts.filter (· ≠ t)
        State.cancelTags (n + 1) ts s =
          if u.rival ≠ 0 ∧ u.owed ≠ [] then { u with owed := u.owed ++ [.cancels rest] }
          else State.cancelTags n rest u)
  ∧ (∀ (s : State) (f : Frame),
      let period := if f.kind = kindAnnounce then some (byteAt f.body 0) else none
      let ev := (s.bump .framesTaken).evidence f.source f.incarnation period
      let h := ev.2.handFrame f ev.1
      s.takenFrame f =
        if ev.2.rival ≠ 0 ∧ ev.2.owed ≠ [] then
          { ev.2 with owed := ev.2.owed ++ [.handing f ev.1] }
        else h.2.answering f (.taken h.1))
  ∧ ∀ (s : State) (f : Frame), s.start.state.hearsPeers = true →
      let h := s.handByKind f
      let fetched : State := s.fetchDecision f.source
      (f.kind ∈ [kindRequest, kindFetch, kindRecallReply, kindQuery, kindRestart] →
        f.destination ≠ s.start.ownAddress → h = (false, s))
      ∧ (f.kind ∈ [kindAnnounce, kindChange, kindState] →
        s.handFrame f true =
          (h.1,
            if h.2.rival ≠ 0 ∧ h.2.owed ≠ [] then
              { h.2 with owed := h.2.owed ++ [.fetch f.source] }
            else h.2.fetchDecision f.source))
      ∧ (f.kind = kindQuery → s.handFrame f true = fetched.handByKind f)
      ∧ (f.kind ∉ [kindAnnounce, kindChange, kindState] →
          s.wouldFetch f.source = false → s.handFrame f true = h)
      ∧ (f.kind ∉ [kindAnnounce, kindChange, kindState, kindQuery] →
          s.wouldFetch f.source = true →
          let d : State := { s with draws := s.draws + 1 }
          s.handFrame f true = (d.fetchDecision f.source).handByKind f
            ∨ s.handFrame f true =
                ((d.handByKind f).1, (d.handByKind f).2.fetchDecision f.source))

/-- The announce timer expires in ACTIVE: an ANNOUNCE is offered, and whatever the answer the timer
starts again for one period (R48), from the moment the expiry is taken where it is taken late (log entry
26). -/
def Obligations.AnnounceIsOffered : Prop :=
  ∀ (s : State) (dt : Moment) (t0 : Time),
    s.Awake → s.start.state = .active → s.peers.announceAt = some t0 → t0 ≤ s.now + dt.after →
    let timer : PeerTable :=
      { s.peers with announceAt := some (s.now + dt.after + 100 * s.peers.ownPeriod.toNat * ms) }
    exec (.announceTimerExpiry dt) s =
        .next { ((s.advance dt).offer .announce 0).2 with peers := timer }
    ∧ (s.line.condition ≠ .idle →
        exec (.announceTimerExpiry dt) s =
          .next
            { s.advance dt with
              queue :=
                if s.queue.entries.any (fun e => e.content.isAnnounce) = true
                    ∨ 12 ≤ s.queue.entries.length then s.queue
                else { s.queue with entries := s.queue.entries ++ [Entry.new .announce 0] }
              peers := timer })

/-- An issue on a MIRROR channel: BUSY outside ACTIVE, OWNER_ABSENT if the owner is not PRESENT, BUSY if
the table holds 8 entries or the queue refuses the REQUEST, each counted, with a flash of 600 ms on every
indicator mapped to the channel, whatever its match value (R169); with a free place in
table and queue, a QUEUED entry under the next free tag and a REQUEST to the owner, its operand 0 for a
TOGGLE (R81, R82, R93, R178). The tag is the counter's value, or the first after it that no entry holds,
and the counter then stands behind it (R81). -/
def Obligations.RequestIsIssued : Prop :=
  ∀ (s : State) (c : Chan) (owner : Addr) (op : Op) (x : Byte) (o : Originator),
    let failed (u : State) : State :=
      { u with
        service := { u.service with counters := u.service.counters.inc .requestsFailed }
        indicators :=
          { u.indicators with
            indicators :=
              mapV
                (fun i =>
                  match i.map with
                  | .channel d _ => if d = c then { i with flash := some (u.now + 600 * ms) } else i
                  | _ => i)
                u.indicators.indicators } }
    (s.start.state ≠ .active → s.issue c owner op x o = (.busy, failed s))
    ∧ (s.start.state = .active → (s.peer owner).presence ≠ .present →
        s.issue c owner op x o = (.ownerAbsent, failed s))
    ∧ (s.start.state = .active → (s.peer owner).presence = .present →
        8 ≤ s.requests.entries.length → s.issue c owner op x o = (.busy, failed s))
    ∧ (s.start.state = .active → (s.peer owner).presence = .present →
        s.requests.entries.length < 8 →
        ∃ k : Nat, k ≤ 8
          ∧ (∀ j, j < k →
              ∃ e ∈ s.requests.entries, e.tag = s.requests.tagCounter + BitVec.ofNat 8 j)
          ∧ (let tag := s.requests.tagCounter + BitVec.ofNat 8 k
            let request : Content := .request tag c op (if op = .toggle then 0 else x)
            let made : RequestTable :=
              { s.requests with
                entries :=
                  s.requests.entries ++
                    [{ tag := tag, chan := c, op := op, operand := x, owner := owner,
                       state := .queued, origin := o }]
                tagCounter := tag + 1 }
            let offered := s.offer request owner
            (∀ e ∈ s.requests.entries, e.tag ≠ tag)
              ∧ (offered.1 = .admitted →
                  s.issue c owner op x o = (.made tag, { offered.2 with requests := made }))
              ∧ (offered.1 ≠ .admitted → s.issue c owner op x o = (.busy, failed offered.2))
              ∧ (s.queue.entries.length < 12 → offered.1 = .admitted)
              ∧ (s.queue.entries.length < 12 → s.line.condition ≠ .idle →
                  s.issue c owner op x o =
                    (.made tag,
                      { s with
                        queue :=
                          { s.queue with entries := s.queue.entries ++ [Entry.new request owner] }
                        requests := made }))))

/-- A confirm deadline expires: the entry ends UNCONFIRMED (R87); a binding's leaves the table, counted
and flashed (R90, R91). A run's WAIT deadline expires and the run goes on: where the root macro has no
further step the run is COMPLETED, and where the next step is a WAIT it waits again, from the moment the
expiry is taken where it is taken late (R156, R158, R161; log entry 26). A flash likewise runs from that
moment (log entry 26). The bound of 5,000 steps and the state performing inside an event are the model's
(log entry 27). -/
def Obligations.ConfirmAndWaitDeadlines : Prop :=
  (∀ (s : State) (dt : Moment) (tag : Byte) (r : ReqEntry) (t0 : Time),
    s.Awake → s.requestOf tag = some r → r.state = .sent t0 → t0 ≤ s.now + dt.after →
    exec (.confirmDeadlineExpiry dt tag) s =
      .next ((s.advance dt).endRequest tag .unconfirmed).settle
    ∧ (r.origin = .binding → s.NoneWaits →
        exec (.confirmDeadlineExpiry dt tag) s =
          .next
            (({ s.advance dt with
                requests :=
                  { s.requests with entries := s.requests.entries.filter fun e => e.tag != tag } } :
              State).requestFailed r.chan)))
  ∧ ∀ (s : State) (dt : Moment) (i : SlotId) (t0 : Time),
      s.Awake → (s.slot i).state = .waitTime t0 → t0 ≤ s.now + dt.after →
      exec (.waitDeadlineExpiry dt i) s =
          .next
            (State.runSteps 5000 i
              ((s.advance dt).setSlot i
                { s.slot i with
                  state := .performing, step := (s.slot i).step + 1 })).settle
      ∧ (s.stepOf (s.slot i).next = none → (s.slot i).stack = [] →
          exec (.waitDeadlineExpiry dt i) s =
            .next ((s.advance dt).setSlot i (s.slot i).next.ended))
      ∧ (∀ d, s.stepOf (s.slot i).next = some (.wait d) →
          exec (.waitDeadlineExpiry dt i) s =
            .next
              ((s.advance dt).setSlot i
                { (s.slot i).next with state := .waitTime (s.now + dt.after + d * ms) }))

/-- An EMIT action: ACCEPTED, the binding is done; FULL, the emission is dropped, counted, and every
STATION indicator flashes; either way the next record follows at once (R151). -/
def Obligations.EmitActionNeverWaits : Prop :=
  ∀ (s : State) (b : Binding) (e : Emission) (rest : List Binding),
    b.action = .emit e →
    ((b :: rest).foldl State.perform s = rest.foldl State.perform (s.perform b))
    ∧ ((s.offerEmission e).1 = true → s.perform b = (s.offerEmission e).2)
    ∧ ((s.offerEmission e).1 = false → (s.offerEmission e).2 = s
        ∧ s.perform b =
          { s with
            service := { s.service with counters := s.service.counters.inc .emissionsDropped }
            indicators :=
              { s.indicators with
                indicators :=
                  mapV
                    (fun i =>
                      if i.map = .station then { i with flash := some (s.now + 600 * ms) } else i)
                    s.indicators.indicators } })
    ∧ (s.perform b).macros = s.macros

/-- A gesture in any state but ACTIVE is discarded and counted; in ACTIVE the actions of the records that
match, chosen before the first action, are performed in index order (R130, R147, R148). A STOP makes the
slot whose root macro is named IDLE, out of both waiting orders, with its generation kept, and without
such a slot does nothing (R153, R161). A START with both slots on other macros is a station failure
notice; otherwise it takes the slot that runs the macro, ending that run, or the lowest IDLE slot, under
the next generation, and the run performs its steps from the first: where the macro begins with a WAIT
the slot waits at it (R152, R156, R158). The bound of 5,000 steps and the state performing inside an event
are the model's (log entry 27). -/
def Obligations.GestureIsDelivered : Prop :=
  ∀ (s : State),
    (∀ (src : Source) (tr : Trigger),
      s.gesture src tr =
        if s.start.state = .active then
          (s.bindings.filter fun b =>
            b.source == src && b.trigger == tr
              && (match b.condition with
                  | none => true
                  | some (c, v) =>
                    match s.chan c with
                    | .home h => h.state == .live && h.value == v
                    | .mirror m => m.state == .fresh && m.value == v
                    | .unused => false)).foldl State.perform s
        else s.bump .inputsDiscarded)
    ∧ ∀ (b : Binding) (m : MacroId),
        let left (i : SlotId) : State :=
          { s with
            requests := { s.requests with waiting := s.requests.waiting.filter (· ≠ i) }
            emitter := { s.emitter with waiting := s.emitter.waiting.filter (· ≠ i) } }
        let begun (i : SlotId) (st : RunState) : RunSlot :=
          { state := st, root := m, current := m, step := 0, stack := []
            outstanding := [], failed := false, generation := (s.slot i).generation + 1 }
        let alone (i : SlotId) : Prop :=
          (s.slot i).state ≠ .idle ∧ (s.slot i).root = m
            ∧ ∀ j, j ≠ i → (s.slot j).state = .idle ∨ (s.slot j).root ≠ m
        let free (i : SlotId) : Prop :=
          (∀ j, (s.slot j).state = .idle ∨ (s.slot j).root ≠ m)
            ∧ (s.slot i).state = .idle ∧ ∀ j, j < i → (s.slot j).state ≠ .idle
        (b.action = .stop m →
          ((∀ i, (s.slot i).state = .idle ∨ (s.slot i).root ≠ m) → s.perform b = s)
          ∧ ∀ i, alone i →
              s.perform b =
                (left i).setSlot i
                  { s.slot i with state := .idle, stack := [], outstanding := [], failed := false })
        ∧ (b.action = .start m →
          ((∀ i, (s.slot i).state ≠ .idle ∧ (s.slot i).root ≠ m) → s.perform b = s.failStation)
          ∧ (∀ i : SlotId,
              (alone i →
                s.perform b =
                  State.runSteps 5000 i ((left i).setSlot i (begun i .performing)))
              ∧ (free i →
                s.perform b = State.runSteps 5000 i (s.setSlot i (begun i .performing))))
          ∧ ∀ (i : SlotId) (d : Nat) (rest : List Step),
              s.macros.table.getD m.val [] = .wait d :: rest →
              (alone i →
                s.perform b = (left i).setSlot i (begun i (.waitTime (s.now + d * ms))))
              ∧ (free i → s.perform b = s.setSlot i (begun i (.waitTime (s.now + d * ms)))))

/-- The steps of a run, performed one after another until one waits or the run ends (R156; 9.6). A
CHANNEL step applies its operation to a LIVE HOME channel if it is valid there, and at any other HOME
channel sets the failed flag; at a MIRROR it issues a request, whose tag joins the outstanding list; an
absent owner sets the failed flag, and BUSY makes the run wait for the Request Table (R157). A WAIT waits
(R158). A CONFIRM waits while requests are outstanding; with none it ends the run FAILED if it is
STOP_ON_FAIL and the failed flag is set, and otherwise clears the flag and goes on (R159). An EMIT whose
offer is FULL makes the run wait for the emitter (R160). A CALL goes into its macro, 2 deep at most, and
ends the run FAILED beyond that; the end of a macro returns to its caller or completes the run (R156,
R161). -/
def Obligations.RunStepsAct : Prop :=
  (∀ (n : Nat) (i : SlotId) (s : State),
    State.runSteps (n + 1) i s =
      if (s.runStep i).1 = true then State.runSteps n i (s.runStep i).2 else (s.runStep i).2)
  ∧ ∀ (s : State) (i : SlotId),
      let r := s.slot i
      let at? : Option Step := (s.macros.table.getD r.current.val [])[r.step]?
      let next : RunSlot := { r with step := r.step + 1 }
      let ended : State :=
        s.setSlot i { r with state := .idle, stack := [], outstanding := [], failed := false }
      (∀ c op x, at? = some (.channel c op x) →
        (∀ h, s.chan c = .home h → h.state = .live → opValid h.kind op x = true →
          s.runStep i = (true, (s.apply c h op x 0 []).setSlot i next))
        ∧ ((∀ h, s.chan c = .home h → ¬(h.state = .live ∧ opValid h.kind op x = true)) →
            (s.chan c).isMirror = false →
            s.runStep i = (true, s.setSlot i { next with failed := true }))
        ∧ ∀ m, s.chan c = .mirror m →
            let issued := s.issue c m.owner op x (.run i r.generation)
            (∀ tag, issued.1 = .made tag →
              s.runStep i =
                (true,
                  issued.2.setSlot i { next with outstanding := r.outstanding ++ [tag] }))
            ∧ (issued.1 = .ownerAbsent →
                s.runStep i = (true, issued.2.setSlot i { next with failed := true }))
            ∧ (issued.1 = .busy →
                s.runStep i =
                  (false,
                    { issued.2.setSlot i { r with state := .waitTable s.now } with
                      requests :=
                        { issued.2.requests with
                          waiting := issued.2.requests.waiting ++ [i] } })))
      ∧ (∀ d, at? = some (.wait d) →
          s.runStep i = (false, s.setSlot i { r with state := .waitTime (s.now + d * ms) }))
      ∧ (∀ stop, at? = some (.confirm stop) →
          s.runStep i =
            if r.outstanding ≠ [] then (false, s.setSlot i { r with state := .waitConfirm })
            else if stop = true ∧ r.failed = true then (false, ended.failStation)
            else (true, s.setSlot i { next with failed := false }))
      ∧ (∀ e, at? = some (.emit e) →
          let offered := s.offerEmission e
          (offered.1 = true → s.runStep i = (true, offered.2.setSlot i next))
          ∧ (offered.1 = false →
              s.runStep i =
                (false,
                  { s.setSlot i { r with state := .waitEmitter s.now } with
                    emitter := { s.emitter with waiting := s.emitter.waiting ++ [i] } })))
      ∧ (∀ m, at? = some (.call m) →
          s.runStep i =
            if r.stack.length < 2 then
              (true,
                s.setSlot i
                  { r with
                    stack := (r.current, r.step + 1) :: r.stack, current := m, step := 0 })
            else (false, ended.failStation))
      ∧ (at? = none →
          (r.stack = [] → s.runStep i = (false, ended))
          ∧ ∀ m k rest, r.stack = (m, k) :: rest →
              s.runStep i =
                (true, s.setSlot i { r with current := m, step := k, stack := rest }))

/-- The end of a request (R86 to R92): a QUEUED request that is CONFIRMED or CANCELLED has its REQUEST
withdrawn (R86, R88; the withdrawal first, log entry 10); the entry leaves the table, a grant is made,
and every outcome but CONFIRMED is counted and flashed; then it is routed, to a run only under the
generation that issued it. There the tag leaves the outstanding list, an outcome other than CONFIRMED
sets the failed flag, and a CONFIRM that waited for the last tag is judged (R92, R159). A grant occasion
of the Request Table grants the head of its waiting order while there is room: ACTIVE, fewer than 8
requests, and a place for a class-0 entry; the granted run does its step again (R94, R95). Three grants
are enough for its two slots, and 5,000 steps for a run: both bounds, and the state in which a run is in
the midst of its steps, are the model's own (log entry 27). One of the emitter grants the head of the
order if a place is free (R144). Where other events of the same instant reach the freed place before the
grant (R96), the event goes up to that grant, then they happen, and then comes the grant with the rest of
the event, part by part and up to a later grant that another event comes before, all before the next
command; how the commands say which events these are and which grant they come before, that they then only
let their time pass, that one from the line does not come in the midst of a frame, and that one behind
which the station has left ACTIVE comes in the order of the queue, is the model's choice (log entry 37). An
eviction gives its occasion after the offers of its event (R95; log entry 9). -/
def Obligations.OutcomesAndGrants : Prop :=
  let concluded (g : State) (e : ReqEntry) (o : ReqOutcome) : State :=
    let w : State := if o = .confirmed then g else (g.bump .requestsFailed).failChannel e.chan
    match e.origin with
    | .binding => w
    | .run i n =>
      if (w.slot i).generation = n then w.outcomeToRun i e.tag (decide (o = .confirmed)) else w
  let behind (s : State) : Bool := s.rival != 0 && !s.owed.isEmpty
  let owing (s : State) (o : Owing) : State := { s with owed := s.owed ++ [o] }
  let finished (s : State) (e : ReqEntry) (o : ReqOutcome) : State :=
    let g : State :=
      ({ s with
          requests :=
            { s.requests with entries := s.requests.entries.filter fun x => x.tag != e.tag } } :
        State).grantOccasion
    if behind g then owing g (.conclusion e o) else concluded g e o
  (∀ (s : State) (tag : Byte) (o : ReqOutcome) (e : ReqEntry),
    s.requestOf tag = some e →
    let u : State :=
      if e.state = .queued ∧ (o = .confirmed ∨ o = .cancelled) then s.withdrawRequest tag else s
    s.endRequest tag o = if behind u then owing u (.removal e o) else finished u e o)
  ∧ (∀ (s : State) (tag : Byte) (o : ReqOutcome), s.requestOf tag = none → s.endRequest tag o = s)
  ∧ (∀ (s : State) (i : SlotId) (tag : Byte) (confirmed : Bool),
      let r := s.slot i
      let told : RunSlot :=
        { r with
          outstanding := r.outstanding.erase tag
          failed := r.failed || !confirmed }
      s.outcomeToRun i tag confirmed =
        if r.state = .idle then s
        else if r.state = .waitConfirm ∧ told.outstanding = [] then
          State.runSteps 5000 i (s.setSlot i { told with state := .performing })
        else s.setSlot i told)
  ∧ (∀ (s : State),
      s.requestRoom = true ↔
        s.start.state = .active ∧ s.requests.entries.length < 8
          ∧ (s.queue.entries.length < 12
            ∨ ∃ e ∈ s.queue.entries, e.onLine = false
              ∧ (e.content.cls = 3 ∨ e.content.isAnnounce = true)))
  ∧ (∀ (n : Nat) (s : State),
      s.grantOccasion = (if behind s then owing s .table else State.grants 3 s)
      ∧ (s.requests.waiting = [] → State.grants (n + 1) s = s)
      ∧ (s.requestRoom = false → State.grants (n + 1) s = s)
      ∧ ∀ i rest, s.requests.waiting = i :: rest → s.requestRoom = true →
          State.grants (n + 1) s =
            if s.rival = 1 then owing s .table
            else
              State.grants n
                (State.runSteps 5000 i
                  (({ s with
                      rival := s.rival - 1
                      requests := { s.requests with waiting := rest } } : State).setSlot i
                    { s.slot i with state := .performing })))
  ∧ (∀ (s : State),
      (s.emitter.waiting = [] ∨ 4 ≤ s.emitter.queue.length → s.emitterGrant = s)
      ∧ ∀ i rest, s.emitter.waiting = i :: rest → s.emitter.queue.length < 4 →
          s.emitterGrant =
            if s.rival = 1 then owing s .emitter
            else
              State.runSteps 5000 i
                (({ s with
                    rival := s.rival - 1
                    emitter := { s.emitter with waiting := rest } } : State).setSlot i
                  { s.slot i with state := .performing }))
  ∧ (∀ (s : State),
      (s.queue.evicted = false → s.settle = s)
      ∧ (s.queue.evicted = true →
          let t := ({ s with queue := { s.queue with evicted := false } } : State).grantOccasion
          s.settle = { t with queue := { t.queue with evicted := false } }))
  ∧ (∀ (s : State) (e : ReqEntry) (o : ReqOutcome) (tags : List Byte) (src : Addr) (c : Chan)
      (q : Pair) (f : Frame) (notice : Bool),
      s.pay .table = s.grantOccasion
      ∧ s.pay .emitter = s.emitterGrant
      ∧ s.pay (.removal e o) = (if s.requestOf e.tag = some e then finished s e o else s)
      ∧ s.pay (.conclusion e o) = concluded s e o
      ∧ s.pay (.cancels tags) = State.cancelTags tags.length tags s
      ∧ s.pay (.pair src c q) = s.matchPair src c q
      ∧ s.pay (.fetch src) = s.fetchDecision src
      ∧ s.pay (.handing f notice) =
          (if s.line.activity = .receiving then
            (s.handFrame f notice).2.answering f (.taken (s.handFrame f notice).1)
          else s)
      ∧ s.pay (.malformed f notice) =
          (if s.line.activity = .receiving then
            (if notice = true then s.fetchDecision f.source else s).answering f .malformed
          else s))
  ∧ (∀ (s : State) (n : Nat) (c : Instr) (cs : List Instr),
      let next (s : State) (o : Owing) : State := if behind s then owing s o else s.pay o
      let t : State := (effectOf c (({ s with owed := [] } : State).advance (moment c))).settle
      let beside : State := { t with owed := s.owed ++ t.owed }
      s.goOn n = (s.owed.foldl next { s with rival := n, owed := [] }).settle
      ∧ (s.owed = [] ∨ (fromLine c = true ∧ s.owed.any Owing.ofFrame = true)
          ∨ beside.start.state ≠ .active → s.metBy c = none)
      ∧ (s.owed ≠ [] → ¬(fromLine c = true ∧ s.owed.any Owing.ofFrame = true) →
          beside.start.state = .active → s.metBy c = some beside)
      ∧ s.meet [] = (0, s.goOn 0)
      ∧ ((s.goOn (moment c).rival).metBy c = none → s.meet (c :: cs) = (0, s.goOn 0))
      ∧ ∀ u, (s.goOn (moment c).rival).metBy c = some u →
          s.meet (c :: cs) = ((u.meet cs).1 + 1, (u.meet cs).2))
  ∧ (∀ (c : Instr) (s : State), isReset c = false → s.start.hold = .none →
      exec c s = event (moment c) s (effectOf c))
  ∧ ∀ (s : State) (dt : Moment) (effect : State → State),
      s.start.hold = .none →
      let others : List Instr :=
        s.pending.takeWhile fun c =>
          (moment c).rival != 0 && (moment c).after == 0 && !isReset c
      let alone : State :=
        (effect (({ s with rival := 0, owed := [] } : State).advance dt)).settle
      (s.taken ≠ 0 → event dt s effect = .next { s.advance dt with taken := s.taken - 1 })
      ∧ (s.taken = 0 → others = [] → event dt s effect = .next alone)
      ∧ ∀ c cs, s.taken = 0 → others = c :: cs →
          let first : State :=
            (effect
              (({ s with rival := (moment c).rival, owed := [] } : State).advance dt)).settle
          (first.metBy c = none → event dt s effect = .next alone)
          ∧ ∀ u, first.metBy c = some u →
              event dt s effect = .next { (u.meet cs).2 with taken := (u.meet cs).1 + 1 }

/-! ### Keys -/

/-- A scan drives the rows in turn and reads the columns of each (R119). A reading that disagrees with
the debounced state for the third time in a row changes it (R120): the releases come before the presses,
each in ascending key number, and the next scan is 8 ms away, counted from a late scan where it is taken
late (R119; log entry 26). A debounced press during the settling scans leaves its key HELD_AT_START
(R122, R125); with 4 keys listed, or where it completes a rectangle with three listed keys, it leaves it
IGNORED (R122); otherwise it lists the key with its stuck deadline, starts its tracker and hands PRESS
(R121, R122, R126). A debounced release makes the key UP; a listed key leaves the list, and its tracker
ends with SHORT_RELEASE and RELEASE, or with RELEASE alone when it was HELD (R123, R128). -/
def Obligations.ScanReadsTheKeys : Prop :=
  (∀ (s : State) (dt : Moment) (columns : Vector (BitVec 6) 8) (t0 : Time),
    s.Awake → s.scanner.scanAt = some t0 → t0 ≤ s.now + dt.after →
    let down (k : Key) : Bool :=
      (columns[k.val / 6]'(by have := k.isLt; omega)).getLsbD (k.val % 6)
    let disagrees (k : Key) : Bool := down k != ((s.keyRec k).state != .up)
    let changed (pressed : Bool) : List Key :=
      (List.finRange 48).filter fun k =>
        down k == pressed && disagrees k && decide (2 ≤ (s.keyRec k).count)
    let counted : State :=
      { s.advance dt with
        scanner :=
          { s.scanner with
            keys :=
              tabV fun k =>
                { s.keyRec k with
                  count :=
                    if disagrees k = true ∧ (s.keyRec k).count < 2 then (s.keyRec k).count + 1
                    else 0 } } }
    let u : State :=
      (changed true).foldl State.keyPress ((changed false).foldl State.keyRelease counted)
    exec (.scan dt columns) s =
        .next
          ({ u with
              scanner :=
                { u.scanner with
                  scanAt := some (s.now + dt.after + 8 * ms)
                  settling := u.scanner.settling - 1 } } : State).settle
    ∧ ((∀ k : Key, disagrees k = false) →
        exec (.scan dt columns) s =
          .next
            { s.advance dt with
              scanner :=
                { s.scanner with
                  keys := mapV (fun r => { r with count := 0 }) s.scanner.keys
                  settling := s.scanner.settling - 1
                  scanAt := some (s.now + dt.after + 8 * ms) } }))
  ∧ ∀ (s : State) (k : Key),
      let put (st : KeyState) (pressed : List Pressed) (trackers : List Tracker) : State :=
        { s with
          scanner :=
            { s.scanner with
              keys := s.scanner.keys.set k { s.keyRec k with state := st }, pressed := pressed }
          gestures := { s.gestures with trackers := trackers } }
      let listed : List Key := s.scanner.pressed.map Pressed.key
      let rectangle : Prop :=
        ∃ a ∈ listed, ∃ b ∈ listed, ∃ d ∈ listed,
          a.val / 6 = k.val / 6 ∧ a.val % 6 ≠ k.val % 6
            ∧ b.val % 6 = k.val % 6 ∧ b.val / 6 ≠ k.val / 6
            ∧ d.val / 6 = b.val / 6 ∧ d.val % 6 = a.val % 6
      let off := s.scanner.pressed.filter fun p => p.key != k
      (s.scanner.settling ≠ 0 →
        s.keyPress k = put .heldAtStart s.scanner.pressed s.gestures.trackers)
      ∧ (s.scanner.settling = 0 → 4 ≤ s.scanner.pressed.length ∨ rectangle →
          s.keyPress k = put .ignored s.scanner.pressed s.gestures.trackers)
      ∧ (s.scanner.settling = 0 → s.scanner.pressed.length < 4 → ¬rectangle →
          s.keyPress k =
            (put .listed
              (s.scanner.pressed ++ [{ key := k, stuckAt := s.now + 30000 * ms }])
              (s.gestures.trackers ++
                [{ source := .key k, phase := .short (s.now + s.gestures.holdTime) }])).gesture
              (.key k) .press)
      ∧ ((s.keyRec k).state ≠ .listed →
          s.keyRelease k = put .up s.scanner.pressed s.gestures.trackers)
      ∧ ∀ before phase after, (s.keyRec k).state = .listed →
          s.gestures.trackers = before ++ { source := .key k, phase := phase } :: after →
          (∀ x ∈ before ++ after, x.source ≠ .key k) →
          s.keyRelease k =
            match phase with
            | .short _ =>
              ((put .up off (before ++ after)).gesture (.key k) .shortRelease).gesture (.key k)
                .release
            | .held _ => (put .up off (before ++ after)).gesture (.key k) .release

/-- A stuck deadline expires, the first due in the pressed-key list: the key is STUCK, its gesture ends
with SHORT_RELEASE and RELEASE, or with RELEASE alone when it was HELD, and then it leaves the list
(R124, R128). -/
def Obligations.KeyIsStuck : Prop :=
  ∀ (s : State) (dt : Moment) (p : Pressed) (before after : List Tracker) (phase : Phase),
    s.Awake →
    s.scanner.pressed.find? (fun q => decide (q.stuckAt ≤ s.now + dt.after)) = some p →
    s.gestures.trackers = before ++ { source := .key p.key, phase := phase } :: after →
    (∀ x ∈ before ++ after, x.source ≠ .key p.key) →
    let stuck : State :=
      { s.advance dt with
        scanner :=
          { s.scanner with
            keys := s.scanner.keys.set p.key { s.keyRec p.key with state := .stuck } }
        gestures := { s.gestures with trackers := before ++ after } }
    let u : State :=
      match phase with
      | .short _ => (stuck.gesture (.key p.key) .shortRelease).gesture (.key p.key) .release
      | .held _ => stuck.gesture (.key p.key) .release
    exec (.stuckDeadlineExpiry dt) s =
      .next
        ({ u with
            scanner :=
              { u.scanner with
                pressed := s.scanner.pressed.filter fun q => q.key != p.key } } : State).settle

/-- A hold deadline makes the tracker HELD with its first repeat deadline and hands HOLD; a repeat
deadline sets the next one and hands REPEAT (R127). The tracker is that of the held code, or of the key
trackers the one with the earliest deadline, at one instant the one whose key stands first in the
pressed-key list (R127); that a command names no key, so that always the earliest is taken, is the
model's reading (log entry 25), and the new deadline runs from the moment the expiry is taken where it is
taken late (log entry 26). -/
def Obligations.HoldAndRepeat : Prop :=
  (∀ (s : State) (dt : Moment) (which : TrackerSel) (x : Tracker) (d : Time),
    s.Awake → s.nextTracker which = some x → d ≤ s.now + dt.after →
    (x.phase = .short d →
      exec (.holdDeadlineExpiry dt which) s =
        .next
          ((((s.advance dt).setTrackers
            (modifyFirst (fun t => t.source == x.source)
              (fun t => { t with phase := .held (s.now + dt.after + s.gestures.repeatPeriod) })
              s.gestures.trackers)).gesture x.source .hold).settle))
    ∧ (x.phase = .held d →
        exec (.repeatDeadlineExpiry dt which) s =
          .next
            ((((s.advance dt).setTrackers
              (modifyFirst (fun t => t.source == x.source)
                (fun t => { t with phase := .held (s.now + dt.after + s.gestures.repeatPeriod) })
                s.gestures.trackers)).gesture x.source .repeated).settle)))
  ∧ ∀ (s : State),
      let due (x : Tracker) : Time :=
        match x.phase with
        | .short t => t
        | .held t => t
      let ofKeys : List Tracker :=
        s.scanner.pressed.filterMap fun p =>
          s.gestures.trackers.find? fun x => x.source == .key p.key
      (ofKeys = [] → s.nextTracker .key = none)
      ∧ (∀ before x after, ofKeys = before ++ x :: after →
          (∀ y ∈ before, due x < due y) → (∀ y ∈ after, due x ≤ due y) →
          s.nextTracker .key = some x)
      ∧ s.nextTracker .ir =
          s.gestures.trackers.find? fun x =>
            match x.source with
            | .key _ => false
            | .ir _ _ => true

/-! ### Infrared -/

/-- The infrared decoder. A window runs from N × (100 − t) / 100 to N × (100 + t) / 100 µs, both ends
included (R131). The start of a mark is measured from and judges the space before it, where that was
measured (R132): after a leader, in the leader space window it begins the bits, else in the hold space
window the stop mark of a hold marker (R133); in BITS, in the zero space window it is a bit 0, else in
the one space window a bit 1, placed at position bits read, and with the last bit the stop mark begins
(R134); any other space abandons the reception (R136). The end of a measured mark in IDLE is compared with
the leader windows of the declared sets (R133); a mark in the bit mark window lets the bits go on (R134)
or completes the reception (R135); one outside it abandons the reception and is judged as IDLE judges it
(R136). An interval past the upper ends of all windows it could still match abandons the reception, and
the mark in progress is still measured from its start (R132, R136). A mark that was not measured from its
start is ignored, and a blanked receiver only follows the level of its input (R132). That an edge to the
level the input already has, and a limit that is not passed, change nothing is the model's choice (log
entry 2). -/
def Obligations.InfraredEdges : Prop :=
  (∀ (nominal tolerance : Nat) (d : Time),
    inWindow nominal tolerance d = true ↔
      nominal * (100 - tolerance) * us ≤ 100 * d ∧ 100 * d ≤ nominal * (100 + tolerance) * us)
  ∧ (∀ (r : IrReceiver) (d : Time) (set : SetId),
      let fits (x : SetId) : Prop :=
        ∃ c, r.codeSets[x.val]? = some c ∧ inWindow c.leaderMark c.tolerance d = true
      (r.leaderSet d = some set ↔ fits set ∧ ∀ x, x < set → ¬fits x)
      ∧ (r.leaderSet d = none ↔ ∀ x, ¬fits x))
  ∧ (∀ (r : IrReceiver) (d : Time) (set : SetId) (c : CodeSet),
      r.codeSets[set.val]? = some c →
      let fitsIn (n : Nat) : Prop := inWindow n c.tolerance d = true
      let past (n : Nat) : Prop := n * (100 + c.tolerance) * us < 100 * d
      (r.decoder = .idle → r.spaceEnd d = .idle ∧ r.limitPassed d = false)
      ∧ (r.decoder = .leader set →
          (fitsIn c.leaderSpace → r.spaceEnd d = .bits set 0 0)
          ∧ (¬fitsIn c.leaderSpace → fitsIn c.holdSpace → r.spaceEnd d = .stop set .hold)
          ∧ (¬fitsIn c.leaderSpace → ¬fitsIn c.holdSpace → r.spaceEnd d = .idle)
          ∧ (r.limitPassed d = true ↔ r.level = false ∧ past c.leaderSpace ∧ past c.holdSpace))
      ∧ (∀ n v, r.decoder = .bits set n v →
          let read (v : CodeValue) : Decoder :=
            if n + 1 = c.bitCount then .stop set (.code v) else .bits set (n + 1) v
          (fitsIn c.zeroSpace → r.spaceEnd d = read v)
          ∧ (¬fitsIn c.zeroSpace → fitsIn c.oneSpace →
              r.spaceEnd d = read (v ||| (1#32 <<< n)))
          ∧ (¬fitsIn c.zeroSpace → ¬fitsIn c.oneSpace → r.spaceEnd d = .idle)
          ∧ (r.limitPassed d = true ↔
              (r.level = true ∧ past c.bitMark)
                ∨ (r.level = false ∧ past c.zeroSpace ∧ past c.oneSpace)))
      ∧ ∀ res, r.decoder = .stop set res →
          (r.limitPassed d = true ↔ r.level = true ∧ past c.bitMark))
  ∧ (∀ (s : State) (dt : Moment) (mark : Bool), s.Awake →
      (s.ir.level = mark → exec (.irInputEdge dt mark) s = .next (s.advance dt))
      ∧ (s.ir.blanking ≠ .off →
          exec (.irInputEdge dt mark) s =
            .next { s.advance dt with ir := { s.ir with level := mark } }
          ∧ exec (.limitPassed dt) s = .next (s.advance dt))
      ∧ (s.ir.since = none →
          exec (.limitPassed dt) s = .next (s.advance dt)
          ∧ (s.ir.blanking = .off → s.ir.level = true →
              exec (.irInputEdge dt false) s =
                .next { s.advance dt with ir := { s.ir with level := false } })
          ∧ (s.ir.blanking = .off → s.ir.level = false →
              exec (.irInputEdge dt true) s =
                .next
                  { s.advance dt with
                    ir := { s.ir with level := true, since := some (s.now + dt.after) } })))
  ∧ ∀ (s : State) (dt : Moment) (t0 : Time),
      s.Awake → s.ir.blanking = .off → s.ir.since = some t0 →
      let d : Time := s.now + dt.after - t0
      let judged : Decoder :=
        match s.ir.leaderSet d with
        | some set => .leader set
        | none => .idle
      let measured (level : Bool) (decoder : Decoder) : State :=
        { s.advance dt with
          ir :=
            { s.ir with level := level, since := some (s.now + dt.after), decoder := decoder } }
      (s.ir.level = false →
        exec (.irInputEdge dt true) s = .next (measured true (s.ir.spaceEnd d)))
      ∧ (s.ir.level = true →
          (s.ir.decoder = .idle → exec (.irInputEdge dt false) s = .next (measured false judged))
          ∧ ∀ set c, s.ir.codeSets[set.val]? = some c →
              let fits : Prop := inWindow c.bitMark c.tolerance d = true
              (∀ n v, s.ir.decoder = .bits set n v →
                (fits → exec (.irInputEdge dt false) s = .next (measured false s.ir.decoder))
                ∧ (¬fits → exec (.irInputEdge dt false) s = .next (measured false judged)))
              ∧ ∀ res, s.ir.decoder = .stop set res →
                  (fits →
                    exec (.irInputEdge dt false) s =
                      match res with
                      | .code v =>
                        .next ((measured false .idle).decoded (.code set v)).settle
                      | .hold => .next ((measured false .idle).decoded (.hold set)).settle)
                  ∧ (¬fits → exec (.irInputEdge dt false) s = .next (measured false judged)))
      ∧ (s.ir.limitPassed d = true →
          exec (.limitPassed dt) s =
            .next { s.advance dt with ir := { s.ir with decoder := .idle } })
      ∧ (s.ir.limitPassed d = false → exec (.limitPassed dt) s = .next (s.advance dt))

/-- A stop mark in its window ends a reception (R135). At a CODE result with no code held, the code is
held with its release timeout, and IR down starts a tracker and hands PRESS; the held code again only
has its release deadline refreshed; another code first ends the held one with IR up, and where that
begins an emission the deadline just set is suspended (R126, R137, R142; log entry 40). A HOLD result for
the set of the held code refreshes the release deadline, and any other does nothing (R137). The release
deadline ends the held code: its tracker ends with SHORT_RELEASE and RELEASE, or with RELEASE alone when
it was HELD (R128, R138). -/
def Obligations.CodesAreHeldAndReleased : Prop :=
  (∀ (s : State) (dt : Moment) (t0 : Time) (set : SetId) (c : CodeSet),
    s.Awake → s.ir.blanking = .off → s.ir.since = some t0 → s.ir.level = true →
    s.ir.codeSet set = some c → inWindow c.bitMark c.tolerance (s.now + dt.after - t0) = true →
    let measured (held : Option HeldCode) : State :=
      { s.advance dt with
        ir :=
          { s.ir with
            level := false, since := some (s.now + dt.after), decoder := .idle, held := held } }
    let release : Release := .running (s.now + dt.after + c.releaseTimeout * ms)
    let tracked (u : State) (v : CodeValue) : State :=
      { u with
        gestures :=
          { u.gestures with
            trackers :=
              u.gestures.trackers ++
                [{ source := .ir set v, phase := .short (s.now + dt.after + s.gestures.holdTime) }] } }
    (∀ v, s.ir.decoder = .stop set (.code v) →
      (s.ir.held = none →
        exec (.completeCode dt) s =
          .next
            ((tracked (measured (some { set := set, value := v, release := release })) v).gesture
              (.ir set v) .press).settle)
      ∧ (∀ h, s.ir.held = some h → h.set = set → h.value = v →
          exec (.completeCode dt) s = .next (measured (some { h with release := release })))
      ∧ (∀ h, s.ir.held = some h → ¬(h.set = set ∧ h.value = v) →
          let u : State := (measured none).trackUp (.ir h.set h.value)
          let r : Release :=
            if u.ir.blanking = .off then release else .suspended (c.releaseTimeout * ms)
          exec (.completeCode dt) s =
            .next
              ((tracked
                ({ u with
                    ir := { u.ir with held := some { set := set, value := v, release := r } } } :
                  State) v).gesture (.ir set v) .press).settle))
    ∧ (s.ir.decoder = .stop set .hold →
        (∀ h, s.ir.held = some h → h.set = set →
          exec (.holdMarker dt) s = .next (measured (some { h with release := release })))
        ∧ ((∀ h, s.ir.held = some h → h.set ≠ set) →
            exec (.holdMarker dt) s = .next (measured s.ir.held))))
  ∧ (∀ (s : State) (dt : Moment) (t0 : Time) (h : HeldCode),
      s.Awake → s.ir.blanking = .off → s.ir.held = some h → h.release = .running t0 →
      t0 ≤ s.now + dt.after →
      exec (.releaseDeadlineExpiry dt) s =
        .next
          (({ s.advance dt with ir := { s.ir with held := none } } : State).trackUp
            (.ir h.set h.value)).settle)
  ∧ ∀ (s : State) (src : Source) (before : List Tracker) (phase : Phase) (after : List Tracker),
      s.gestures.trackers = before ++ { source := src, phase := phase } :: after →
      (∀ x ∈ before ++ after, x.source ≠ src) →
      let u : State := { s with gestures := { s.gestures with trackers := before ++ after } }
      s.trackUp src =
        match phase with
        | .short _ => (u.gesture src .shortRelease).gesture src .release
        | .held _ => u.gesture src .release

/-- An emission offered to an emitter at rest begins at once; while one is current up to 4 wait, and a
further one, or any in ADDRESS_CONFLICT, is FULL (R140). As it begins, an unblanked receiver abandons a
reception, measures nothing, and suspends the release deadline of the held code with the time that
remains (R142). The frames of an emission are one frame period apart or begin at the end of the frame
before: first the full code, its bits with the low bit first, then hold markers (R135, R141). At the end
of an emission the oldest waiting one begins, and the freed place is granted, or, where another event of
the same instant reaches it first, granted behind that event if it is still free (R144; log entry 37); with
none waiting the emitter rests, and blanking ends 10 ms later (R140, R142). When blanking ends, the
receiver measures again from the next mark, and a suspended release deadline resumes (R142). The times
run from the moment an event is taken where it is taken late (log entry 26). -/
def Obligations.EmissionProceeds : Prop :=
  (∀ (s : State) (e : Emission),
    (s.start.state = .addressConflict → s.offerEmission e = (false, s))
    ∧ (s.start.state ≠ .addressConflict → s.emitter.current = none →
        s.offerEmission e =
          (true,
            { s with
              emitter :=
                { s.emitter with
                  current := some { emission := e, begun := 1, frameStart := s.now } }
              ir :=
                match s.ir.blanking with
                | .off =>
                  { s.ir with
                    decoder := .idle, since := none, blanking := .on
                    held :=
                      s.ir.held.map fun h =>
                        { h with
                          release :=
                            match h.release with
                            | .running t => .suspended (t - s.now)
                            | .suspended r => .suspended r } }
                | .on => s.ir
                | .ending _ => { s.ir with blanking := .on } }))
    ∧ (s.start.state ≠ .addressConflict → s.emitter.current ≠ none →
        s.offerEmission e =
          if s.emitter.queue.length < 4 then
            (true, { s with emitter := { s.emitter with queue := s.emitter.queue ++ [e] } })
          else (false, s)))
  ∧ (∀ (x : Current) (c : CodeSet),
      x.intervals c =
        if x.begun ≤ 1 then
          [c.leaderMark, c.leaderSpace]
            ++ ((List.range c.bitCount).flatMap fun i =>
                  [c.bitMark, if x.emission.code.getLsbD i = true then c.oneSpace else c.zeroSpace])
            ++ [c.bitMark]
        else [c.leaderMark, c.holdSpace, c.bitMark])
  ∧ (∀ (s : State) (dt : Moment) (x : Current) (c : CodeSet),
      s.Awake → s.emitter.current = some x → s.ir.codeSet x.emission.set = some c →
      x.frameStart + max (c.framePeriod * ms) ((x.intervals c).sum * us) ≤ s.now + dt.after →
      (x.begun < x.emission.repeats →
        exec (.emissionFrame dt) s =
          .next
            { s.advance dt with
              emitter :=
                { s.emitter with
                  current := some { x with begun := x.begun + 1, frameStart := s.now + dt.after } } })
      ∧ (x.emission.repeats ≤ x.begun → s.emitter.queue = [] →
          exec (.emissionEnd dt) s =
            .next
              { s.advance dt with
                emitter := { s.emitter with current := none }
                ir := { s.ir with blanking := .ending (s.now + dt.after + 10 * ms) } })
      ∧ (∀ e rest, x.emission.repeats ≤ x.begun → s.emitter.queue = e :: rest →
          s.ir.blanking = .on →
          let u : State :=
            { s.advance dt with
              emitter :=
                { current := some { emission := e, begun := 1, frameStart := s.now + dt.after }
                  queue := rest, waiting := s.emitter.waiting } }
          (s.emitter.waiting = [] → exec (.emissionEnd dt) s = .next u)
          ∧ exec (.emissionEnd dt) s = .next u.emitterGrant.settle))
  ∧ (∀ (s : State) (dt : Moment) (x : Current) (c : CodeSet) (e : Emission) (rest : List Emission)
      (rival : Instr),
      EmitterSound s →
      s.start.hold = .none → s.queue.evicted = false → s.owed = [] → s.taken = 0 →
      s.rivals = [rival] → (moment rival).rival = 1 → s.emitter.current = some x → s.ir.codeSet x.emission.set = some c →
      x.frameStart + max (c.framePeriod * ms) ((x.intervals c).sum * us) ≤ s.now + dt.after →
      x.emission.repeats ≤ x.begun → s.emitter.queue = e :: rest → s.ir.blanking = .on →
      s.emitter.waiting ≠ [] →
      let u : State :=
        { s.advance dt with
          rival := 1
          emitter :=
            { current := some { emission := e, begun := 1, frameStart := s.now + dt.after }
              queue := rest, waiting := s.emitter.waiting } }
      let v : State := (effectOf rival (u.advance (moment rival))).settle
      v.start.state = .active → v.owed = [] →
      exec (.emissionEnd dt) s =
        .next { ({ v with rival := 0 } : State).emitterGrant.settle with taken := 1 })
  ∧ ∀ (s : State) (dt : Moment) (t0 : Time),
      s.Awake → s.ir.blanking = .ending t0 → t0 ≤ s.now + dt.after →
      exec (.blankingEnd dt) s =
        .next
          { s.advance dt with
            ir :=
              { s.ir with
                blanking := .off, decoder := .idle, since := none
                held :=
                  s.ir.held.map fun h =>
                    { h with
                      release :=
                        match h.release with
                        | .running t => .running t
                        | .suspended r => .running (s.now + dt.after + r) } } }

/-! ### Outputs and indicators -/

/-- A fade step: within the rate of the target the duty becomes the target and the deadline goes;
otherwise the duty moves by the rate, and the next step is 20 ms away, from the moment the step is taken
where it is taken late (R164; log entry 26). The end of a flash leaves the indicator to its base pattern
(R169). -/
def Obligations.FadesAndFlashes : Prop :=
  (∀ (s : State) (dt : Moment) (i : OutId) (m : OutputMap) (rate : Byte) (t0 : Time),
    s.Awake → (s.outputs.loads[i]).map = some m → m.mode = .dim rate →
    (s.outputs.loads[i]).stepAt = some t0 → t0 ≤ s.now + dt.after →
    let o := (s.advance dt).outputs.loads[i]
    let stepped : LoadOutput :=
      if o.duty.toNat ≤ o.target.toNat + rate.toNat ∧ o.target.toNat ≤ o.duty.toNat + rate.toNat then
        { o with duty := o.target, stepAt := none }
      else if o.duty.toNat < o.target.toNat then
        { o with duty := o.duty + rate, stepAt := some (s.now + dt.after + 20 * ms) }
      else { o with duty := o.duty - rate, stepAt := some (s.now + dt.after + 20 * ms) }
    exec (.stepDeadlineExpiry dt i) s =
      .next
        { s.advance dt with
          outputs :=
            { (s.advance dt).outputs with
              loads := (s.advance dt).outputs.loads.set i stepped } })
  ∧ ∀ (s : State) (dt : Moment) (i : OutId) (t0 : Time),
      s.Awake → (s.indicators.indicators[i]).flash = some t0 → t0 ≤ s.now + dt.after →
      exec (.flashEnd dt i) s =
        .next
          { s.advance dt with
            indicators :=
              { s.indicators with
                indicators :=
                  s.indicators.indicators.set i
                    { s.indicators.indicators[i] with flash := none } } }

/-- What the output pins show. A load output is active for duty / 255 of each pulse period of 1 ms (R162;
where the periods begin is free, and one for all outputs, log entry 8; the duty is the one its period
began with, log entry 29). An indicator shows a fast blink in LOADING and CONFIG_FAULT, in LOADING while
the part is held too (log entry 32), and a double blink in ADDRESS_CONFLICT (R170); elsewhere a running
flash, two pulses in each 400 ms up to 500 ms after the notice and dark to 600 ms (R169), and otherwise
its base pattern, in step with the pattern clock (R167): none dark, STATION on in ACTIVE and blinking
before it, CHANNEL blinking while its value cannot be trusted and otherwise on for its match value, or for
any nonzero value (R168). The carrier is on for the first third of each of its periods within a mark, and
off behind the last mark of a frame (R141). A transmitter drives the line for 37.5 µs from the edge of a 0
and for 12.5 µs from the edge of a 1 and of a slot, and after its last slot not at all; a receiver drives
it only for the slot it has decided on, for 37.5 µs from its edge (R1, R17). One row of the key matrix is
driven at a time, during a scan (R119; log entry 33). -/
def Obligations.PinsShow : Prop :=
  (∀ (s : State) (i : OutId),
    s.loadPin i = true ↔
      (s.now + s.outputs.pulsePhase) % 2000 * 255 < (s.outputs.loads[i]).shown.toNat * 2000)
  ∧ (∀ (s : State) (i : OutId),
      let clock := (s.now - s.indicators.clockStart) % (1000 * ms)
      let slow : Prop := clock < 500 * ms
      let ind := s.indicators.indicators[i]
      let base : Prop :=
        match ind.map with
        | .none => False
        | .station =>
          s.start.state = .active
            ∨ ((s.start.state = .listening ∨ s.start.state = .joining) ∧ slow)
        | .channel c want =>
          let shows (v : Byte) : Prop :=
            match want with
            | some w => v = w
            | none => v ≠ 0
          match s.chan c with
          | .unused => slow
          | .home h => if h.state = .live then shows h.value else slow
          | .mirror m => if m.state = .fresh then shows m.value else slow
      (s.start.state = .loading ∨ s.start.state = .configFault →
        (s.indicatorPin i = true ↔ clock % (250 * ms) < 125 * ms))
      ∧ (s.start.state = .addressConflict →
          (s.indicatorPin i = true ↔ clock < 300 * ms ∧ clock % (200 * ms) < 100 * ms))
      ∧ (s.start.state ∈ [.listening, .joining, .active] →
          (∀ e, ind.flash = some e → s.now < e →
            let t := 600 * ms - (e - s.now)
            (s.indicatorPin i = true ↔ t < 500 * ms ∧ t % (200 * ms) < 100 * ms))
          ∧ ((∀ e, ind.flash = some e → e ≤ s.now) → (s.indicatorPin i = true ↔ base))))
  ∧ (∀ (s : State),
      (s.emitter.current = none → s.carrierPin = false)
      ∧ ∀ (x : Current) (c : CodeSet), s.emitter.current = some x →
          s.ir.codeSet x.emission.set = some c →
          let l := x.intervals c
          let start (j : Nat) : Time := x.frameStart + (l.take j).sum * us
          (∀ k, k < l.length → start k ≤ s.now → s.now < start (k + 1) →
            (s.carrierPin = true ↔
              k % 2 = 0 ∧ 3 * ((s.now - start k) * c.carrier % ms) < ms))
          ∧ (x.frameStart + l.sum * us ≤ s.now → s.carrierPin = false))
  ∧ (∀ (s : State),
      (s.line.attempt = none → s.line.answer = none → s.lineDriven = false)
      ∧ (∀ a, s.line.attempt = some a → s.line.answer = none → a.start ≤ s.now →
          let bit := (s.now - a.start) / 100
          (s.lineDriven = true ↔
            bit < 43 + 8 * a.frame.body.length
              ∧ (s.now - a.start) % 100
                < if (a.frame.bits ++ [true, true, true]).getD bit true = true then 25 else 75))
      ∧ ∀ a, s.line.attempt = none → s.line.answer = some a → s.line.wire.edge ≤ s.now →
          (s.lineDriven = true ↔
            a.seen =
                (match a.slot with
                | .taken => 1
                | .declined => 2
                | .garbled => 3)
              ∧ s.now < s.line.wire.edge + 75))
  ∧ (∀ (reading : Fin 8) (row : Fin 8), rowPin (some reading) row = decide (row = reading))
  ∧ ∀ row : Fin 8, rowPin none row = false

/-! ### Invariants -/

/-- R20, R5: the Transmit Queue and the Line Unit stay sound together; in a state that answers no frame
(R6, R106) no slot stands decided and no attempt is made. -/
def Obligations.QueueAndLineStaySound : Prop :=
  ∀ s t : State, QueueSound s → LineSound s → step s = .next t → QueueSound t ∧ LineSound t

/-- R47: the fetch-outstanding flag is set exactly while a FETCH to the peer is queued. -/
def Obligations.FetchFlagsStaySound : Prop :=
  ∀ s t : State, QueueSound s → LineSound s → FetchSound s → step s = .next t → FetchSound t

/-- R52: every channel value stays within its kind's range. R54: a HOME record is LIVE if and only if the
station is ACTIVE. -/
def Obligations.RecordsStaySound : Prop :=
  ∀ s t : State, step s = .next t →
    (ValuesInRange s → ValuesInRange t) ∧ (HomesFollowStation s → HomesFollowStation t)

/-- R55: a MIRROR record is FRESH only while its owner's record is PRESENT. R15, R42: the period that a peer
record holds is absent or 5 to 40, so that no silence deadline is due at the moment of the evidence that
sets it (R43). -/
def Obligations.FreshStaysPresent : Prop :=
  ∀ s t : State, PeriodsSound s → step s = .next t →
    PeriodsSound t ∧ (FreshIsPresent s → FreshIsPresent t)

/-- R80, R155: the Request Table, the waiting orders and the call stacks stay within their bounds, no two
requests have one tag, and nothing is owed from one command to the next (log entry 37). R154, R156: no run
is left in the midst of its steps. R80: every request names a MIRROR channel together with that channel's
owner. -/
def Obligations.RequestsStaySound : Prop :=
  ∀ s t : State, step s = .next t →
    (RequestsNameMirrors s → RequestsNameMirrors t)
    ∧ (RequestsSound s →
        RequestsSound t ∧ (MacrosBounded s → RunsAtRest s → MacrosBounded t ∧ RunsAtRest t))

/-- R155: every tag in a run's outstanding list is present in the Request Table, as the request that the run
issued; no tag stands there twice, so none beyond the 8 of Table 9-3. -/
def Obligations.RunsHoldTheirRequests : Prop :=
  ∀ s t : State, RequestsSound s → OutstandingPresent s → step s = .next t → OutstandingPresent t

/-- Each kept sound by every step on its own: silence deadlines (R43, R44), the own incarnation (R98,
R114), the emitter with the blanking of the receiver and its held code (R140, R142), the pressed-key list
with the LISTED keys (R121, R122), and the load outputs (R162, R164). -/
def Obligations.BlocksStaySound : Prop :=
  ∀ s t : State, step s = .next t →
    (SilenceSound s → SilenceSound t)
    ∧ (IncarnationSound s → IncarnationSound t)
    ∧ (EmitterSound s → EmitterSound t)
    ∧ (KeysSound s → KeysSound t)
    ∧ (OutputsSound s → OutputsSound t)

/-- Every invariant holds right after reset. -/
def Obligations.InvariantsHoldAtReset : Prop :=
  QueueSound State.reset ∧ LineSound State.reset ∧ FetchSound State.reset
    ∧ ValuesInRange State.reset ∧ HomesFollowStation State.reset
    ∧ PeriodsSound State.reset ∧ FreshIsPresent State.reset
    ∧ RequestsSound State.reset ∧ OutstandingPresent State.reset
    ∧ MacrosBounded State.reset ∧ RunsAtRest State.reset
    ∧ RequestsNameMirrors State.reset ∧ SilenceSound State.reset ∧ IncarnationSound State.reset
    ∧ KeysSound State.reset ∧ EmitterSound State.reset ∧ OutputsSound State.reset
end

