-- ==== Sys2Proof/Laws/Lists.lean ====
section
/-! SUPPORT. The small lemmas of the helpers over lists and vectors. -/

namespace Sys2Proof.Machine

@[simp] theorem getElem_mapV {α β : Type} {n : Nat} (f : α → β) (v : Vector α n) (i : Nat)
    (h : i < n) : (mapV f v)[i] = f v[i] := by
  simp [mapV, ← Array.getElem_toList]

@[simp] theorem getElem_tabV {α : Type} {n : Nat} (f : Fin n → α) (i : Nat) (h : i < n) :
    (tabV f)[i] = f ⟨i, h⟩ := by
  simp [tabV]

theorem mem_indicesV {α : Type} {n : Nat} (p : α → Bool) (v : Vector α n) (i : Fin n) :
    i ∈ indicesV p v ↔ p v[i] = true := by
  simp [indicesV]

@[simp] theorem length_modifyAt {α : Type} (f : α → α) (i : Nat) (l : List α) :
    (modifyAt f i l).length = l.length := by
  induction l generalizing i with
  | nil => cases i <;> rfl
  | cons a l ih => cases i <;> simp [modifyAt, ih]

theorem getElem?_modifyAt {α : Type} (f : α → α) (i j : Nat) (l : List α) :
    (modifyAt f i l)[j]? = if j = i then l[j]?.map f else l[j]? := by
  induction l generalizing i j with
  | nil => cases i <;> simp [modifyAt]
  | cons a l ih =>
    cases i <;> cases j <;> simp [modifyAt, ih]

@[simp] theorem length_modifyFirst {α : Type} (p : α → Bool) (f : α → α) (l : List α) :
    (modifyFirst p f l).length = l.length := by
  induction l with
  | nil => rfl
  | cons a l ih => by_cases h : p a <;> simp [modifyFirst, h, ih]

theorem modifyFirst_of_none {α : Type} {p : α → Bool} (f : α → α) {l : List α}
    (h : ∀ a ∈ l, p a = false) : modifyFirst p f l = l := by
  induction l with
  | nil => rfl
  | cons a l ih =>
    simp only [List.mem_cons, forall_eq_or_imp] at h
    simp [modifyFirst, h.1, ih h.2]

@[simp] theorem length_modifyLast {α : Type} (p : α → Bool) (f : α → α) (l : List α) :
    (modifyLast p f l).length = l.length := by
  induction l with
  | nil => rfl
  | cons a l ih => by_cases h : (!l.any p && p a) = true <;> simp [modifyLast, h, ih]

/-- A removal takes one element with the property, from behind which no other has it. -/
theorem removeLast_eq_some {α : Type} {p : α → Bool} {l l' : List α} (h : removeLast p l = some l') :
    ∃ pre a post, l = pre ++ a :: post ∧ l' = pre ++ post ∧ p a = true ∧ ∀ b ∈ post, p b = false := by
  induction l generalizing l' with
  | nil => simp [removeLast] at h
  | cons a l ih =>
    cases hr : removeLast p l with
    | some m =>
      simp only [removeLast, hr, Option.some.injEq] at h
      obtain ⟨pre, b, post, h1, h2, h3, h4⟩ := ih hr
      exact ⟨a :: pre, b, post, by simp [h1], by simp [← h, h2], h3, h4⟩
    | none =>
      simp only [removeLast, hr] at h
      by_cases hp : p a
      · simp only [hp, if_true, Option.some.injEq] at h
        have none_in : ∀ m : List α, removeLast p m = none → ∀ b ∈ m, p b = false := by
          intro m
          induction m with
          | nil => simp
          | cons c m ihm =>
            intro hm
            cases hc : removeLast p m with
            | some x => simp [removeLast, hc] at hm
            | none =>
              by_cases hpc : p c
              · simp [removeLast, hc, hpc] at hm
              · simpa [hpc] using ihm hc
        exact ⟨[], a, l, rfl, by simp [h], hp, none_in l hr⟩
      · simp [hp] at h

theorem length_removeLast {α : Type} {p : α → Bool} {l l' : List α} (h : removeLast p l = some l') :
    l'.length + 1 = l.length := by
  obtain ⟨pre, a, post, h1, h2, _, _⟩ := removeLast_eq_some h
  simp [h1, h2]
  omega

end Sys2Proof.Machine
end

