-- ==== Sys2Proof/Laws/State.lean ====
section
/-! SUPPORT. For each named update of the state, what every field is after it: the fields it leaves, one
lemma each, true by rfl; and reading a record after writing one. -/

namespace Sys2Proof.Machine

/-! `State.advance` -/

@[simp] theorem State.advance_draws (s : State) (dt : Moment) : (s.advance dt).draws = s.draws := rfl
@[simp] theorem State.advance_rival (s : State) (dt : Moment) : (s.advance dt).rival = s.rival := rfl
@[simp] theorem State.advance_owed (s : State) (dt : Moment) : (s.advance dt).owed = s.owed := rfl
@[simp] theorem State.advance_taken (s : State) (dt : Moment) : (s.advance dt).taken = s.taken := rfl
@[simp] theorem State.advance_pending (s : State) (dt : Moment) : (s.advance dt).pending = s.pending := rfl
@[simp] theorem State.advance_queue (s : State) (dt : Moment) : (s.advance dt).queue = s.queue := rfl
@[simp] theorem State.advance_peers (s : State) (dt : Moment) : (s.advance dt).peers = s.peers := rfl
@[simp] theorem State.advance_channels (s : State) (dt : Moment) : (s.advance dt).channels = s.channels := rfl
@[simp] theorem State.advance_requests (s : State) (dt : Moment) : (s.advance dt).requests = s.requests := rfl
@[simp] theorem State.advance_start (s : State) (dt : Moment) : (s.advance dt).start = s.start := rfl
@[simp] theorem State.advance_scanner (s : State) (dt : Moment) : (s.advance dt).scanner = s.scanner := rfl
@[simp] theorem State.advance_gestures (s : State) (dt : Moment) : (s.advance dt).gestures = s.gestures := rfl
@[simp] theorem State.advance_ir (s : State) (dt : Moment) : (s.advance dt).ir = s.ir := rfl
@[simp] theorem State.advance_emitter (s : State) (dt : Moment) : (s.advance dt).emitter = s.emitter := rfl
@[simp] theorem State.advance_bindings (s : State) (dt : Moment) : (s.advance dt).bindings = s.bindings := rfl
@[simp] theorem State.advance_macros (s : State) (dt : Moment) : (s.advance dt).macros = s.macros := rfl
@[simp] theorem State.advance_indicators (s : State) (dt : Moment) : (s.advance dt).indicators = s.indicators := rfl
@[simp] theorem State.advance_service (s : State) (dt : Moment) : (s.advance dt).service = s.service := rfl

/-! `State.bump` -/

@[simp] theorem State.bump_now (s : State) (c : Counter) : (s.bump c).now = s.now := rfl
@[simp] theorem State.bump_draws (s : State) (c : Counter) : (s.bump c).draws = s.draws := rfl
@[simp] theorem State.bump_rival (s : State) (c : Counter) : (s.bump c).rival = s.rival := rfl
@[simp] theorem State.bump_owed (s : State) (c : Counter) : (s.bump c).owed = s.owed := rfl
@[simp] theorem State.bump_taken (s : State) (c : Counter) : (s.bump c).taken = s.taken := rfl
@[simp] theorem State.bump_pending (s : State) (c : Counter) : (s.bump c).pending = s.pending := rfl
@[simp] theorem State.bump_line (s : State) (c : Counter) : (s.bump c).line = s.line := rfl
@[simp] theorem State.bump_queue (s : State) (c : Counter) : (s.bump c).queue = s.queue := rfl
@[simp] theorem State.bump_peers (s : State) (c : Counter) : (s.bump c).peers = s.peers := rfl
@[simp] theorem State.bump_channels (s : State) (c : Counter) : (s.bump c).channels = s.channels := rfl
@[simp] theorem State.bump_requests (s : State) (c : Counter) : (s.bump c).requests = s.requests := rfl
@[simp] theorem State.bump_start (s : State) (c : Counter) : (s.bump c).start = s.start := rfl
@[simp] theorem State.bump_scanner (s : State) (c : Counter) : (s.bump c).scanner = s.scanner := rfl
@[simp] theorem State.bump_gestures (s : State) (c : Counter) : (s.bump c).gestures = s.gestures := rfl
@[simp] theorem State.bump_ir (s : State) (c : Counter) : (s.bump c).ir = s.ir := rfl
@[simp] theorem State.bump_emitter (s : State) (c : Counter) : (s.bump c).emitter = s.emitter := rfl
@[simp] theorem State.bump_bindings (s : State) (c : Counter) : (s.bump c).bindings = s.bindings := rfl
@[simp] theorem State.bump_macros (s : State) (c : Counter) : (s.bump c).macros = s.macros := rfl
@[simp] theorem State.bump_outputs (s : State) (c : Counter) : (s.bump c).outputs = s.outputs := rfl
@[simp] theorem State.bump_indicators (s : State) (c : Counter) : (s.bump c).indicators = s.indicators := rfl

/-! `State.setPeer` -/

@[simp] theorem State.setPeer_now (s : State) (a : Addr) (r : PeerRec) : (s.setPeer a r).now = s.now := rfl
@[simp] theorem State.setPeer_draws (s : State) (a : Addr) (r : PeerRec) : (s.setPeer a r).draws = s.draws := rfl
@[simp] theorem State.setPeer_rival (s : State) (a : Addr) (r : PeerRec) : (s.setPeer a r).rival = s.rival := rfl
@[simp] theorem State.setPeer_owed (s : State) (a : Addr) (r : PeerRec) : (s.setPeer a r).owed = s.owed := rfl
@[simp] theorem State.setPeer_taken (s : State) (a : Addr) (r : PeerRec) : (s.setPeer a r).taken = s.taken := rfl
@[simp] theorem State.setPeer_pending (s : State) (a : Addr) (r : PeerRec) : (s.setPeer a r).pending = s.pending := rfl
@[simp] theorem State.setPeer_line (s : State) (a : Addr) (r : PeerRec) : (s.setPeer a r).line = s.line := rfl
@[simp] theorem State.setPeer_queue (s : State) (a : Addr) (r : PeerRec) : (s.setPeer a r).queue = s.queue := rfl
@[simp] theorem State.setPeer_channels (s : State) (a : Addr) (r : PeerRec) : (s.setPeer a r).channels = s.channels := rfl
@[simp] theorem State.setPeer_requests (s : State) (a : Addr) (r : PeerRec) : (s.setPeer a r).requests = s.requests := rfl
@[simp] theorem State.setPeer_start (s : State) (a : Addr) (r : PeerRec) : (s.setPeer a r).start = s.start := rfl
@[simp] theorem State.setPeer_scanner (s : State) (a : Addr) (r : PeerRec) : (s.setPeer a r).scanner = s.scanner := rfl
@[simp] theorem State.setPeer_gestures (s : State) (a : Addr) (r : PeerRec) : (s.setPeer a r).gestures = s.gestures := rfl
@[simp] theorem State.setPeer_ir (s : State) (a : Addr) (r : PeerRec) : (s.setPeer a r).ir = s.ir := rfl
@[simp] theorem State.setPeer_emitter (s : State) (a : Addr) (r : PeerRec) : (s.setPeer a r).emitter = s.emitter := rfl
@[simp] theorem State.setPeer_bindings (s : State) (a : Addr) (r : PeerRec) : (s.setPeer a r).bindings = s.bindings := rfl
@[simp] theorem State.setPeer_macros (s : State) (a : Addr) (r : PeerRec) : (s.setPeer a r).macros = s.macros := rfl
@[simp] theorem State.setPeer_outputs (s : State) (a : Addr) (r : PeerRec) : (s.setPeer a r).outputs = s.outputs := rfl
@[simp] theorem State.setPeer_indicators (s : State) (a : Addr) (r : PeerRec) : (s.setPeer a r).indicators = s.indicators := rfl
@[simp] theorem State.setPeer_service (s : State) (a : Addr) (r : PeerRec) : (s.setPeer a r).service = s.service := rfl

/-! `State.mapPeers` -/

@[simp] theorem State.mapPeers_now (s : State) (f : PeerRec → PeerRec) : (s.mapPeers f).now = s.now := rfl
@[simp] theorem State.mapPeers_draws (s : State) (f : PeerRec → PeerRec) : (s.mapPeers f).draws = s.draws := rfl
@[simp] theorem State.mapPeers_rival (s : State) (f : PeerRec → PeerRec) : (s.mapPeers f).rival = s.rival := rfl
@[simp] theorem State.mapPeers_owed (s : State) (f : PeerRec → PeerRec) : (s.mapPeers f).owed = s.owed := rfl
@[simp] theorem State.mapPeers_taken (s : State) (f : PeerRec → PeerRec) : (s.mapPeers f).taken = s.taken := rfl
@[simp] theorem State.mapPeers_pending (s : State) (f : PeerRec → PeerRec) : (s.mapPeers f).pending = s.pending := rfl
@[simp] theorem State.mapPeers_line (s : State) (f : PeerRec → PeerRec) : (s.mapPeers f).line = s.line := rfl
@[simp] theorem State.mapPeers_queue (s : State) (f : PeerRec → PeerRec) : (s.mapPeers f).queue = s.queue := rfl
@[simp] theorem State.mapPeers_channels (s : State) (f : PeerRec → PeerRec) : (s.mapPeers f).channels = s.channels := rfl
@[simp] theorem State.mapPeers_requests (s : State) (f : PeerRec → PeerRec) : (s.mapPeers f).requests = s.requests := rfl
@[simp] theorem State.mapPeers_start (s : State) (f : PeerRec → PeerRec) : (s.mapPeers f).start = s.start := rfl
@[simp] theorem State.mapPeers_scanner (s : State) (f : PeerRec → PeerRec) : (s.mapPeers f).scanner = s.scanner := rfl
@[simp] theorem State.mapPeers_gestures (s : State) (f : PeerRec → PeerRec) : (s.mapPeers f).gestures = s.gestures := rfl
@[simp] theorem State.mapPeers_ir (s : State) (f : PeerRec → PeerRec) : (s.mapPeers f).ir = s.ir := rfl
@[simp] theorem State.mapPeers_emitter (s : State) (f : PeerRec → PeerRec) : (s.mapPeers f).emitter = s.emitter := rfl
@[simp] theorem State.mapPeers_bindings (s : State) (f : PeerRec → PeerRec) : (s.mapPeers f).bindings = s.bindings := rfl
@[simp] theorem State.mapPeers_macros (s : State) (f : PeerRec → PeerRec) : (s.mapPeers f).macros = s.macros := rfl
@[simp] theorem State.mapPeers_outputs (s : State) (f : PeerRec → PeerRec) : (s.mapPeers f).outputs = s.outputs := rfl
@[simp] theorem State.mapPeers_indicators (s : State) (f : PeerRec → PeerRec) : (s.mapPeers f).indicators = s.indicators := rfl
@[simp] theorem State.mapPeers_service (s : State) (f : PeerRec → PeerRec) : (s.mapPeers f).service = s.service := rfl

/-! `State.setChan` -/

@[simp] theorem State.setChan_now (s : State) (c : Chan) (r : Record) : (s.setChan c r).now = s.now := rfl
@[simp] theorem State.setChan_draws (s : State) (c : Chan) (r : Record) : (s.setChan c r).draws = s.draws := rfl
@[simp] theorem State.setChan_rival (s : State) (c : Chan) (r : Record) : (s.setChan c r).rival = s.rival := rfl
@[simp] theorem State.setChan_owed (s : State) (c : Chan) (r : Record) : (s.setChan c r).owed = s.owed := rfl
@[simp] theorem State.setChan_taken (s : State) (c : Chan) (r : Record) : (s.setChan c r).taken = s.taken := rfl
@[simp] theorem State.setChan_pending (s : State) (c : Chan) (r : Record) : (s.setChan c r).pending = s.pending := rfl
@[simp] theorem State.setChan_line (s : State) (c : Chan) (r : Record) : (s.setChan c r).line = s.line := rfl
@[simp] theorem State.setChan_queue (s : State) (c : Chan) (r : Record) : (s.setChan c r).queue = s.queue := rfl
@[simp] theorem State.setChan_peers (s : State) (c : Chan) (r : Record) : (s.setChan c r).peers = s.peers := rfl
@[simp] theorem State.setChan_requests (s : State) (c : Chan) (r : Record) : (s.setChan c r).requests = s.requests := rfl
@[simp] theorem State.setChan_start (s : State) (c : Chan) (r : Record) : (s.setChan c r).start = s.start := rfl
@[simp] theorem State.setChan_scanner (s : State) (c : Chan) (r : Record) : (s.setChan c r).scanner = s.scanner := rfl
@[simp] theorem State.setChan_gestures (s : State) (c : Chan) (r : Record) : (s.setChan c r).gestures = s.gestures := rfl
@[simp] theorem State.setChan_ir (s : State) (c : Chan) (r : Record) : (s.setChan c r).ir = s.ir := rfl
@[simp] theorem State.setChan_emitter (s : State) (c : Chan) (r : Record) : (s.setChan c r).emitter = s.emitter := rfl
@[simp] theorem State.setChan_bindings (s : State) (c : Chan) (r : Record) : (s.setChan c r).bindings = s.bindings := rfl
@[simp] theorem State.setChan_macros (s : State) (c : Chan) (r : Record) : (s.setChan c r).macros = s.macros := rfl
@[simp] theorem State.setChan_outputs (s : State) (c : Chan) (r : Record) : (s.setChan c r).outputs = s.outputs := rfl
@[simp] theorem State.setChan_indicators (s : State) (c : Chan) (r : Record) : (s.setChan c r).indicators = s.indicators := rfl
@[simp] theorem State.setChan_service (s : State) (c : Chan) (r : Record) : (s.setChan c r).service = s.service := rfl

/-! `State.mapChans` -/

@[simp] theorem State.mapChans_now (s : State) (f : Record → Record) : (s.mapChans f).now = s.now := rfl
@[simp] theorem State.mapChans_draws (s : State) (f : Record → Record) : (s.mapChans f).draws = s.draws := rfl
@[simp] theorem State.mapChans_rival (s : State) (f : Record → Record) : (s.mapChans f).rival = s.rival := rfl
@[simp] theorem State.mapChans_owed (s : State) (f : Record → Record) : (s.mapChans f).owed = s.owed := rfl
@[simp] theorem State.mapChans_taken (s : State) (f : Record → Record) : (s.mapChans f).taken = s.taken := rfl
@[simp] theorem State.mapChans_pending (s : State) (f : Record → Record) : (s.mapChans f).pending = s.pending := rfl
@[simp] theorem State.mapChans_line (s : State) (f : Record → Record) : (s.mapChans f).line = s.line := rfl
@[simp] theorem State.mapChans_queue (s : State) (f : Record → Record) : (s.mapChans f).queue = s.queue := rfl
@[simp] theorem State.mapChans_peers (s : State) (f : Record → Record) : (s.mapChans f).peers = s.peers := rfl
@[simp] theorem State.mapChans_requests (s : State) (f : Record → Record) : (s.mapChans f).requests = s.requests := rfl
@[simp] theorem State.mapChans_start (s : State) (f : Record → Record) : (s.mapChans f).start = s.start := rfl
@[simp] theorem State.mapChans_scanner (s : State) (f : Record → Record) : (s.mapChans f).scanner = s.scanner := rfl
@[simp] theorem State.mapChans_gestures (s : State) (f : Record → Record) : (s.mapChans f).gestures = s.gestures := rfl
@[simp] theorem State.mapChans_ir (s : State) (f : Record → Record) : (s.mapChans f).ir = s.ir := rfl
@[simp] theorem State.mapChans_emitter (s : State) (f : Record → Record) : (s.mapChans f).emitter = s.emitter := rfl
@[simp] theorem State.mapChans_bindings (s : State) (f : Record → Record) : (s.mapChans f).bindings = s.bindings := rfl
@[simp] theorem State.mapChans_macros (s : State) (f : Record → Record) : (s.mapChans f).macros = s.macros := rfl
@[simp] theorem State.mapChans_outputs (s : State) (f : Record → Record) : (s.mapChans f).outputs = s.outputs := rfl
@[simp] theorem State.mapChans_indicators (s : State) (f : Record → Record) : (s.mapChans f).indicators = s.indicators := rfl
@[simp] theorem State.mapChans_service (s : State) (f : Record → Record) : (s.mapChans f).service = s.service := rfl

/-! `State.resetCursor` -/

@[simp] theorem State.resetCursor_now (s : State) : (s.resetCursor).now = s.now := rfl
@[simp] theorem State.resetCursor_draws (s : State) : (s.resetCursor).draws = s.draws := rfl
@[simp] theorem State.resetCursor_rival (s : State) : (s.resetCursor).rival = s.rival := rfl
@[simp] theorem State.resetCursor_owed (s : State) : (s.resetCursor).owed = s.owed := rfl
@[simp] theorem State.resetCursor_taken (s : State) : (s.resetCursor).taken = s.taken := rfl
@[simp] theorem State.resetCursor_pending (s : State) : (s.resetCursor).pending = s.pending := rfl
@[simp] theorem State.resetCursor_line (s : State) : (s.resetCursor).line = s.line := rfl
@[simp] theorem State.resetCursor_queue (s : State) : (s.resetCursor).queue = s.queue := rfl
@[simp] theorem State.resetCursor_peers (s : State) : (s.resetCursor).peers = s.peers := rfl
@[simp] theorem State.resetCursor_requests (s : State) : (s.resetCursor).requests = s.requests := rfl
@[simp] theorem State.resetCursor_start (s : State) : (s.resetCursor).start = s.start := rfl
@[simp] theorem State.resetCursor_scanner (s : State) : (s.resetCursor).scanner = s.scanner := rfl
@[simp] theorem State.resetCursor_gestures (s : State) : (s.resetCursor).gestures = s.gestures := rfl
@[simp] theorem State.resetCursor_ir (s : State) : (s.resetCursor).ir = s.ir := rfl
@[simp] theorem State.resetCursor_emitter (s : State) : (s.resetCursor).emitter = s.emitter := rfl
@[simp] theorem State.resetCursor_bindings (s : State) : (s.resetCursor).bindings = s.bindings := rfl
@[simp] theorem State.resetCursor_macros (s : State) : (s.resetCursor).macros = s.macros := rfl
@[simp] theorem State.resetCursor_outputs (s : State) : (s.resetCursor).outputs = s.outputs := rfl
@[simp] theorem State.resetCursor_indicators (s : State) : (s.resetCursor).indicators = s.indicators := rfl
@[simp] theorem State.resetCursor_service (s : State) : (s.resetCursor).service = s.service := rfl

/-! `State.setSlot` -/

@[simp] theorem State.setSlot_now (s : State) (i : SlotId) (r : RunSlot) : (s.setSlot i r).now = s.now := rfl
@[simp] theorem State.setSlot_draws (s : State) (i : SlotId) (r : RunSlot) : (s.setSlot i r).draws = s.draws := rfl
@[simp] theorem State.setSlot_rival (s : State) (i : SlotId) (r : RunSlot) : (s.setSlot i r).rival = s.rival := rfl
@[simp] theorem State.setSlot_owed (s : State) (i : SlotId) (r : RunSlot) : (s.setSlot i r).owed = s.owed := rfl
@[simp] theorem State.setSlot_taken (s : State) (i : SlotId) (r : RunSlot) : (s.setSlot i r).taken = s.taken := rfl
@[simp] theorem State.setSlot_pending (s : State) (i : SlotId) (r : RunSlot) : (s.setSlot i r).pending = s.pending := rfl
@[simp] theorem State.setSlot_line (s : State) (i : SlotId) (r : RunSlot) : (s.setSlot i r).line = s.line := rfl
@[simp] theorem State.setSlot_queue (s : State) (i : SlotId) (r : RunSlot) : (s.setSlot i r).queue = s.queue := rfl
@[simp] theorem State.setSlot_peers (s : State) (i : SlotId) (r : RunSlot) : (s.setSlot i r).peers = s.peers := rfl
@[simp] theorem State.setSlot_channels (s : State) (i : SlotId) (r : RunSlot) : (s.setSlot i r).channels = s.channels := rfl
@[simp] theorem State.setSlot_requests (s : State) (i : SlotId) (r : RunSlot) : (s.setSlot i r).requests = s.requests := rfl
@[simp] theorem State.setSlot_start (s : State) (i : SlotId) (r : RunSlot) : (s.setSlot i r).start = s.start := rfl
@[simp] theorem State.setSlot_scanner (s : State) (i : SlotId) (r : RunSlot) : (s.setSlot i r).scanner = s.scanner := rfl
@[simp] theorem State.setSlot_gestures (s : State) (i : SlotId) (r : RunSlot) : (s.setSlot i r).gestures = s.gestures := rfl
@[simp] theorem State.setSlot_ir (s : State) (i : SlotId) (r : RunSlot) : (s.setSlot i r).ir = s.ir := rfl
@[simp] theorem State.setSlot_emitter (s : State) (i : SlotId) (r : RunSlot) : (s.setSlot i r).emitter = s.emitter := rfl
@[simp] theorem State.setSlot_bindings (s : State) (i : SlotId) (r : RunSlot) : (s.setSlot i r).bindings = s.bindings := rfl
@[simp] theorem State.setSlot_outputs (s : State) (i : SlotId) (r : RunSlot) : (s.setSlot i r).outputs = s.outputs := rfl
@[simp] theorem State.setSlot_indicators (s : State) (i : SlotId) (r : RunSlot) : (s.setSlot i r).indicators = s.indicators := rfl
@[simp] theorem State.setSlot_service (s : State) (i : SlotId) (r : RunSlot) : (s.setSlot i r).service = s.service := rfl

/-! `State.setKey` -/

@[simp] theorem State.setKey_now (s : State) (k : Key) (st : KeyState) : (s.setKey k st).now = s.now := rfl
@[simp] theorem State.setKey_draws (s : State) (k : Key) (st : KeyState) : (s.setKey k st).draws = s.draws := rfl
@[simp] theorem State.setKey_rival (s : State) (k : Key) (st : KeyState) : (s.setKey k st).rival = s.rival := rfl
@[simp] theorem State.setKey_owed (s : State) (k : Key) (st : KeyState) : (s.setKey k st).owed = s.owed := rfl
@[simp] theorem State.setKey_taken (s : State) (k : Key) (st : KeyState) : (s.setKey k st).taken = s.taken := rfl
@[simp] theorem State.setKey_pending (s : State) (k : Key) (st : KeyState) : (s.setKey k st).pending = s.pending := rfl
@[simp] theorem State.setKey_line (s : State) (k : Key) (st : KeyState) : (s.setKey k st).line = s.line := rfl
@[simp] theorem State.setKey_queue (s : State) (k : Key) (st : KeyState) : (s.setKey k st).queue = s.queue := rfl
@[simp] theorem State.setKey_peers (s : State) (k : Key) (st : KeyState) : (s.setKey k st).peers = s.peers := rfl
@[simp] theorem State.setKey_channels (s : State) (k : Key) (st : KeyState) : (s.setKey k st).channels = s.channels := rfl
@[simp] theorem State.setKey_requests (s : State) (k : Key) (st : KeyState) : (s.setKey k st).requests = s.requests := rfl
@[simp] theorem State.setKey_start (s : State) (k : Key) (st : KeyState) : (s.setKey k st).start = s.start := rfl
@[simp] theorem State.setKey_gestures (s : State) (k : Key) (st : KeyState) : (s.setKey k st).gestures = s.gestures := rfl
@[simp] theorem State.setKey_ir (s : State) (k : Key) (st : KeyState) : (s.setKey k st).ir = s.ir := rfl
@[simp] theorem State.setKey_emitter (s : State) (k : Key) (st : KeyState) : (s.setKey k st).emitter = s.emitter := rfl
@[simp] theorem State.setKey_bindings (s : State) (k : Key) (st : KeyState) : (s.setKey k st).bindings = s.bindings := rfl
@[simp] theorem State.setKey_macros (s : State) (k : Key) (st : KeyState) : (s.setKey k st).macros = s.macros := rfl
@[simp] theorem State.setKey_outputs (s : State) (k : Key) (st : KeyState) : (s.setKey k st).outputs = s.outputs := rfl
@[simp] theorem State.setKey_indicators (s : State) (k : Key) (st : KeyState) : (s.setKey k st).indicators = s.indicators := rfl
@[simp] theorem State.setKey_service (s : State) (k : Key) (st : KeyState) : (s.setKey k st).service = s.service := rfl

/-! `State.setPressed` -/

@[simp] theorem State.setPressed_now (s : State) (ps : List Pressed) : (s.setPressed ps).now = s.now := rfl
@[simp] theorem State.setPressed_draws (s : State) (ps : List Pressed) : (s.setPressed ps).draws = s.draws := rfl
@[simp] theorem State.setPressed_rival (s : State) (ps : List Pressed) : (s.setPressed ps).rival = s.rival := rfl
@[simp] theorem State.setPressed_owed (s : State) (ps : List Pressed) : (s.setPressed ps).owed = s.owed := rfl
@[simp] theorem State.setPressed_taken (s : State) (ps : List Pressed) : (s.setPressed ps).taken = s.taken := rfl
@[simp] theorem State.setPressed_pending (s : State) (ps : List Pressed) : (s.setPressed ps).pending = s.pending := rfl
@[simp] theorem State.setPressed_line (s : State) (ps : List Pressed) : (s.setPressed ps).line = s.line := rfl
@[simp] theorem State.setPressed_queue (s : State) (ps : List Pressed) : (s.setPressed ps).queue = s.queue := rfl
@[simp] theorem State.setPressed_peers (s : State) (ps : List Pressed) : (s.setPressed ps).peers = s.peers := rfl
@[simp] theorem State.setPressed_channels (s : State) (ps : List Pressed) : (s.setPressed ps).channels = s.channels := rfl
@[simp] theorem State.setPressed_requests (s : State) (ps : List Pressed) : (s.setPressed ps).requests = s.requests := rfl
@[simp] theorem State.setPressed_start (s : State) (ps : List Pressed) : (s.setPressed ps).start = s.start := rfl
@[simp] theorem State.setPressed_gestures (s : State) (ps : List Pressed) : (s.setPressed ps).gestures = s.gestures := rfl
@[simp] theorem State.setPressed_ir (s : State) (ps : List Pressed) : (s.setPressed ps).ir = s.ir := rfl
@[simp] theorem State.setPressed_emitter (s : State) (ps : List Pressed) : (s.setPressed ps).emitter = s.emitter := rfl
@[simp] theorem State.setPressed_bindings (s : State) (ps : List Pressed) : (s.setPressed ps).bindings = s.bindings := rfl
@[simp] theorem State.setPressed_macros (s : State) (ps : List Pressed) : (s.setPressed ps).macros = s.macros := rfl
@[simp] theorem State.setPressed_outputs (s : State) (ps : List Pressed) : (s.setPressed ps).outputs = s.outputs := rfl
@[simp] theorem State.setPressed_indicators (s : State) (ps : List Pressed) : (s.setPressed ps).indicators = s.indicators := rfl
@[simp] theorem State.setPressed_service (s : State) (ps : List Pressed) : (s.setPressed ps).service = s.service := rfl

/-! `State.setTrackers` -/

@[simp] theorem State.setTrackers_now (s : State) (ts : List Tracker) : (s.setTrackers ts).now = s.now := rfl
@[simp] theorem State.setTrackers_draws (s : State) (ts : List Tracker) : (s.setTrackers ts).draws = s.draws := rfl
@[simp] theorem State.setTrackers_rival (s : State) (ts : List Tracker) : (s.setTrackers ts).rival = s.rival := rfl
@[simp] theorem State.setTrackers_owed (s : State) (ts : List Tracker) : (s.setTrackers ts).owed = s.owed := rfl
@[simp] theorem State.setTrackers_taken (s : State) (ts : List Tracker) : (s.setTrackers ts).taken = s.taken := rfl
@[simp] theorem State.setTrackers_pending (s : State) (ts : List Tracker) : (s.setTrackers ts).pending = s.pending := rfl
@[simp] theorem State.setTrackers_line (s : State) (ts : List Tracker) : (s.setTrackers ts).line = s.line := rfl
@[simp] theorem State.setTrackers_queue (s : State) (ts : List Tracker) : (s.setTrackers ts).queue = s.queue := rfl
@[simp] theorem State.setTrackers_peers (s : State) (ts : List Tracker) : (s.setTrackers ts).peers = s.peers := rfl
@[simp] theorem State.setTrackers_channels (s : State) (ts : List Tracker) : (s.setTrackers ts).channels = s.channels := rfl
@[simp] theorem State.setTrackers_requests (s : State) (ts : List Tracker) : (s.setTrackers ts).requests = s.requests := rfl
@[simp] theorem State.setTrackers_start (s : State) (ts : List Tracker) : (s.setTrackers ts).start = s.start := rfl
@[simp] theorem State.setTrackers_scanner (s : State) (ts : List Tracker) : (s.setTrackers ts).scanner = s.scanner := rfl
@[simp] theorem State.setTrackers_ir (s : State) (ts : List Tracker) : (s.setTrackers ts).ir = s.ir := rfl
@[simp] theorem State.setTrackers_emitter (s : State) (ts : List Tracker) : (s.setTrackers ts).emitter = s.emitter := rfl
@[simp] theorem State.setTrackers_bindings (s : State) (ts : List Tracker) : (s.setTrackers ts).bindings = s.bindings := rfl
@[simp] theorem State.setTrackers_macros (s : State) (ts : List Tracker) : (s.setTrackers ts).macros = s.macros := rfl
@[simp] theorem State.setTrackers_outputs (s : State) (ts : List Tracker) : (s.setTrackers ts).outputs = s.outputs := rfl
@[simp] theorem State.setTrackers_indicators (s : State) (ts : List Tracker) : (s.setTrackers ts).indicators = s.indicators := rfl
@[simp] theorem State.setTrackers_service (s : State) (ts : List Tracker) : (s.setTrackers ts).service = s.service := rfl

/-! `State.setIr` -/

@[simp] theorem State.setIr_now (s : State) (r : IrReceiver) : (s.setIr r).now = s.now := rfl
@[simp] theorem State.setIr_draws (s : State) (r : IrReceiver) : (s.setIr r).draws = s.draws := rfl
@[simp] theorem State.setIr_rival (s : State) (r : IrReceiver) : (s.setIr r).rival = s.rival := rfl
@[simp] theorem State.setIr_owed (s : State) (r : IrReceiver) : (s.setIr r).owed = s.owed := rfl
@[simp] theorem State.setIr_taken (s : State) (r : IrReceiver) : (s.setIr r).taken = s.taken := rfl
@[simp] theorem State.setIr_pending (s : State) (r : IrReceiver) : (s.setIr r).pending = s.pending := rfl
@[simp] theorem State.setIr_line (s : State) (r : IrReceiver) : (s.setIr r).line = s.line := rfl
@[simp] theorem State.setIr_queue (s : State) (r : IrReceiver) : (s.setIr r).queue = s.queue := rfl
@[simp] theorem State.setIr_peers (s : State) (r : IrReceiver) : (s.setIr r).peers = s.peers := rfl
@[simp] theorem State.setIr_channels (s : State) (r : IrReceiver) : (s.setIr r).channels = s.channels := rfl
@[simp] theorem State.setIr_requests (s : State) (r : IrReceiver) : (s.setIr r).requests = s.requests := rfl
@[simp] theorem State.setIr_start (s : State) (r : IrReceiver) : (s.setIr r).start = s.start := rfl
@[simp] theorem State.setIr_scanner (s : State) (r : IrReceiver) : (s.setIr r).scanner = s.scanner := rfl
@[simp] theorem State.setIr_gestures (s : State) (r : IrReceiver) : (s.setIr r).gestures = s.gestures := rfl
@[simp] theorem State.setIr_emitter (s : State) (r : IrReceiver) : (s.setIr r).emitter = s.emitter := rfl
@[simp] theorem State.setIr_bindings (s : State) (r : IrReceiver) : (s.setIr r).bindings = s.bindings := rfl
@[simp] theorem State.setIr_macros (s : State) (r : IrReceiver) : (s.setIr r).macros = s.macros := rfl
@[simp] theorem State.setIr_outputs (s : State) (r : IrReceiver) : (s.setIr r).outputs = s.outputs := rfl
@[simp] theorem State.setIr_indicators (s : State) (r : IrReceiver) : (s.setIr r).indicators = s.indicators := rfl
@[simp] theorem State.setIr_service (s : State) (r : IrReceiver) : (s.setIr r).service = s.service := rfl

/-! `State.setLine` -/

@[simp] theorem State.setLine_now (s : State) (l : LineUnit) : (s.setLine l).now = s.now := rfl
@[simp] theorem State.setLine_draws (s : State) (l : LineUnit) : (s.setLine l).draws = s.draws := rfl
@[simp] theorem State.setLine_rival (s : State) (l : LineUnit) : (s.setLine l).rival = s.rival := rfl
@[simp] theorem State.setLine_owed (s : State) (l : LineUnit) : (s.setLine l).owed = s.owed := rfl
@[simp] theorem State.setLine_taken (s : State) (l : LineUnit) : (s.setLine l).taken = s.taken := rfl
@[simp] theorem State.setLine_pending (s : State) (l : LineUnit) : (s.setLine l).pending = s.pending := rfl
@[simp] theorem State.setLine_queue (s : State) (l : LineUnit) : (s.setLine l).queue = s.queue := rfl
@[simp] theorem State.setLine_peers (s : State) (l : LineUnit) : (s.setLine l).peers = s.peers := rfl
@[simp] theorem State.setLine_channels (s : State) (l : LineUnit) : (s.setLine l).channels = s.channels := rfl
@[simp] theorem State.setLine_requests (s : State) (l : LineUnit) : (s.setLine l).requests = s.requests := rfl
@[simp] theorem State.setLine_start (s : State) (l : LineUnit) : (s.setLine l).start = s.start := rfl
@[simp] theorem State.setLine_scanner (s : State) (l : LineUnit) : (s.setLine l).scanner = s.scanner := rfl
@[simp] theorem State.setLine_gestures (s : State) (l : LineUnit) : (s.setLine l).gestures = s.gestures := rfl
@[simp] theorem State.setLine_ir (s : State) (l : LineUnit) : (s.setLine l).ir = s.ir := rfl
@[simp] theorem State.setLine_emitter (s : State) (l : LineUnit) : (s.setLine l).emitter = s.emitter := rfl
@[simp] theorem State.setLine_bindings (s : State) (l : LineUnit) : (s.setLine l).bindings = s.bindings := rfl
@[simp] theorem State.setLine_macros (s : State) (l : LineUnit) : (s.setLine l).macros = s.macros := rfl
@[simp] theorem State.setLine_outputs (s : State) (l : LineUnit) : (s.setLine l).outputs = s.outputs := rfl
@[simp] theorem State.setLine_indicators (s : State) (l : LineUnit) : (s.setLine l).indicators = s.indicators := rfl
@[simp] theorem State.setLine_service (s : State) (l : LineUnit) : (s.setLine l).service = s.service := rfl

/-! `State.flash` -/

@[simp] theorem State.flash_now (s : State) (p : IndicatorMap → Bool) : (s.flash p).now = s.now := rfl
@[simp] theorem State.flash_draws (s : State) (p : IndicatorMap → Bool) : (s.flash p).draws = s.draws := rfl
@[simp] theorem State.flash_rival (s : State) (p : IndicatorMap → Bool) : (s.flash p).rival = s.rival := rfl
@[simp] theorem State.flash_owed (s : State) (p : IndicatorMap → Bool) : (s.flash p).owed = s.owed := rfl
@[simp] theorem State.flash_taken (s : State) (p : IndicatorMap → Bool) : (s.flash p).taken = s.taken := rfl
@[simp] theorem State.flash_pending (s : State) (p : IndicatorMap → Bool) : (s.flash p).pending = s.pending := rfl
@[simp] theorem State.flash_line (s : State) (p : IndicatorMap → Bool) : (s.flash p).line = s.line := rfl
@[simp] theorem State.flash_queue (s : State) (p : IndicatorMap → Bool) : (s.flash p).queue = s.queue := rfl
@[simp] theorem State.flash_peers (s : State) (p : IndicatorMap → Bool) : (s.flash p).peers = s.peers := rfl
@[simp] theorem State.flash_channels (s : State) (p : IndicatorMap → Bool) : (s.flash p).channels = s.channels := rfl
@[simp] theorem State.flash_requests (s : State) (p : IndicatorMap → Bool) : (s.flash p).requests = s.requests := rfl
@[simp] theorem State.flash_start (s : State) (p : IndicatorMap → Bool) : (s.flash p).start = s.start := rfl
@[simp] theorem State.flash_scanner (s : State) (p : IndicatorMap → Bool) : (s.flash p).scanner = s.scanner := rfl
@[simp] theorem State.flash_gestures (s : State) (p : IndicatorMap → Bool) : (s.flash p).gestures = s.gestures := rfl
@[simp] theorem State.flash_ir (s : State) (p : IndicatorMap → Bool) : (s.flash p).ir = s.ir := rfl
@[simp] theorem State.flash_emitter (s : State) (p : IndicatorMap → Bool) : (s.flash p).emitter = s.emitter := rfl
@[simp] theorem State.flash_bindings (s : State) (p : IndicatorMap → Bool) : (s.flash p).bindings = s.bindings := rfl
@[simp] theorem State.flash_macros (s : State) (p : IndicatorMap → Bool) : (s.flash p).macros = s.macros := rfl
@[simp] theorem State.flash_outputs (s : State) (p : IndicatorMap → Bool) : (s.flash p).outputs = s.outputs := rfl
@[simp] theorem State.flash_service (s : State) (p : IndicatorMap → Bool) : (s.flash p).service = s.service := rfl

/-! `State.failChannel` -/

@[simp] theorem State.failChannel_now (s : State) (c : Chan) : (s.failChannel c).now = s.now := rfl
@[simp] theorem State.failChannel_draws (s : State) (c : Chan) : (s.failChannel c).draws = s.draws := rfl
@[simp] theorem State.failChannel_rival (s : State) (c : Chan) : (s.failChannel c).rival = s.rival := rfl
@[simp] theorem State.failChannel_owed (s : State) (c : Chan) : (s.failChannel c).owed = s.owed := rfl
@[simp] theorem State.failChannel_taken (s : State) (c : Chan) : (s.failChannel c).taken = s.taken := rfl
@[simp] theorem State.failChannel_pending (s : State) (c : Chan) : (s.failChannel c).pending = s.pending := rfl
@[simp] theorem State.failChannel_line (s : State) (c : Chan) : (s.failChannel c).line = s.line := rfl
@[simp] theorem State.failChannel_queue (s : State) (c : Chan) : (s.failChannel c).queue = s.queue := rfl
@[simp] theorem State.failChannel_peers (s : State) (c : Chan) : (s.failChannel c).peers = s.peers := rfl
@[simp] theorem State.failChannel_channels (s : State) (c : Chan) : (s.failChannel c).channels = s.channels := rfl
@[simp] theorem State.failChannel_requests (s : State) (c : Chan) : (s.failChannel c).requests = s.requests := rfl
@[simp] theorem State.failChannel_start (s : State) (c : Chan) : (s.failChannel c).start = s.start := rfl
@[simp] theorem State.failChannel_scanner (s : State) (c : Chan) : (s.failChannel c).scanner = s.scanner := rfl
@[simp] theorem State.failChannel_gestures (s : State) (c : Chan) : (s.failChannel c).gestures = s.gestures := rfl
@[simp] theorem State.failChannel_ir (s : State) (c : Chan) : (s.failChannel c).ir = s.ir := rfl
@[simp] theorem State.failChannel_emitter (s : State) (c : Chan) : (s.failChannel c).emitter = s.emitter := rfl
@[simp] theorem State.failChannel_bindings (s : State) (c : Chan) : (s.failChannel c).bindings = s.bindings := rfl
@[simp] theorem State.failChannel_macros (s : State) (c : Chan) : (s.failChannel c).macros = s.macros := rfl
@[simp] theorem State.failChannel_outputs (s : State) (c : Chan) : (s.failChannel c).outputs = s.outputs := rfl
@[simp] theorem State.failChannel_service (s : State) (c : Chan) : (s.failChannel c).service = s.service := rfl

/-! `State.failStation` -/

@[simp] theorem State.failStation_now (s : State) : (s.failStation).now = s.now := rfl
@[simp] theorem State.failStation_draws (s : State) : (s.failStation).draws = s.draws := rfl
@[simp] theorem State.failStation_rival (s : State) : (s.failStation).rival = s.rival := rfl
@[simp] theorem State.failStation_owed (s : State) : (s.failStation).owed = s.owed := rfl
@[simp] theorem State.failStation_taken (s : State) : (s.failStation).taken = s.taken := rfl
@[simp] theorem State.failStation_pending (s : State) : (s.failStation).pending = s.pending := rfl
@[simp] theorem State.failStation_line (s : State) : (s.failStation).line = s.line := rfl
@[simp] theorem State.failStation_queue (s : State) : (s.failStation).queue = s.queue := rfl
@[simp] theorem State.failStation_peers (s : State) : (s.failStation).peers = s.peers := rfl
@[simp] theorem State.failStation_channels (s : State) : (s.failStation).channels = s.channels := rfl
@[simp] theorem State.failStation_requests (s : State) : (s.failStation).requests = s.requests := rfl
@[simp] theorem State.failStation_start (s : State) : (s.failStation).start = s.start := rfl
@[simp] theorem State.failStation_scanner (s : State) : (s.failStation).scanner = s.scanner := rfl
@[simp] theorem State.failStation_gestures (s : State) : (s.failStation).gestures = s.gestures := rfl
@[simp] theorem State.failStation_ir (s : State) : (s.failStation).ir = s.ir := rfl
@[simp] theorem State.failStation_emitter (s : State) : (s.failStation).emitter = s.emitter := rfl
@[simp] theorem State.failStation_bindings (s : State) : (s.failStation).bindings = s.bindings := rfl
@[simp] theorem State.failStation_macros (s : State) : (s.failStation).macros = s.macros := rfl
@[simp] theorem State.failStation_outputs (s : State) : (s.failStation).outputs = s.outputs := rfl
@[simp] theorem State.failStation_service (s : State) : (s.failStation).service = s.service := rfl

/-! `State.requestFailed` -/

@[simp] theorem State.requestFailed_now (s : State) (c : Chan) : (s.requestFailed c).now = s.now := rfl
@[simp] theorem State.requestFailed_draws (s : State) (c : Chan) : (s.requestFailed c).draws = s.draws := rfl
@[simp] theorem State.requestFailed_rival (s : State) (c : Chan) : (s.requestFailed c).rival = s.rival := rfl
@[simp] theorem State.requestFailed_owed (s : State) (c : Chan) : (s.requestFailed c).owed = s.owed := rfl
@[simp] theorem State.requestFailed_taken (s : State) (c : Chan) : (s.requestFailed c).taken = s.taken := rfl
@[simp] theorem State.requestFailed_pending (s : State) (c : Chan) : (s.requestFailed c).pending = s.pending := rfl
@[simp] theorem State.requestFailed_line (s : State) (c : Chan) : (s.requestFailed c).line = s.line := rfl
@[simp] theorem State.requestFailed_queue (s : State) (c : Chan) : (s.requestFailed c).queue = s.queue := rfl
@[simp] theorem State.requestFailed_peers (s : State) (c : Chan) : (s.requestFailed c).peers = s.peers := rfl
@[simp] theorem State.requestFailed_channels (s : State) (c : Chan) : (s.requestFailed c).channels = s.channels := rfl
@[simp] theorem State.requestFailed_requests (s : State) (c : Chan) : (s.requestFailed c).requests = s.requests := rfl
@[simp] theorem State.requestFailed_start (s : State) (c : Chan) : (s.requestFailed c).start = s.start := rfl
@[simp] theorem State.requestFailed_scanner (s : State) (c : Chan) : (s.requestFailed c).scanner = s.scanner := rfl
@[simp] theorem State.requestFailed_gestures (s : State) (c : Chan) : (s.requestFailed c).gestures = s.gestures := rfl
@[simp] theorem State.requestFailed_ir (s : State) (c : Chan) : (s.requestFailed c).ir = s.ir := rfl
@[simp] theorem State.requestFailed_emitter (s : State) (c : Chan) : (s.requestFailed c).emitter = s.emitter := rfl
@[simp] theorem State.requestFailed_bindings (s : State) (c : Chan) : (s.requestFailed c).bindings = s.bindings := rfl
@[simp] theorem State.requestFailed_macros (s : State) (c : Chan) : (s.requestFailed c).macros = s.macros := rfl
@[simp] theorem State.requestFailed_outputs (s : State) (c : Chan) : (s.requestFailed c).outputs = s.outputs := rfl

/-! `State.tellOutputs` -/

@[simp] theorem State.tellOutputs_now (s : State) (c : Chan) (v : Byte) : (s.tellOutputs c v).now = s.now := rfl
@[simp] theorem State.tellOutputs_draws (s : State) (c : Chan) (v : Byte) : (s.tellOutputs c v).draws = s.draws := rfl
@[simp] theorem State.tellOutputs_rival (s : State) (c : Chan) (v : Byte) : (s.tellOutputs c v).rival = s.rival := rfl
@[simp] theorem State.tellOutputs_owed (s : State) (c : Chan) (v : Byte) : (s.tellOutputs c v).owed = s.owed := rfl
@[simp] theorem State.tellOutputs_taken (s : State) (c : Chan) (v : Byte) : (s.tellOutputs c v).taken = s.taken := rfl
@[simp] theorem State.tellOutputs_pending (s : State) (c : Chan) (v : Byte) : (s.tellOutputs c v).pending = s.pending := rfl
@[simp] theorem State.tellOutputs_line (s : State) (c : Chan) (v : Byte) : (s.tellOutputs c v).line = s.line := rfl
@[simp] theorem State.tellOutputs_queue (s : State) (c : Chan) (v : Byte) : (s.tellOutputs c v).queue = s.queue := rfl
@[simp] theorem State.tellOutputs_peers (s : State) (c : Chan) (v : Byte) : (s.tellOutputs c v).peers = s.peers := rfl
@[simp] theorem State.tellOutputs_channels (s : State) (c : Chan) (v : Byte) : (s.tellOutputs c v).channels = s.channels := rfl
@[simp] theorem State.tellOutputs_requests (s : State) (c : Chan) (v : Byte) : (s.tellOutputs c v).requests = s.requests := rfl
@[simp] theorem State.tellOutputs_start (s : State) (c : Chan) (v : Byte) : (s.tellOutputs c v).start = s.start := rfl
@[simp] theorem State.tellOutputs_scanner (s : State) (c : Chan) (v : Byte) : (s.tellOutputs c v).scanner = s.scanner := rfl
@[simp] theorem State.tellOutputs_gestures (s : State) (c : Chan) (v : Byte) : (s.tellOutputs c v).gestures = s.gestures := rfl
@[simp] theorem State.tellOutputs_ir (s : State) (c : Chan) (v : Byte) : (s.tellOutputs c v).ir = s.ir := rfl
@[simp] theorem State.tellOutputs_emitter (s : State) (c : Chan) (v : Byte) : (s.tellOutputs c v).emitter = s.emitter := rfl
@[simp] theorem State.tellOutputs_bindings (s : State) (c : Chan) (v : Byte) : (s.tellOutputs c v).bindings = s.bindings := rfl
@[simp] theorem State.tellOutputs_macros (s : State) (c : Chan) (v : Byte) : (s.tellOutputs c v).macros = s.macros := rfl
@[simp] theorem State.tellOutputs_indicators (s : State) (c : Chan) (v : Byte) : (s.tellOutputs c v).indicators = s.indicators := rfl
@[simp] theorem State.tellOutputs_service (s : State) (c : Chan) (v : Byte) : (s.tellOutputs c v).service = s.service := rfl

/-! `State.beginEmission` -/

@[simp] theorem State.beginEmission_now (s : State) (e : Emission) : (s.beginEmission e).now = s.now := rfl
@[simp] theorem State.beginEmission_draws (s : State) (e : Emission) : (s.beginEmission e).draws = s.draws := rfl
@[simp] theorem State.beginEmission_rival (s : State) (e : Emission) : (s.beginEmission e).rival = s.rival := rfl
@[simp] theorem State.beginEmission_owed (s : State) (e : Emission) : (s.beginEmission e).owed = s.owed := rfl
@[simp] theorem State.beginEmission_taken (s : State) (e : Emission) : (s.beginEmission e).taken = s.taken := rfl
@[simp] theorem State.beginEmission_pending (s : State) (e : Emission) : (s.beginEmission e).pending = s.pending := rfl
@[simp] theorem State.beginEmission_line (s : State) (e : Emission) : (s.beginEmission e).line = s.line := rfl
@[simp] theorem State.beginEmission_queue (s : State) (e : Emission) : (s.beginEmission e).queue = s.queue := rfl
@[simp] theorem State.beginEmission_peers (s : State) (e : Emission) : (s.beginEmission e).peers = s.peers := rfl
@[simp] theorem State.beginEmission_channels (s : State) (e : Emission) : (s.beginEmission e).channels = s.channels := rfl
@[simp] theorem State.beginEmission_requests (s : State) (e : Emission) : (s.beginEmission e).requests = s.requests := rfl
@[simp] theorem State.beginEmission_start (s : State) (e : Emission) : (s.beginEmission e).start = s.start := rfl
@[simp] theorem State.beginEmission_scanner (s : State) (e : Emission) : (s.beginEmission e).scanner = s.scanner := rfl
@[simp] theorem State.beginEmission_gestures (s : State) (e : Emission) : (s.beginEmission e).gestures = s.gestures := rfl
@[simp] theorem State.beginEmission_bindings (s : State) (e : Emission) : (s.beginEmission e).bindings = s.bindings := rfl
@[simp] theorem State.beginEmission_macros (s : State) (e : Emission) : (s.beginEmission e).macros = s.macros := rfl
@[simp] theorem State.beginEmission_outputs (s : State) (e : Emission) : (s.beginEmission e).outputs = s.outputs := rfl
@[simp] theorem State.beginEmission_indicators (s : State) (e : Emission) : (s.beginEmission e).indicators = s.indicators := rfl
@[simp] theorem State.beginEmission_service (s : State) (e : Emission) : (s.beginEmission e).service = s.service := rfl

/-! `State.stopEmitter` -/

@[simp] theorem State.stopEmitter_now (s : State) : (s.stopEmitter).now = s.now := rfl
@[simp] theorem State.stopEmitter_draws (s : State) : (s.stopEmitter).draws = s.draws := rfl
@[simp] theorem State.stopEmitter_rival (s : State) : (s.stopEmitter).rival = s.rival := rfl
@[simp] theorem State.stopEmitter_owed (s : State) : (s.stopEmitter).owed = s.owed := rfl
@[simp] theorem State.stopEmitter_taken (s : State) : (s.stopEmitter).taken = s.taken := rfl
@[simp] theorem State.stopEmitter_pending (s : State) : (s.stopEmitter).pending = s.pending := rfl
@[simp] theorem State.stopEmitter_line (s : State) : (s.stopEmitter).line = s.line := rfl
@[simp] theorem State.stopEmitter_queue (s : State) : (s.stopEmitter).queue = s.queue := rfl
@[simp] theorem State.stopEmitter_peers (s : State) : (s.stopEmitter).peers = s.peers := rfl
@[simp] theorem State.stopEmitter_channels (s : State) : (s.stopEmitter).channels = s.channels := rfl
@[simp] theorem State.stopEmitter_requests (s : State) : (s.stopEmitter).requests = s.requests := rfl
@[simp] theorem State.stopEmitter_start (s : State) : (s.stopEmitter).start = s.start := rfl
@[simp] theorem State.stopEmitter_scanner (s : State) : (s.stopEmitter).scanner = s.scanner := rfl
@[simp] theorem State.stopEmitter_gestures (s : State) : (s.stopEmitter).gestures = s.gestures := rfl
@[simp] theorem State.stopEmitter_bindings (s : State) : (s.stopEmitter).bindings = s.bindings := rfl
@[simp] theorem State.stopEmitter_macros (s : State) : (s.stopEmitter).macros = s.macros := rfl
@[simp] theorem State.stopEmitter_outputs (s : State) : (s.stopEmitter).outputs = s.outputs := rfl
@[simp] theorem State.stopEmitter_indicators (s : State) : (s.stopEmitter).indicators = s.indicators := rfl
@[simp] theorem State.stopEmitter_service (s : State) : (s.stopEmitter).service = s.service := rfl

/-! `State.leaveOrders` -/

@[simp] theorem State.leaveOrders_now (s : State) (i : SlotId) : (s.leaveOrders i).now = s.now := rfl
@[simp] theorem State.leaveOrders_draws (s : State) (i : SlotId) : (s.leaveOrders i).draws = s.draws := rfl
@[simp] theorem State.leaveOrders_rival (s : State) (i : SlotId) : (s.leaveOrders i).rival = s.rival := rfl
@[simp] theorem State.leaveOrders_owed (s : State) (i : SlotId) : (s.leaveOrders i).owed = s.owed := rfl
@[simp] theorem State.leaveOrders_taken (s : State) (i : SlotId) : (s.leaveOrders i).taken = s.taken := rfl
@[simp] theorem State.leaveOrders_pending (s : State) (i : SlotId) : (s.leaveOrders i).pending = s.pending := rfl
@[simp] theorem State.leaveOrders_line (s : State) (i : SlotId) : (s.leaveOrders i).line = s.line := rfl
@[simp] theorem State.leaveOrders_queue (s : State) (i : SlotId) : (s.leaveOrders i).queue = s.queue := rfl
@[simp] theorem State.leaveOrders_peers (s : State) (i : SlotId) : (s.leaveOrders i).peers = s.peers := rfl
@[simp] theorem State.leaveOrders_channels (s : State) (i : SlotId) : (s.leaveOrders i).channels = s.channels := rfl
@[simp] theorem State.leaveOrders_start (s : State) (i : SlotId) : (s.leaveOrders i).start = s.start := rfl
@[simp] theorem State.leaveOrders_scanner (s : State) (i : SlotId) : (s.leaveOrders i).scanner = s.scanner := rfl
@[simp] theorem State.leaveOrders_gestures (s : State) (i : SlotId) : (s.leaveOrders i).gestures = s.gestures := rfl
@[simp] theorem State.leaveOrders_ir (s : State) (i : SlotId) : (s.leaveOrders i).ir = s.ir := rfl
@[simp] theorem State.leaveOrders_bindings (s : State) (i : SlotId) : (s.leaveOrders i).bindings = s.bindings := rfl
@[simp] theorem State.leaveOrders_macros (s : State) (i : SlotId) : (s.leaveOrders i).macros = s.macros := rfl
@[simp] theorem State.leaveOrders_outputs (s : State) (i : SlotId) : (s.leaveOrders i).outputs = s.outputs := rfl
@[simp] theorem State.leaveOrders_indicators (s : State) (i : SlotId) : (s.leaveOrders i).indicators = s.indicators := rfl
@[simp] theorem State.leaveOrders_service (s : State) (i : SlotId) : (s.leaveOrders i).service = s.service := rfl

/-! `State.emptyQueue` -/

@[simp] theorem State.emptyQueue_now (s : State) : (s.emptyQueue).now = s.now := rfl
@[simp] theorem State.emptyQueue_draws (s : State) : (s.emptyQueue).draws = s.draws := rfl
@[simp] theorem State.emptyQueue_rival (s : State) : (s.emptyQueue).rival = s.rival := rfl
@[simp] theorem State.emptyQueue_owed (s : State) : (s.emptyQueue).owed = s.owed := rfl
@[simp] theorem State.emptyQueue_taken (s : State) : (s.emptyQueue).taken = s.taken := rfl
@[simp] theorem State.emptyQueue_pending (s : State) : (s.emptyQueue).pending = s.pending := rfl
@[simp] theorem State.emptyQueue_line (s : State) : (s.emptyQueue).line = s.line := rfl
@[simp] theorem State.emptyQueue_peers (s : State) : (s.emptyQueue).peers = s.peers := rfl
@[simp] theorem State.emptyQueue_channels (s : State) : (s.emptyQueue).channels = s.channels := rfl
@[simp] theorem State.emptyQueue_requests (s : State) : (s.emptyQueue).requests = s.requests := rfl
@[simp] theorem State.emptyQueue_start (s : State) : (s.emptyQueue).start = s.start := rfl
@[simp] theorem State.emptyQueue_scanner (s : State) : (s.emptyQueue).scanner = s.scanner := rfl
@[simp] theorem State.emptyQueue_gestures (s : State) : (s.emptyQueue).gestures = s.gestures := rfl
@[simp] theorem State.emptyQueue_ir (s : State) : (s.emptyQueue).ir = s.ir := rfl
@[simp] theorem State.emptyQueue_emitter (s : State) : (s.emptyQueue).emitter = s.emitter := rfl
@[simp] theorem State.emptyQueue_bindings (s : State) : (s.emptyQueue).bindings = s.bindings := rfl
@[simp] theorem State.emptyQueue_macros (s : State) : (s.emptyQueue).macros = s.macros := rfl
@[simp] theorem State.emptyQueue_outputs (s : State) : (s.emptyQueue).outputs = s.outputs := rfl
@[simp] theorem State.emptyQueue_indicators (s : State) : (s.emptyQueue).indicators = s.indicators := rfl
@[simp] theorem State.emptyQueue_service (s : State) : (s.emptyQueue).service = s.service := rfl

/-! `State.emptyRequests` -/

@[simp] theorem State.emptyRequests_now (s : State) : (s.emptyRequests).now = s.now := rfl
@[simp] theorem State.emptyRequests_draws (s : State) : (s.emptyRequests).draws = s.draws := rfl
@[simp] theorem State.emptyRequests_rival (s : State) : (s.emptyRequests).rival = s.rival := rfl
@[simp] theorem State.emptyRequests_owed (s : State) : (s.emptyRequests).owed = s.owed := rfl
@[simp] theorem State.emptyRequests_taken (s : State) : (s.emptyRequests).taken = s.taken := rfl
@[simp] theorem State.emptyRequests_pending (s : State) : (s.emptyRequests).pending = s.pending := rfl
@[simp] theorem State.emptyRequests_line (s : State) : (s.emptyRequests).line = s.line := rfl
@[simp] theorem State.emptyRequests_queue (s : State) : (s.emptyRequests).queue = s.queue := rfl
@[simp] theorem State.emptyRequests_peers (s : State) : (s.emptyRequests).peers = s.peers := rfl
@[simp] theorem State.emptyRequests_channels (s : State) : (s.emptyRequests).channels = s.channels := rfl
@[simp] theorem State.emptyRequests_start (s : State) : (s.emptyRequests).start = s.start := rfl
@[simp] theorem State.emptyRequests_scanner (s : State) : (s.emptyRequests).scanner = s.scanner := rfl
@[simp] theorem State.emptyRequests_gestures (s : State) : (s.emptyRequests).gestures = s.gestures := rfl
@[simp] theorem State.emptyRequests_ir (s : State) : (s.emptyRequests).ir = s.ir := rfl
@[simp] theorem State.emptyRequests_emitter (s : State) : (s.emptyRequests).emitter = s.emitter := rfl
@[simp] theorem State.emptyRequests_bindings (s : State) : (s.emptyRequests).bindings = s.bindings := rfl
@[simp] theorem State.emptyRequests_macros (s : State) : (s.emptyRequests).macros = s.macros := rfl
@[simp] theorem State.emptyRequests_outputs (s : State) : (s.emptyRequests).outputs = s.outputs := rfl
@[simp] theorem State.emptyRequests_indicators (s : State) : (s.emptyRequests).indicators = s.indicators := rfl
@[simp] theorem State.emptyRequests_service (s : State) : (s.emptyRequests).service = s.service := rfl

/-! `State.stopRuns` -/

@[simp] theorem State.stopRuns_now (s : State) : (s.stopRuns).now = s.now := rfl
@[simp] theorem State.stopRuns_draws (s : State) : (s.stopRuns).draws = s.draws := rfl
@[simp] theorem State.stopRuns_rival (s : State) : (s.stopRuns).rival = s.rival := rfl
@[simp] theorem State.stopRuns_owed (s : State) : (s.stopRuns).owed = s.owed := rfl
@[simp] theorem State.stopRuns_taken (s : State) : (s.stopRuns).taken = s.taken := rfl
@[simp] theorem State.stopRuns_pending (s : State) : (s.stopRuns).pending = s.pending := rfl
@[simp] theorem State.stopRuns_line (s : State) : (s.stopRuns).line = s.line := rfl
@[simp] theorem State.stopRuns_queue (s : State) : (s.stopRuns).queue = s.queue := rfl
@[simp] theorem State.stopRuns_peers (s : State) : (s.stopRuns).peers = s.peers := rfl
@[simp] theorem State.stopRuns_channels (s : State) : (s.stopRuns).channels = s.channels := rfl
@[simp] theorem State.stopRuns_requests (s : State) : (s.stopRuns).requests = s.requests := rfl
@[simp] theorem State.stopRuns_start (s : State) : (s.stopRuns).start = s.start := rfl
@[simp] theorem State.stopRuns_scanner (s : State) : (s.stopRuns).scanner = s.scanner := rfl
@[simp] theorem State.stopRuns_gestures (s : State) : (s.stopRuns).gestures = s.gestures := rfl
@[simp] theorem State.stopRuns_ir (s : State) : (s.stopRuns).ir = s.ir := rfl
@[simp] theorem State.stopRuns_emitter (s : State) : (s.stopRuns).emitter = s.emitter := rfl
@[simp] theorem State.stopRuns_bindings (s : State) : (s.stopRuns).bindings = s.bindings := rfl
@[simp] theorem State.stopRuns_outputs (s : State) : (s.stopRuns).outputs = s.outputs := rfl
@[simp] theorem State.stopRuns_indicators (s : State) : (s.stopRuns).indicators = s.indicators := rfl
@[simp] theorem State.stopRuns_service (s : State) : (s.stopRuns).service = s.service := rfl

/-! `State.stopFlashes` -/

@[simp] theorem State.stopFlashes_now (s : State) : (s.stopFlashes).now = s.now := rfl
@[simp] theorem State.stopFlashes_draws (s : State) : (s.stopFlashes).draws = s.draws := rfl
@[simp] theorem State.stopFlashes_rival (s : State) : (s.stopFlashes).rival = s.rival := rfl
@[simp] theorem State.stopFlashes_owed (s : State) : (s.stopFlashes).owed = s.owed := rfl
@[simp] theorem State.stopFlashes_taken (s : State) : (s.stopFlashes).taken = s.taken := rfl
@[simp] theorem State.stopFlashes_pending (s : State) : (s.stopFlashes).pending = s.pending := rfl
@[simp] theorem State.stopFlashes_line (s : State) : (s.stopFlashes).line = s.line := rfl
@[simp] theorem State.stopFlashes_queue (s : State) : (s.stopFlashes).queue = s.queue := rfl
@[simp] theorem State.stopFlashes_peers (s : State) : (s.stopFlashes).peers = s.peers := rfl
@[simp] theorem State.stopFlashes_channels (s : State) : (s.stopFlashes).channels = s.channels := rfl
@[simp] theorem State.stopFlashes_requests (s : State) : (s.stopFlashes).requests = s.requests := rfl
@[simp] theorem State.stopFlashes_start (s : State) : (s.stopFlashes).start = s.start := rfl
@[simp] theorem State.stopFlashes_scanner (s : State) : (s.stopFlashes).scanner = s.scanner := rfl
@[simp] theorem State.stopFlashes_gestures (s : State) : (s.stopFlashes).gestures = s.gestures := rfl
@[simp] theorem State.stopFlashes_ir (s : State) : (s.stopFlashes).ir = s.ir := rfl
@[simp] theorem State.stopFlashes_emitter (s : State) : (s.stopFlashes).emitter = s.emitter := rfl
@[simp] theorem State.stopFlashes_bindings (s : State) : (s.stopFlashes).bindings = s.bindings := rfl
@[simp] theorem State.stopFlashes_macros (s : State) : (s.stopFlashes).macros = s.macros := rfl
@[simp] theorem State.stopFlashes_outputs (s : State) : (s.stopFlashes).outputs = s.outputs := rfl
@[simp] theorem State.stopFlashes_service (s : State) : (s.stopFlashes).service = s.service := rfl

/-! `State.dequeue` -/

@[simp] theorem State.dequeue_now (s : State) : (s.dequeue).now = s.now := rfl
@[simp] theorem State.dequeue_draws (s : State) : (s.dequeue).draws = s.draws := rfl
@[simp] theorem State.dequeue_rival (s : State) : (s.dequeue).rival = s.rival := rfl
@[simp] theorem State.dequeue_owed (s : State) : (s.dequeue).owed = s.owed := rfl
@[simp] theorem State.dequeue_taken (s : State) : (s.dequeue).taken = s.taken := rfl
@[simp] theorem State.dequeue_pending (s : State) : (s.dequeue).pending = s.pending := rfl
@[simp] theorem State.dequeue_line (s : State) : (s.dequeue).line = s.line := rfl
@[simp] theorem State.dequeue_peers (s : State) : (s.dequeue).peers = s.peers := rfl
@[simp] theorem State.dequeue_channels (s : State) : (s.dequeue).channels = s.channels := rfl
@[simp] theorem State.dequeue_requests (s : State) : (s.dequeue).requests = s.requests := rfl
@[simp] theorem State.dequeue_start (s : State) : (s.dequeue).start = s.start := rfl
@[simp] theorem State.dequeue_scanner (s : State) : (s.dequeue).scanner = s.scanner := rfl
@[simp] theorem State.dequeue_gestures (s : State) : (s.dequeue).gestures = s.gestures := rfl
@[simp] theorem State.dequeue_ir (s : State) : (s.dequeue).ir = s.ir := rfl
@[simp] theorem State.dequeue_emitter (s : State) : (s.dequeue).emitter = s.emitter := rfl
@[simp] theorem State.dequeue_bindings (s : State) : (s.dequeue).bindings = s.bindings := rfl
@[simp] theorem State.dequeue_macros (s : State) : (s.dequeue).macros = s.macros := rfl
@[simp] theorem State.dequeue_outputs (s : State) : (s.dequeue).outputs = s.outputs := rfl
@[simp] theorem State.dequeue_indicators (s : State) : (s.dequeue).indicators = s.indicators := rfl
@[simp] theorem State.dequeue_service (s : State) : (s.dequeue).service = s.service := rfl

/-! `State.offLine` -/

@[simp] theorem State.offLine_now (s : State) (f : Entry → Entry) : (s.offLine f).now = s.now := rfl
@[simp] theorem State.offLine_draws (s : State) (f : Entry → Entry) : (s.offLine f).draws = s.draws := rfl
@[simp] theorem State.offLine_rival (s : State) (f : Entry → Entry) : (s.offLine f).rival = s.rival := rfl
@[simp] theorem State.offLine_owed (s : State) (f : Entry → Entry) : (s.offLine f).owed = s.owed := rfl
@[simp] theorem State.offLine_taken (s : State) (f : Entry → Entry) : (s.offLine f).taken = s.taken := rfl
@[simp] theorem State.offLine_pending (s : State) (f : Entry → Entry) : (s.offLine f).pending = s.pending := rfl
@[simp] theorem State.offLine_line (s : State) (f : Entry → Entry) : (s.offLine f).line = s.line := rfl
@[simp] theorem State.offLine_peers (s : State) (f : Entry → Entry) : (s.offLine f).peers = s.peers := rfl
@[simp] theorem State.offLine_channels (s : State) (f : Entry → Entry) : (s.offLine f).channels = s.channels := rfl
@[simp] theorem State.offLine_requests (s : State) (f : Entry → Entry) : (s.offLine f).requests = s.requests := rfl
@[simp] theorem State.offLine_start (s : State) (f : Entry → Entry) : (s.offLine f).start = s.start := rfl
@[simp] theorem State.offLine_scanner (s : State) (f : Entry → Entry) : (s.offLine f).scanner = s.scanner := rfl
@[simp] theorem State.offLine_gestures (s : State) (f : Entry → Entry) : (s.offLine f).gestures = s.gestures := rfl
@[simp] theorem State.offLine_ir (s : State) (f : Entry → Entry) : (s.offLine f).ir = s.ir := rfl
@[simp] theorem State.offLine_emitter (s : State) (f : Entry → Entry) : (s.offLine f).emitter = s.emitter := rfl
@[simp] theorem State.offLine_bindings (s : State) (f : Entry → Entry) : (s.offLine f).bindings = s.bindings := rfl
@[simp] theorem State.offLine_macros (s : State) (f : Entry → Entry) : (s.offLine f).macros = s.macros := rfl
@[simp] theorem State.offLine_outputs (s : State) (f : Entry → Entry) : (s.offLine f).outputs = s.outputs := rfl
@[simp] theorem State.offLine_indicators (s : State) (f : Entry → Entry) : (s.offLine f).indicators = s.indicators := rfl
@[simp] theorem State.offLine_service (s : State) (f : Entry → Entry) : (s.offLine f).service = s.service := rfl

/-! `State.requestSent` -/

@[simp] theorem State.requestSent_now (s : State) (tag : Byte) : (s.requestSent tag).now = s.now := rfl
@[simp] theorem State.requestSent_draws (s : State) (tag : Byte) : (s.requestSent tag).draws = s.draws := rfl
@[simp] theorem State.requestSent_rival (s : State) (tag : Byte) : (s.requestSent tag).rival = s.rival := rfl
@[simp] theorem State.requestSent_owed (s : State) (tag : Byte) : (s.requestSent tag).owed = s.owed := rfl
@[simp] theorem State.requestSent_taken (s : State) (tag : Byte) : (s.requestSent tag).taken = s.taken := rfl
@[simp] theorem State.requestSent_pending (s : State) (tag : Byte) : (s.requestSent tag).pending = s.pending := rfl
@[simp] theorem State.requestSent_line (s : State) (tag : Byte) : (s.requestSent tag).line = s.line := rfl
@[simp] theorem State.requestSent_queue (s : State) (tag : Byte) : (s.requestSent tag).queue = s.queue := rfl
@[simp] theorem State.requestSent_peers (s : State) (tag : Byte) : (s.requestSent tag).peers = s.peers := rfl
@[simp] theorem State.requestSent_channels (s : State) (tag : Byte) : (s.requestSent tag).channels = s.channels := rfl
@[simp] theorem State.requestSent_start (s : State) (tag : Byte) : (s.requestSent tag).start = s.start := rfl
@[simp] theorem State.requestSent_scanner (s : State) (tag : Byte) : (s.requestSent tag).scanner = s.scanner := rfl
@[simp] theorem State.requestSent_gestures (s : State) (tag : Byte) : (s.requestSent tag).gestures = s.gestures := rfl
@[simp] theorem State.requestSent_ir (s : State) (tag : Byte) : (s.requestSent tag).ir = s.ir := rfl
@[simp] theorem State.requestSent_emitter (s : State) (tag : Byte) : (s.requestSent tag).emitter = s.emitter := rfl
@[simp] theorem State.requestSent_bindings (s : State) (tag : Byte) : (s.requestSent tag).bindings = s.bindings := rfl
@[simp] theorem State.requestSent_macros (s : State) (tag : Byte) : (s.requestSent tag).macros = s.macros := rfl
@[simp] theorem State.requestSent_outputs (s : State) (tag : Byte) : (s.requestSent tag).outputs = s.outputs := rfl
@[simp] theorem State.requestSent_indicators (s : State) (tag : Byte) : (s.requestSent tag).indicators = s.indicators := rfl
@[simp] theorem State.requestSent_service (s : State) (tag : Byte) : (s.requestSent tag).service = s.service := rfl

/-! `State.recallEnded` -/

@[simp] theorem State.recallEnded_now (s : State) : (s.recallEnded).now = s.now := rfl
@[simp] theorem State.recallEnded_draws (s : State) : (s.recallEnded).draws = s.draws := rfl
@[simp] theorem State.recallEnded_rival (s : State) : (s.recallEnded).rival = s.rival := rfl
@[simp] theorem State.recallEnded_owed (s : State) : (s.recallEnded).owed = s.owed := rfl
@[simp] theorem State.recallEnded_taken (s : State) : (s.recallEnded).taken = s.taken := rfl
@[simp] theorem State.recallEnded_pending (s : State) : (s.recallEnded).pending = s.pending := rfl
@[simp] theorem State.recallEnded_line (s : State) : (s.recallEnded).line = s.line := rfl
@[simp] theorem State.recallEnded_queue (s : State) : (s.recallEnded).queue = s.queue := rfl
@[simp] theorem State.recallEnded_peers (s : State) : (s.recallEnded).peers = s.peers := rfl
@[simp] theorem State.recallEnded_channels (s : State) : (s.recallEnded).channels = s.channels := rfl
@[simp] theorem State.recallEnded_requests (s : State) : (s.recallEnded).requests = s.requests := rfl
@[simp] theorem State.recallEnded_scanner (s : State) : (s.recallEnded).scanner = s.scanner := rfl
@[simp] theorem State.recallEnded_gestures (s : State) : (s.recallEnded).gestures = s.gestures := rfl
@[simp] theorem State.recallEnded_ir (s : State) : (s.recallEnded).ir = s.ir := rfl
@[simp] theorem State.recallEnded_emitter (s : State) : (s.recallEnded).emitter = s.emitter := rfl
@[simp] theorem State.recallEnded_bindings (s : State) : (s.recallEnded).bindings = s.bindings := rfl
@[simp] theorem State.recallEnded_macros (s : State) : (s.recallEnded).macros = s.macros := rfl
@[simp] theorem State.recallEnded_outputs (s : State) : (s.recallEnded).outputs = s.outputs := rfl
@[simp] theorem State.recallEnded_indicators (s : State) : (s.recallEnded).indicators = s.indicators := rfl
@[simp] theorem State.recallEnded_service (s : State) : (s.recallEnded).service = s.service := rfl

/-! `State.owe` -/

@[simp] theorem State.owe_now (s : State) (o : Owing) : (s.owe o).now = s.now := rfl
@[simp] theorem State.owe_draws (s : State) (o : Owing) : (s.owe o).draws = s.draws := rfl
@[simp] theorem State.owe_rival (s : State) (o : Owing) : (s.owe o).rival = s.rival := rfl
@[simp] theorem State.owe_taken (s : State) (o : Owing) : (s.owe o).taken = s.taken := rfl
@[simp] theorem State.owe_pending (s : State) (o : Owing) : (s.owe o).pending = s.pending := rfl
@[simp] theorem State.owe_line (s : State) (o : Owing) : (s.owe o).line = s.line := rfl
@[simp] theorem State.owe_queue (s : State) (o : Owing) : (s.owe o).queue = s.queue := rfl
@[simp] theorem State.owe_peers (s : State) (o : Owing) : (s.owe o).peers = s.peers := rfl
@[simp] theorem State.owe_channels (s : State) (o : Owing) : (s.owe o).channels = s.channels := rfl
@[simp] theorem State.owe_requests (s : State) (o : Owing) : (s.owe o).requests = s.requests := rfl
@[simp] theorem State.owe_start (s : State) (o : Owing) : (s.owe o).start = s.start := rfl
@[simp] theorem State.owe_scanner (s : State) (o : Owing) : (s.owe o).scanner = s.scanner := rfl
@[simp] theorem State.owe_gestures (s : State) (o : Owing) : (s.owe o).gestures = s.gestures := rfl
@[simp] theorem State.owe_ir (s : State) (o : Owing) : (s.owe o).ir = s.ir := rfl
@[simp] theorem State.owe_emitter (s : State) (o : Owing) : (s.owe o).emitter = s.emitter := rfl
@[simp] theorem State.owe_bindings (s : State) (o : Owing) : (s.owe o).bindings = s.bindings := rfl
@[simp] theorem State.owe_macros (s : State) (o : Owing) : (s.owe o).macros = s.macros := rfl
@[simp] theorem State.owe_outputs (s : State) (o : Owing) : (s.owe o).outputs = s.outputs := rfl
@[simp] theorem State.owe_indicators (s : State) (o : Owing) : (s.owe o).indicators = s.indicators := rfl
@[simp] theorem State.owe_service (s : State) (o : Owing) : (s.owe o).service = s.service := rfl

/-! `State.calm` -/

@[simp] theorem State.calm_now (s : State) (n : Nat) : (s.calm n).now = s.now := rfl
@[simp] theorem State.calm_draws (s : State) (n : Nat) : (s.calm n).draws = s.draws := rfl
@[simp] theorem State.calm_taken (s : State) (n : Nat) : (s.calm n).taken = s.taken := rfl
@[simp] theorem State.calm_pending (s : State) (n : Nat) : (s.calm n).pending = s.pending := rfl
@[simp] theorem State.calm_line (s : State) (n : Nat) : (s.calm n).line = s.line := rfl
@[simp] theorem State.calm_queue (s : State) (n : Nat) : (s.calm n).queue = s.queue := rfl
@[simp] theorem State.calm_peers (s : State) (n : Nat) : (s.calm n).peers = s.peers := rfl
@[simp] theorem State.calm_channels (s : State) (n : Nat) : (s.calm n).channels = s.channels := rfl
@[simp] theorem State.calm_requests (s : State) (n : Nat) : (s.calm n).requests = s.requests := rfl
@[simp] theorem State.calm_start (s : State) (n : Nat) : (s.calm n).start = s.start := rfl
@[simp] theorem State.calm_scanner (s : State) (n : Nat) : (s.calm n).scanner = s.scanner := rfl
@[simp] theorem State.calm_gestures (s : State) (n : Nat) : (s.calm n).gestures = s.gestures := rfl
@[simp] theorem State.calm_ir (s : State) (n : Nat) : (s.calm n).ir = s.ir := rfl
@[simp] theorem State.calm_emitter (s : State) (n : Nat) : (s.calm n).emitter = s.emitter := rfl
@[simp] theorem State.calm_bindings (s : State) (n : Nat) : (s.calm n).bindings = s.bindings := rfl
@[simp] theorem State.calm_macros (s : State) (n : Nat) : (s.calm n).macros = s.macros := rfl
@[simp] theorem State.calm_outputs (s : State) (n : Nat) : (s.calm n).outputs = s.outputs := rfl
@[simp] theorem State.calm_indicators (s : State) (n : Nat) : (s.calm n).indicators = s.indicators := rfl
@[simp] theorem State.calm_service (s : State) (n : Nat) : (s.calm n).service = s.service := rfl

/-! `State.removeRequest` -/

@[simp] theorem State.removeRequest_now (s : State) (tag : Byte) : (s.removeRequest tag).now = s.now := rfl
@[simp] theorem State.removeRequest_draws (s : State) (tag : Byte) : (s.removeRequest tag).draws = s.draws := rfl
@[simp] theorem State.removeRequest_rival (s : State) (tag : Byte) : (s.removeRequest tag).rival = s.rival := rfl
@[simp] theorem State.removeRequest_owed (s : State) (tag : Byte) : (s.removeRequest tag).owed = s.owed := rfl
@[simp] theorem State.removeRequest_taken (s : State) (tag : Byte) : (s.removeRequest tag).taken = s.taken := rfl
@[simp] theorem State.removeRequest_pending (s : State) (tag : Byte) : (s.removeRequest tag).pending = s.pending := rfl
@[simp] theorem State.removeRequest_line (s : State) (tag : Byte) : (s.removeRequest tag).line = s.line := rfl
@[simp] theorem State.removeRequest_queue (s : State) (tag : Byte) : (s.removeRequest tag).queue = s.queue := rfl
@[simp] theorem State.removeRequest_peers (s : State) (tag : Byte) : (s.removeRequest tag).peers = s.peers := rfl
@[simp] theorem State.removeRequest_channels (s : State) (tag : Byte) : (s.removeRequest tag).channels = s.channels := rfl
@[simp] theorem State.removeRequest_start (s : State) (tag : Byte) : (s.removeRequest tag).start = s.start := rfl
@[simp] theorem State.removeRequest_scanner (s : State) (tag : Byte) : (s.removeRequest tag).scanner = s.scanner := rfl
@[simp] theorem State.removeRequest_gestures (s : State) (tag : Byte) : (s.removeRequest tag).gestures = s.gestures := rfl
@[simp] theorem State.removeRequest_ir (s : State) (tag : Byte) : (s.removeRequest tag).ir = s.ir := rfl
@[simp] theorem State.removeRequest_emitter (s : State) (tag : Byte) : (s.removeRequest tag).emitter = s.emitter := rfl
@[simp] theorem State.removeRequest_bindings (s : State) (tag : Byte) : (s.removeRequest tag).bindings = s.bindings := rfl
@[simp] theorem State.removeRequest_macros (s : State) (tag : Byte) : (s.removeRequest tag).macros = s.macros := rfl
@[simp] theorem State.removeRequest_outputs (s : State) (tag : Byte) : (s.removeRequest tag).outputs = s.outputs := rfl
@[simp] theorem State.removeRequest_indicators (s : State) (tag : Byte) : (s.removeRequest tag).indicators = s.indicators := rfl
@[simp] theorem State.removeRequest_service (s : State) (tag : Byte) : (s.removeRequest tag).service = s.service := rfl

/-! `State.clearRestart` -/

@[simp] theorem State.clearRestart_now (s : State) : (s.clearRestart).now = s.now := rfl
@[simp] theorem State.clearRestart_draws (s : State) : (s.clearRestart).draws = s.draws := rfl
@[simp] theorem State.clearRestart_rival (s : State) : (s.clearRestart).rival = s.rival := rfl
@[simp] theorem State.clearRestart_owed (s : State) : (s.clearRestart).owed = s.owed := rfl
@[simp] theorem State.clearRestart_taken (s : State) : (s.clearRestart).taken = s.taken := rfl
@[simp] theorem State.clearRestart_pending (s : State) : (s.clearRestart).pending = s.pending := rfl
@[simp] theorem State.clearRestart_line (s : State) : (s.clearRestart).line = s.line := rfl
@[simp] theorem State.clearRestart_queue (s : State) : (s.clearRestart).queue = s.queue := rfl
@[simp] theorem State.clearRestart_peers (s : State) : (s.clearRestart).peers = s.peers := rfl
@[simp] theorem State.clearRestart_channels (s : State) : (s.clearRestart).channels = s.channels := rfl
@[simp] theorem State.clearRestart_requests (s : State) : (s.clearRestart).requests = s.requests := rfl
@[simp] theorem State.clearRestart_start (s : State) : (s.clearRestart).start = s.start := rfl
@[simp] theorem State.clearRestart_scanner (s : State) : (s.clearRestart).scanner = s.scanner := rfl
@[simp] theorem State.clearRestart_gestures (s : State) : (s.clearRestart).gestures = s.gestures := rfl
@[simp] theorem State.clearRestart_ir (s : State) : (s.clearRestart).ir = s.ir := rfl
@[simp] theorem State.clearRestart_emitter (s : State) : (s.clearRestart).emitter = s.emitter := rfl
@[simp] theorem State.clearRestart_bindings (s : State) : (s.clearRestart).bindings = s.bindings := rfl
@[simp] theorem State.clearRestart_macros (s : State) : (s.clearRestart).macros = s.macros := rfl
@[simp] theorem State.clearRestart_outputs (s : State) : (s.clearRestart).outputs = s.outputs := rfl
@[simp] theorem State.clearRestart_indicators (s : State) : (s.clearRestart).indicators = s.indicators := rfl

/-! `State.ignoreFrame` -/

@[simp] theorem State.ignoreFrame_now (s : State) : (s.ignoreFrame).now = s.now := rfl
@[simp] theorem State.ignoreFrame_draws (s : State) : (s.ignoreFrame).draws = s.draws := rfl
@[simp] theorem State.ignoreFrame_rival (s : State) : (s.ignoreFrame).rival = s.rival := rfl
@[simp] theorem State.ignoreFrame_owed (s : State) : (s.ignoreFrame).owed = s.owed := rfl
@[simp] theorem State.ignoreFrame_taken (s : State) : (s.ignoreFrame).taken = s.taken := rfl
@[simp] theorem State.ignoreFrame_pending (s : State) : (s.ignoreFrame).pending = s.pending := rfl
@[simp] theorem State.ignoreFrame_queue (s : State) : (s.ignoreFrame).queue = s.queue := rfl
@[simp] theorem State.ignoreFrame_peers (s : State) : (s.ignoreFrame).peers = s.peers := rfl
@[simp] theorem State.ignoreFrame_channels (s : State) : (s.ignoreFrame).channels = s.channels := rfl
@[simp] theorem State.ignoreFrame_requests (s : State) : (s.ignoreFrame).requests = s.requests := rfl
@[simp] theorem State.ignoreFrame_start (s : State) : (s.ignoreFrame).start = s.start := rfl
@[simp] theorem State.ignoreFrame_scanner (s : State) : (s.ignoreFrame).scanner = s.scanner := rfl
@[simp] theorem State.ignoreFrame_gestures (s : State) : (s.ignoreFrame).gestures = s.gestures := rfl
@[simp] theorem State.ignoreFrame_ir (s : State) : (s.ignoreFrame).ir = s.ir := rfl
@[simp] theorem State.ignoreFrame_emitter (s : State) : (s.ignoreFrame).emitter = s.emitter := rfl
@[simp] theorem State.ignoreFrame_bindings (s : State) : (s.ignoreFrame).bindings = s.bindings := rfl
@[simp] theorem State.ignoreFrame_macros (s : State) : (s.ignoreFrame).macros = s.macros := rfl
@[simp] theorem State.ignoreFrame_outputs (s : State) : (s.ignoreFrame).outputs = s.outputs := rfl
@[simp] theorem State.ignoreFrame_indicators (s : State) : (s.ignoreFrame).indicators = s.indicators := rfl
@[simp] theorem State.ignoreFrame_service (s : State) : (s.ignoreFrame).service = s.service := rfl

/-! `State.answering` -/

@[simp] theorem State.answering_now (s : State) (f : Frame) (j : Judgement) : (s.answering f j).now = s.now := rfl
@[simp] theorem State.answering_draws (s : State) (f : Frame) (j : Judgement) : (s.answering f j).draws = s.draws := rfl
@[simp] theorem State.answering_rival (s : State) (f : Frame) (j : Judgement) : (s.answering f j).rival = s.rival := rfl
@[simp] theorem State.answering_owed (s : State) (f : Frame) (j : Judgement) : (s.answering f j).owed = s.owed := rfl
@[simp] theorem State.answering_taken (s : State) (f : Frame) (j : Judgement) : (s.answering f j).taken = s.taken := rfl
@[simp] theorem State.answering_pending (s : State) (f : Frame) (j : Judgement) : (s.answering f j).pending = s.pending := rfl
@[simp] theorem State.answering_queue (s : State) (f : Frame) (j : Judgement) : (s.answering f j).queue = s.queue := rfl
@[simp] theorem State.answering_peers (s : State) (f : Frame) (j : Judgement) : (s.answering f j).peers = s.peers := rfl
@[simp] theorem State.answering_channels (s : State) (f : Frame) (j : Judgement) : (s.answering f j).channels = s.channels := rfl
@[simp] theorem State.answering_requests (s : State) (f : Frame) (j : Judgement) : (s.answering f j).requests = s.requests := rfl
@[simp] theorem State.answering_start (s : State) (f : Frame) (j : Judgement) : (s.answering f j).start = s.start := rfl
@[simp] theorem State.answering_scanner (s : State) (f : Frame) (j : Judgement) : (s.answering f j).scanner = s.scanner := rfl
@[simp] theorem State.answering_gestures (s : State) (f : Frame) (j : Judgement) : (s.answering f j).gestures = s.gestures := rfl
@[simp] theorem State.answering_ir (s : State) (f : Frame) (j : Judgement) : (s.answering f j).ir = s.ir := rfl
@[simp] theorem State.answering_emitter (s : State) (f : Frame) (j : Judgement) : (s.answering f j).emitter = s.emitter := rfl
@[simp] theorem State.answering_bindings (s : State) (f : Frame) (j : Judgement) : (s.answering f j).bindings = s.bindings := rfl
@[simp] theorem State.answering_macros (s : State) (f : Frame) (j : Judgement) : (s.answering f j).macros = s.macros := rfl
@[simp] theorem State.answering_outputs (s : State) (f : Frame) (j : Judgement) : (s.answering f j).outputs = s.outputs := rfl
@[simp] theorem State.answering_indicators (s : State) (f : Frame) (j : Judgement) : (s.answering f j).indicators = s.indicators := rfl
@[simp] theorem State.answering_service (s : State) (f : Frame) (j : Judgement) : (s.answering f j).service = s.service := rfl

/-! `State.loadFails` -/

@[simp] theorem State.loadFails_now (s : State) (c : FaultCode) : (s.loadFails c).now = s.now := rfl
@[simp] theorem State.loadFails_draws (s : State) (c : FaultCode) : (s.loadFails c).draws = s.draws := rfl
@[simp] theorem State.loadFails_rival (s : State) (c : FaultCode) : (s.loadFails c).rival = s.rival := rfl
@[simp] theorem State.loadFails_owed (s : State) (c : FaultCode) : (s.loadFails c).owed = s.owed := rfl
@[simp] theorem State.loadFails_taken (s : State) (c : FaultCode) : (s.loadFails c).taken = s.taken := rfl
@[simp] theorem State.loadFails_pending (s : State) (c : FaultCode) : (s.loadFails c).pending = s.pending := rfl
@[simp] theorem State.loadFails_line (s : State) (c : FaultCode) : (s.loadFails c).line = s.line := rfl
@[simp] theorem State.loadFails_queue (s : State) (c : FaultCode) : (s.loadFails c).queue = s.queue := rfl
@[simp] theorem State.loadFails_peers (s : State) (c : FaultCode) : (s.loadFails c).peers = s.peers := rfl
@[simp] theorem State.loadFails_channels (s : State) (c : FaultCode) : (s.loadFails c).channels = s.channels := rfl
@[simp] theorem State.loadFails_requests (s : State) (c : FaultCode) : (s.loadFails c).requests = s.requests := rfl
@[simp] theorem State.loadFails_scanner (s : State) (c : FaultCode) : (s.loadFails c).scanner = s.scanner := rfl
@[simp] theorem State.loadFails_gestures (s : State) (c : FaultCode) : (s.loadFails c).gestures = s.gestures := rfl
@[simp] theorem State.loadFails_ir (s : State) (c : FaultCode) : (s.loadFails c).ir = s.ir := rfl
@[simp] theorem State.loadFails_emitter (s : State) (c : FaultCode) : (s.loadFails c).emitter = s.emitter := rfl
@[simp] theorem State.loadFails_bindings (s : State) (c : FaultCode) : (s.loadFails c).bindings = s.bindings := rfl
@[simp] theorem State.loadFails_macros (s : State) (c : FaultCode) : (s.loadFails c).macros = s.macros := rfl
@[simp] theorem State.loadFails_outputs (s : State) (c : FaultCode) : (s.loadFails c).outputs = s.outputs := rfl
@[simp] theorem State.loadFails_indicators (s : State) (c : FaultCode) : (s.loadFails c).indicators = s.indicators := rfl
@[simp] theorem State.loadFails_service (s : State) (c : FaultCode) : (s.loadFails c).service = s.service := rfl

/-! `State.stepOutput` -/

@[simp] theorem State.stepOutput_now (s : State) (i : OutId) : (State.stepOutput i s).now = s.now := rfl
@[simp] theorem State.stepOutput_draws (s : State) (i : OutId) : (State.stepOutput i s).draws = s.draws := rfl
@[simp] theorem State.stepOutput_rival (s : State) (i : OutId) : (State.stepOutput i s).rival = s.rival := rfl
@[simp] theorem State.stepOutput_owed (s : State) (i : OutId) : (State.stepOutput i s).owed = s.owed := rfl
@[simp] theorem State.stepOutput_taken (s : State) (i : OutId) : (State.stepOutput i s).taken = s.taken := rfl
@[simp] theorem State.stepOutput_pending (s : State) (i : OutId) : (State.stepOutput i s).pending = s.pending := rfl
@[simp] theorem State.stepOutput_line (s : State) (i : OutId) : (State.stepOutput i s).line = s.line := rfl
@[simp] theorem State.stepOutput_queue (s : State) (i : OutId) : (State.stepOutput i s).queue = s.queue := rfl
@[simp] theorem State.stepOutput_peers (s : State) (i : OutId) : (State.stepOutput i s).peers = s.peers := rfl
@[simp] theorem State.stepOutput_channels (s : State) (i : OutId) : (State.stepOutput i s).channels = s.channels := rfl
@[simp] theorem State.stepOutput_requests (s : State) (i : OutId) : (State.stepOutput i s).requests = s.requests := rfl
@[simp] theorem State.stepOutput_start (s : State) (i : OutId) : (State.stepOutput i s).start = s.start := rfl
@[simp] theorem State.stepOutput_scanner (s : State) (i : OutId) : (State.stepOutput i s).scanner = s.scanner := rfl
@[simp] theorem State.stepOutput_gestures (s : State) (i : OutId) : (State.stepOutput i s).gestures = s.gestures := rfl
@[simp] theorem State.stepOutput_ir (s : State) (i : OutId) : (State.stepOutput i s).ir = s.ir := rfl
@[simp] theorem State.stepOutput_emitter (s : State) (i : OutId) : (State.stepOutput i s).emitter = s.emitter := rfl
@[simp] theorem State.stepOutput_bindings (s : State) (i : OutId) : (State.stepOutput i s).bindings = s.bindings := rfl
@[simp] theorem State.stepOutput_macros (s : State) (i : OutId) : (State.stepOutput i s).macros = s.macros := rfl
@[simp] theorem State.stepOutput_indicators (s : State) (i : OutId) : (State.stepOutput i s).indicators = s.indicators := rfl
@[simp] theorem State.stepOutput_service (s : State) (i : OutId) : (State.stepOutput i s).service = s.service := rfl

/-! `State.beginWith` -/

@[simp] theorem State.beginWith_now (s : State) (i : Nat) (e : Entry) : (s.beginWith i e).now = s.now := rfl
@[simp] theorem State.beginWith_draws (s : State) (i : Nat) (e : Entry) : (s.beginWith i e).draws = s.draws := rfl
@[simp] theorem State.beginWith_rival (s : State) (i : Nat) (e : Entry) : (s.beginWith i e).rival = s.rival := rfl
@[simp] theorem State.beginWith_owed (s : State) (i : Nat) (e : Entry) : (s.beginWith i e).owed = s.owed := rfl
@[simp] theorem State.beginWith_taken (s : State) (i : Nat) (e : Entry) : (s.beginWith i e).taken = s.taken := rfl
@[simp] theorem State.beginWith_pending (s : State) (i : Nat) (e : Entry) : (s.beginWith i e).pending = s.pending := rfl
@[simp] theorem State.beginWith_peers (s : State) (i : Nat) (e : Entry) : (s.beginWith i e).peers = s.peers := rfl
@[simp] theorem State.beginWith_channels (s : State) (i : Nat) (e : Entry) : (s.beginWith i e).channels = s.channels := rfl
@[simp] theorem State.beginWith_requests (s : State) (i : Nat) (e : Entry) : (s.beginWith i e).requests = s.requests := rfl
@[simp] theorem State.beginWith_start (s : State) (i : Nat) (e : Entry) : (s.beginWith i e).start = s.start := rfl
@[simp] theorem State.beginWith_scanner (s : State) (i : Nat) (e : Entry) : (s.beginWith i e).scanner = s.scanner := rfl
@[simp] theorem State.beginWith_gestures (s : State) (i : Nat) (e : Entry) : (s.beginWith i e).gestures = s.gestures := rfl
@[simp] theorem State.beginWith_ir (s : State) (i : Nat) (e : Entry) : (s.beginWith i e).ir = s.ir := rfl
@[simp] theorem State.beginWith_emitter (s : State) (i : Nat) (e : Entry) : (s.beginWith i e).emitter = s.emitter := rfl
@[simp] theorem State.beginWith_bindings (s : State) (i : Nat) (e : Entry) : (s.beginWith i e).bindings = s.bindings := rfl
@[simp] theorem State.beginWith_macros (s : State) (i : Nat) (e : Entry) : (s.beginWith i e).macros = s.macros := rfl
@[simp] theorem State.beginWith_outputs (s : State) (i : Nat) (e : Entry) : (s.beginWith i e).outputs = s.outputs := rfl
@[simp] theorem State.beginWith_indicators (s : State) (i : Nat) (e : Entry) : (s.beginWith i e).indicators = s.indicators := rfl
@[simp] theorem State.beginWith_service (s : State) (i : Nat) (e : Entry) : (s.beginWith i e).service = s.service := rfl

/-! `State.wireEdge` -/

@[simp] theorem State.wireEdge_now (s : State) (low : Time) : (s.wireEdge low).now = s.now := rfl
@[simp] theorem State.wireEdge_draws (s : State) (low : Time) : (s.wireEdge low).draws = s.draws := rfl
@[simp] theorem State.wireEdge_rival (s : State) (low : Time) : (s.wireEdge low).rival = s.rival := rfl
@[simp] theorem State.wireEdge_owed (s : State) (low : Time) : (s.wireEdge low).owed = s.owed := rfl
@[simp] theorem State.wireEdge_taken (s : State) (low : Time) : (s.wireEdge low).taken = s.taken := rfl
@[simp] theorem State.wireEdge_pending (s : State) (low : Time) : (s.wireEdge low).pending = s.pending := rfl
@[simp] theorem State.wireEdge_queue (s : State) (low : Time) : (s.wireEdge low).queue = s.queue := rfl
@[simp] theorem State.wireEdge_peers (s : State) (low : Time) : (s.wireEdge low).peers = s.peers := rfl
@[simp] theorem State.wireEdge_channels (s : State) (low : Time) : (s.wireEdge low).channels = s.channels := rfl
@[simp] theorem State.wireEdge_requests (s : State) (low : Time) : (s.wireEdge low).requests = s.requests := rfl
@[simp] theorem State.wireEdge_start (s : State) (low : Time) : (s.wireEdge low).start = s.start := rfl
@[simp] theorem State.wireEdge_scanner (s : State) (low : Time) : (s.wireEdge low).scanner = s.scanner := rfl
@[simp] theorem State.wireEdge_gestures (s : State) (low : Time) : (s.wireEdge low).gestures = s.gestures := rfl
@[simp] theorem State.wireEdge_ir (s : State) (low : Time) : (s.wireEdge low).ir = s.ir := rfl
@[simp] theorem State.wireEdge_emitter (s : State) (low : Time) : (s.wireEdge low).emitter = s.emitter := rfl
@[simp] theorem State.wireEdge_bindings (s : State) (low : Time) : (s.wireEdge low).bindings = s.bindings := rfl
@[simp] theorem State.wireEdge_macros (s : State) (low : Time) : (s.wireEdge low).macros = s.macros := rfl
@[simp] theorem State.wireEdge_outputs (s : State) (low : Time) : (s.wireEdge low).outputs = s.outputs := rfl
@[simp] theorem State.wireEdge_indicators (s : State) (low : Time) : (s.wireEdge low).indicators = s.indicators := rfl
@[simp] theorem State.wireEdge_service (s : State) (low : Time) : (s.wireEdge low).service = s.service := rfl

/-! `State.dominantEdge` -/

@[simp] theorem State.dominantEdge_now (s : State) (low : Time) : (State.dominantEdge low s).now = s.now := rfl
@[simp] theorem State.dominantEdge_draws (s : State) (low : Time) : (State.dominantEdge low s).draws = s.draws := rfl
@[simp] theorem State.dominantEdge_rival (s : State) (low : Time) : (State.dominantEdge low s).rival = s.rival := rfl
@[simp] theorem State.dominantEdge_owed (s : State) (low : Time) : (State.dominantEdge low s).owed = s.owed := rfl
@[simp] theorem State.dominantEdge_taken (s : State) (low : Time) : (State.dominantEdge low s).taken = s.taken := rfl
@[simp] theorem State.dominantEdge_pending (s : State) (low : Time) : (State.dominantEdge low s).pending = s.pending := rfl
@[simp] theorem State.dominantEdge_queue (s : State) (low : Time) : (State.dominantEdge low s).queue = s.queue := rfl
@[simp] theorem State.dominantEdge_peers (s : State) (low : Time) : (State.dominantEdge low s).peers = s.peers := rfl
@[simp] theorem State.dominantEdge_channels (s : State) (low : Time) : (State.dominantEdge low s).channels = s.channels := rfl
@[simp] theorem State.dominantEdge_requests (s : State) (low : Time) : (State.dominantEdge low s).requests = s.requests := rfl
@[simp] theorem State.dominantEdge_start (s : State) (low : Time) : (State.dominantEdge low s).start = s.start := rfl
@[simp] theorem State.dominantEdge_scanner (s : State) (low : Time) : (State.dominantEdge low s).scanner = s.scanner := rfl
@[simp] theorem State.dominantEdge_gestures (s : State) (low : Time) : (State.dominantEdge low s).gestures = s.gestures := rfl
@[simp] theorem State.dominantEdge_ir (s : State) (low : Time) : (State.dominantEdge low s).ir = s.ir := rfl
@[simp] theorem State.dominantEdge_emitter (s : State) (low : Time) : (State.dominantEdge low s).emitter = s.emitter := rfl
@[simp] theorem State.dominantEdge_bindings (s : State) (low : Time) : (State.dominantEdge low s).bindings = s.bindings := rfl
@[simp] theorem State.dominantEdge_macros (s : State) (low : Time) : (State.dominantEdge low s).macros = s.macros := rfl
@[simp] theorem State.dominantEdge_outputs (s : State) (low : Time) : (State.dominantEdge low s).outputs = s.outputs := rfl
@[simp] theorem State.dominantEdge_indicators (s : State) (low : Time) : (State.dominantEdge low s).indicators = s.indicators := rfl
@[simp] theorem State.dominantEdge_service (s : State) (low : Time) : (State.dominantEdge low s).service = s.service := rfl

/-! What the changed fields are. -/

@[simp] theorem State.advance_now (s : State) (dt : Moment) :
    (s.advance dt).now = s.now + dt.after := rfl
theorem State.advance_line (s : State) (dt : Moment) :
    (s.advance dt).line = s.line.at (s.now + dt.after) := rfl

/-- Time changes nothing at a Line Unit that transmits nothing. -/
theorem State.advance_line_of_no_attempt {s : State} (dt : Moment) (h : s.line.attempt = none) :
    (s.advance dt).line = s.line := by
  simp [State.advance_line, LineUnit.at, h]

/-- Time moves a transmitter on: its activity, and the line it drives. -/
theorem State.advance_line_of_attempt {s : State} {a : Attempt} (dt : Moment)
    (h : s.line.attempt = some a) :
    (s.advance dt).line =
      { s.line with
        activity := activityAt (s.now + dt.after) a, wire := a.wireAt s.line.wire (s.now + dt.after) } := by
  simp [State.advance_line, LineUnit.at, h]
@[simp] theorem State.setLine_line (s : State) (l : LineUnit) : (s.setLine l).line = l := rfl
@[simp] theorem State.setIr_ir (s : State) (r : IrReceiver) : (s.setIr r).ir = r := rfl
@[simp] theorem State.setTrackers_trackers (s : State) (ts : List Tracker) :
    (s.setTrackers ts).gestures.trackers = ts := rfl
@[simp] theorem State.setPressed_pressed (s : State) (ps : List Pressed) :
    (s.setPressed ps).scanner.pressed = ps := rfl
@[simp] theorem State.emptyQueue_queue (s : State) : s.emptyQueue.queue = TxQueue.reset := rfl
@[simp] theorem State.bump_restart (s : State) (c : Counter) :
    (s.bump c).service.restart = s.service.restart := rfl
@[simp] theorem State.bump_counters (s : State) (c : Counter) :
    (s.bump c).service.counters = s.service.counters.inc c := rfl
@[simp] theorem State.setSlot_table (s : State) (i : SlotId) (r : RunSlot) :
    (s.setSlot i r).macros.table = s.macros.table := rfl
@[simp] theorem State.setPeer_ownIncarnation (s : State) (a : Addr) (r : PeerRec) :
    (s.setPeer a r).peers.ownIncarnation = s.peers.ownIncarnation := rfl
@[simp] theorem State.setPeer_ownPeriod (s : State) (a : Addr) (r : PeerRec) :
    (s.setPeer a r).peers.ownPeriod = s.peers.ownPeriod := rfl
@[simp] theorem State.setPeer_announceAt (s : State) (a : Addr) (r : PeerRec) :
    (s.setPeer a r).peers.announceAt = s.peers.announceAt := rfl
@[simp] theorem State.setChan_cursor (s : State) (c : Chan) (r : Record) :
    (s.setChan c r).channels.cursor = s.channels.cursor := rfl

/-! Reading a record after writing one. -/

@[simp] theorem State.chan_setChan_self (s : State) (c : Chan) (r : Record) :
    (s.setChan c r).chan c = r := by
  simp [State.chan, State.setChan]

theorem State.chan_setChan_ne (s : State) {c d : Chan} (r : Record) (h : d ≠ c) :
    (s.setChan c r).chan d = s.chan d := by
  simp only [State.chan, State.setChan, Fin.getElem_fin]
  exact Vector.getElem_set_ne _ _ (fun e => h (Fin.ext e.symm))

@[simp] theorem State.chan_mapChans (s : State) (f : Record → Record) (c : Chan) :
    (s.mapChans f).chan c = f (s.chan c) := by
  simp [State.chan, State.mapChans]

@[simp] theorem State.slot_setSlot_self (s : State) (i : SlotId) (r : RunSlot) :
    (s.setSlot i r).slot i = r := by
  simp [State.slot, State.setSlot]

theorem State.slot_setSlot_ne (s : State) {i j : SlotId} (r : RunSlot) (h : j ≠ i) :
    (s.setSlot i r).slot j = s.slot j := by
  simp only [State.slot, State.setSlot, Fin.getElem_fin]
  exact Vector.getElem_set_ne _ _ (fun e => h (Fin.ext e.symm))

@[simp] theorem State.peer_setPeer_self (s : State) (a : Addr) (r : PeerRec) :
    (s.setPeer a r).peer a = r := by
  simp [State.peer, State.setPeer]

theorem State.peer_setPeer_ne (s : State) {a b : Addr} (r : PeerRec) (h : b ≠ a) :
    (s.setPeer a r).peer b = s.peer b := by
  simp only [State.peer, State.setPeer]
  exact Vector.getElem_set_ne _ _ (fun e => h (BitVec.eq_of_toNat_eq e.symm))

@[simp] theorem State.peer_mapPeers (s : State) (f : PeerRec → PeerRec) (a : Addr) :
    (s.mapPeers f).peer a = f (s.peer a) := by
  simp [State.peer, State.mapPeers]

@[simp] theorem State.keyRec_setKey_self (s : State) (k : Key) (st : KeyState) :
    (s.setKey k st).keyRec k = { s.keyRec k with state := st } := by
  simp [State.keyRec, State.setKey]

theorem State.keyRec_setKey_ne (s : State) {k j : Key} (st : KeyState) (h : j ≠ k) :
    (s.setKey k st).keyRec j = s.keyRec j := by
  simp only [State.keyRec, State.setKey, Fin.getElem_fin]
  exact Vector.getElem_set_ne _ _ (fun e => h (Fin.ext e.symm))

end Sys2Proof.Machine
end

