-- ==== Sys2Proof/Laws/Queue.lean ====
section
/-! SUPPORT. What an offer to the Transmit Queue can do (2.2). -/

namespace Sys2Proof.Machine

/-- An eviction takes one entry off the line, a class-3 entry or the ANNOUNCE (R23). -/
theorem TxQueue.evict_eq_some {q q' : TxQueue} (h : q.evict = some q') :
    ∃ pre e post, q.entries = pre ++ e :: post ∧ q'.entries = pre ++ post ∧ e.onLine = false
      ∧ (e.content.cls = 3 ∨ e.content.isAnnounce = true) ∧ q'.evicted = true := by
  unfold TxQueue.evict at h
  split at h
  next es hes =>
    obtain ⟨pre, e, post, h1, h2, h3, _⟩ := removeLast_eq_some hes
    simp only [Option.some.injEq] at h
    simp only [Entry.lowClass, Bool.and_eq_true, beq_iff_eq, Bool.not_eq_true'] at h3
    exact ⟨pre, e, post, h1, by rw [← h, h2], h3.2, .inl h3.1, by rw [← h]⟩
  next =>
    split at h
    next es hes =>
      obtain ⟨pre, e, post, h1, h2, h3, _⟩ := removeLast_eq_some hes
      simp only [Option.some.injEq] at h
      simp only [Entry.idleAnnounce, Bool.and_eq_true, Bool.not_eq_true'] at h3
      exact ⟨pre, e, post, h1, by rw [← h, h2], h3.2, .inr h3.1, by rw [← h]⟩
    next => simp at h

/-- What an admission can leave behind the new entry: the entries there were, or those less one that
was evicted. -/
def TxQueue.Behind (q : TxQueue) (es : List Entry) : Prop :=
  (es = q.entries ∧ q.entries.length < queueSize) ∨ ∃ q', q.evict = some q' ∧ es = q'.entries

theorem TxQueue.admit_cases (q : TxQueue) (c : Content) (dest : Addr) :
    q.placeNew c dest = (.refused, q)
      ∨ ∃ es ev, q.Behind es
          ∧ q.placeNew c dest = (.admitted, { entries := es ++ [Entry.new c dest], evicted := ev })
          ∧ (ev = q.evicted ∨ ev = true) := by
  unfold TxQueue.placeNew
  split
  next h => exact .inr ⟨_, _, .inl ⟨rfl, h⟩, rfl, .inl rfl⟩
  next =>
    split
    next =>
      split
      next q' hq =>
        obtain ⟨_, _, _, _, _, _, _, hev⟩ := TxQueue.evict_eq_some hq
        exact .inr ⟨_, _, .inr ⟨q', hq, rfl⟩, rfl, .inr hev⟩
      next => exact .inl rfl
    next => exact .inl rfl

/-- An offer is refused or answered PRESENT and changes nothing, is coalesced into the youngest CHANGE
for its channel, or is admitted as the youngest entry (R22). -/
theorem TxQueue.offer_cases (q : TxQueue) (st : StationState) (c : Content) (dest : Addr) :
    (q.offer st c dest = (.refused, q) ∨ q.offer st c dest = (.present, q))
      ∨ (∃ t ps, c = .change t ps ∧ q.offer st c dest =
          (.coalesced,
            { q with
              entries :=
                modifyLast (fun e => e.content.isChangeOf t.chan)
                  (fun e => { e with content := e.content.merge t ps }) q.entries }))
      ∨ (∃ es ev, q.Behind es ∧ mayBeSent st c = true
          ∧ (c.isAnnounce = true → q.entries.any (fun e => e.content.isAnnounce) = false)
          ∧ q.offer st c dest = (.admitted, { entries := es ++ [Entry.new c dest], evicted := ev })
          ∧ (ev = q.evicted ∨ ev = true)) := by
  unfold TxQueue.offer
  split
  next hm =>
    have key : (c.isAnnounce = true → q.entries.any (fun e => e.content.isAnnounce) = false) →
        (q.placeNew c dest = (.refused, q) ∨ q.placeNew c dest = (.present, q)) ∨
        (∃ t ps, c = .change t ps ∧ q.placeNew c dest =
          (.coalesced,
            { q with
              entries :=
                modifyLast (fun e => e.content.isChangeOf t.chan)
                  (fun e => { e with content := e.content.merge t ps }) q.entries })) ∨
        (∃ es ev, q.Behind es ∧ mayBeSent st c = true
          ∧ (c.isAnnounce = true → q.entries.any (fun e => e.content.isAnnounce) = false)
          ∧ q.placeNew c dest = (.admitted, { entries := es ++ [Entry.new c dest], evicted := ev })
          ∧ (ev = q.evicted ∨ ev = true)) := by
      intro ha
      rcases q.admit_cases c dest with h | ⟨es, ev, hb, he, hv⟩
      · exact .inl (.inl h)
      · exact .inr (.inr ⟨es, ev, hb, hm, ha, he, hv⟩)
    cases c with
    | announce =>
      simp only [TxQueue.take]
      split
      next => exact .inl (.inr rfl)
      next h => exact key (fun _ => by simpa using h)
    | change t ps =>
      simp only [TxQueue.take]
      split
      next => exact .inr (.inl ⟨t, ps, rfl, rfl⟩)
      next => exact key (fun h => by simp [Content.isAnnounce] at h)
    | _ => exact key (fun h => by simp [Content.isAnnounce] at h)
  next => exact .inl (.inl rfl)

/-- A modification of the youngest entry with a property changes at most that one. -/
theorem modifyLast_cases {α : Type} (p : α → Bool) (f : α → α) (l : List α) :
    modifyLast p f l = l
      ∨ ∃ pre a post, l = pre ++ a :: post ∧ p a = true ∧ modifyLast p f l = pre ++ f a :: post := by
  induction l with
  | nil => exact .inl rfl
  | cons a l ih =>
    simp only [modifyLast]
    split
    next h =>
      exact .inr ⟨[], a, l, rfl, by simpa using (Bool.and_eq_true _ _ ▸ h : _ ∧ _).2, rfl⟩
    next =>
      rcases ih with h | ⟨pre, b, post, h1, h2, h3⟩
      · exact .inl (by rw [h])
      · exact .inr ⟨a :: pre, b, post, by simp [h1], h2, by simp [h3]⟩

/-- An entry that becomes eligible begins its attempt at once, or nothing happens (R9). -/
theorem State.beginAt_cases (s : State) (i : Nat) :
    s.beginAt i = s
      ∨ ∃ e, s.chosen = some (i, e) ∧ s.mayBegin = true ∧ s.beginAt i = s.beginWith i e := by
  unfold State.beginAt
  split
  next j e hc =>
    split
    next h => exact .inr ⟨e, by rw [hc, h.2], h.1, by rw [h.2]⟩
    next => exact .inl rfl
  next => exact .inl rfl

/-- No attempt begins where the Line Unit may begin none. -/
theorem State.beginAt_of_not {s : State} (i : Nat) (h : s.mayBegin = false) : s.beginAt i = s := by
  rcases s.beginAt_cases i with e | ⟨_, _, hm, _⟩
  · exact e
  · rw [h] at hm
    exact absurd hm (by simp)

/-- On a line that is not IDLE no attempt begins. -/
theorem State.mayBegin_of_ne_idle {s : State} (h : s.line.condition ≠ .idle) :
    s.mayBegin = false := by
  simp [State.mayBegin, h]

/-- Where no attempt may begin, an offer touches only the queue. -/
theorem State.offer_of_not {s : State} (c : Content) (dest : Addr) (h : s.mayBegin = false) :
    s.offer c dest =
      ((s.queue.offer s.start.state c dest).1,
        { s with queue := (s.queue.offer s.start.state c dest).2 }) := by
  unfold State.offer
  dsimp only
  split
  · rw [State.beginAt_of_not (s := { s with queue := (s.queue.offer s.start.state c dest).2 }) _ h]
  · rfl

/-- Where no attempt may begin, offers in turn touch only the queue. -/
theorem State.offerAll_of_not {s : State} (dest : Addr) (cs : List Content)
    (h : s.mayBegin = false) : ∃ q, s.offerAll dest cs = { s with queue := q } := by
  unfold State.offerAll
  induction cs generalizing s with
  | nil => exact ⟨s.queue, rfl⟩
  | cons c cs ih =>
    rw [List.foldl_cons, State.offer_of_not c dest h]
    obtain ⟨q, hq⟩ := ih (s := { s with queue := (s.queue.offer s.start.state c dest).2 }) h
    exact ⟨q, hq⟩

/-- An offer gives the queue's answer, and touches only the queue and, on an IDLE line, the Line Unit. -/
theorem State.offer_eq (s : State) (c : Content) (dest : Addr) :
    (s.offer c dest).1 = (s.queue.offer s.start.state c dest).1
      ∧ ∃ q l, (s.offer c dest).2 = { s with queue := q, line := l }
        ∧ (s.mayBegin = false → l = s.line) := by
  refine ⟨rfl, ?_⟩
  unfold State.offer
  dsimp only
  split
  · rcases State.beginAt_cases
        { s with queue := (s.queue.offer s.start.state c dest).2 } _ with e | ⟨x, _, hm, e⟩
    · exact ⟨_, _, e, fun _ => rfl⟩
    · rw [e]
      exact ⟨_, _, rfl, fun h => absurd (h ▸ hm) (by simp)⟩
  · exact ⟨_, _, rfl, fun _ => rfl⟩

end Sys2Proof.Machine
end

