-- ==== Sys2Proof/Laws/Acts.lean ====
section
/-! SUPPORT. What the actions of bindings, runs and requests can do: they work on the channel values,
the Transmit Queue, the Request Table, the run slots, the emitter, the outputs, the flashes and the
counters, they may begin an attempt on an IDLE line, they owe a part of their event only where a rival
comes in it, and they leave everything else. One lemma for each shared operation. -/

namespace Sys2Proof.Machine

/-- A record after actions: its role is kept, a MIRROR or UNUSED record whole, and of a HOME record
all but value, memory level, version, dirty and last origin. -/
def Record.Acted (r r' : Record) : Prop :=
  match r with
  | .home h =>
    ∃ h', r' = .home h' ∧ h'.kind = h.kind ∧ h'.default = h.default ∧ h'.state = h.state
      ∧ h'.heldIncarnation = h.heldIncarnation
  | _ => r' = r

theorem Record.Acted.refl (r : Record) : r.Acted r := by
  cases r <;> simp [Record.Acted]

theorem Record.Acted.trans {r r' r'' : Record} (h : r.Acted r') (h' : r'.Acted r'') :
    r.Acted r'' := by
  cases r with
  | home =>
    obtain ⟨a, rfl, h1, h2, h3, h4⟩ := h
    obtain ⟨b, rfl, k1, k2, k3, k4⟩ := h'
    exact ⟨b, rfl, by rw [k1, h1], by rw [k2, h2], by rw [k3, h3], by rw [k4, h4]⟩
  | unused => simp only [Record.Acted] at h; subst h; exact h'
  | mirror => simp only [Record.Acted] at h; subst h; exact h'

/-- State t is state s after actions. -/
structure State.Acts (s t : State) : Prop where
  now        : t.now = s.now
  pending    : t.pending = s.pending
  taken      : t.taken = s.taken
  rival      : t.rival ≤ s.rival
  owed       : s.rival = 0 → t.owed = s.owed
  line       : s.mayBegin = true ∨ t.line = s.line
  peers      : t.peers = s.peers
  start      : t.start = s.start
  scanner    : t.scanner = s.scanner
  gestures   : t.gestures = s.gestures
  bindings   : t.bindings = s.bindings
  cursor     : t.channels.cursor = s.channels.cursor
  records    : ∀ c, (s.chan c).Acted (t.chan c)
  table      : t.macros.table = s.macros.table
  restart    : t.service.restart = s.service.restart
  emitMap    : t.outputs.emitMap = s.outputs.emitMap
  pulsePhase : t.outputs.pulsePhase = s.outputs.pulsePhase
  codeSets   : t.ir.codeSets = s.ir.codeSets
  clockStart : t.indicators.clockStart = s.indicators.clockStart

namespace State.Acts

theorem refl (s : State) : s.Acts s := by
  constructor <;> first | rfl | exact .inr rfl | exact fun _ => rfl | exact fun c => Record.Acted.refl _

/-- Where no attempt may begin, actions leave the Line Unit. -/
theorem line_of_not {s t : State} (h : s.Acts t) (hb : s.mayBegin = false) : t.line = s.line :=
  h.line.resolve_left (by simp [hb])

theorem trans {s t u : State} (h : s.Acts t) (k : t.Acts u) : s.Acts u where
  now := k.now.trans h.now
  pending := k.pending.trans h.pending
  taken := k.taken.trans h.taken
  rival := k.rival.trans h.rival
  owed h0 := (k.owed (Nat.le_zero.1 (h0 ▸ h.rival))).trans (h.owed h0)
  line := by
    rcases h.line with b | l
    · exact .inl b
    · rcases k.line with b | l'
      · refine .inl ?_
        unfold State.mayBegin at b ⊢
        rw [l, h.restart] at b
        exact b
      · exact .inr (l'.trans l)
  peers := k.peers.trans h.peers
  start := k.start.trans h.start
  scanner := k.scanner.trans h.scanner
  gestures := k.gestures.trans h.gestures
  bindings := k.bindings.trans h.bindings
  cursor := k.cursor.trans h.cursor
  records c := (h.records c).trans (k.records c)
  table := k.table.trans h.table
  restart := k.restart.trans h.restart
  emitMap := k.emitMap.trans h.emitMap
  pulsePhase := k.pulsePhase.trans h.pulsePhase
  codeSets := k.codeSets.trans h.codeSets
  clockStart := k.clockStart.trans h.clockStart

/-- A step after actions is actions. -/
theorem andThen {s t u : State} (h : s.Acts t) (k : t.Acts u) : s.Acts u := h.trans k

theorem foldl {α : Type} {f : State → α → State} (h : ∀ (s : State) (a : α), s.Acts (f s a)) (l : List α)
    (s : State) : s.Acts (l.foldl f s) := by
  induction l generalizing s with
  | nil => exact State.Acts.refl s
  | cons a l ih => exact (h s a).trans (ih _)

end State.Acts

open State.Acts

/-- A state that differs in blocks that actions may change, and holds the same channel records, is a
state after actions. -/
theorem State.Acts.of_blocks (s : State) (dr : Nat) (q : TxQueue) (r : RequestTable) (em : Emitter)
    (sl : Vector RunSlot 2) (ld : Vector LoadOutput 8) (fl : Vector Indicator 8) (ct : Counters) :
    s.Acts
      { s with
        draws := dr, queue := q, requests := r, emitter := em
        macros := { s.macros with slots := sl }
        outputs := { s.outputs with loads := ld }
        indicators := { s.indicators with indicators := fl }
        service := { s.service with counters := ct } } := by
  constructor <;> first | rfl | exact .inr rfl | exact fun _ => rfl | exact fun c => Record.Acted.refl _

theorem State.bump_acts (s : State) (c : Counter) : s.Acts (s.bump c) :=
  State.Acts.of_blocks s s.draws s.queue s.requests s.emitter s.macros.slots s.outputs.loads
    s.indicators.indicators (s.service.counters.inc c)

theorem State.bumpIf_acts (s : State) (b : Bool) (c : Counter) : s.Acts (s.bumpIf b c) := by
  unfold State.bumpIf
  split
  · exact s.bump_acts c
  · exact refl s

theorem State.draw_acts (s : State) : s.Acts s.draw.2 :=
  State.Acts.of_blocks s (s.draws + 1) s.queue s.requests s.emitter s.macros.slots s.outputs.loads
    s.indicators.indicators s.service.counters

theorem State.flash_acts (s : State) (p : IndicatorMap → Bool) : s.Acts (s.flash p) :=
  State.Acts.of_blocks s s.draws s.queue s.requests s.emitter s.macros.slots s.outputs.loads
    _ s.service.counters

theorem State.requestFailed_acts (s : State) (c : Chan) : s.Acts (s.requestFailed c) :=
  (s.bump_acts _).trans (State.flash_acts _ _)

theorem State.setSlot_acts (s : State) (i : SlotId) (r : RunSlot) : s.Acts (s.setSlot i r) :=
  State.Acts.of_blocks s s.draws s.queue s.requests s.emitter _ s.outputs.loads
    s.indicators.indicators s.service.counters

theorem State.tellOutputs_acts (s : State) (c : Chan) (v : Byte) : s.Acts (s.tellOutputs c v) :=
  State.Acts.of_blocks s s.draws s.queue s.requests s.emitter s.macros.slots _
    s.indicators.indicators s.service.counters

theorem State.queue_acts (s : State) (q : TxQueue) : s.Acts { s with queue := q } :=
  State.Acts.of_blocks s s.draws q s.requests s.emitter s.macros.slots s.outputs.loads
    s.indicators.indicators s.service.counters

theorem State.requests_acts (s : State) (r : RequestTable) : s.Acts { s with requests := r } :=
  State.Acts.of_blocks s s.draws s.queue r s.emitter s.macros.slots s.outputs.loads
    s.indicators.indicators s.service.counters

theorem State.emitter_acts (s : State) (e : Emitter) : s.Acts { s with emitter := e } :=
  State.Acts.of_blocks s s.draws s.queue s.requests e s.macros.slots s.outputs.loads
    s.indicators.indicators s.service.counters

theorem IrReceiver.blank_codeSets (r : IrReceiver) (now : Time) :
    (r.blank now).codeSets = r.codeSets := by
  unfold IrReceiver.blank
  split <;> rfl

theorem State.beginEmission_acts (s : State) (e : Emission) : s.Acts (s.beginEmission e) := by
  constructor <;> first
    | rfl
    | exact .inr rfl
    | exact fun _ => rfl
    | exact fun c => Record.Acted.refl _
    | exact IrReceiver.blank_codeSets _ _

theorem State.offerEmission_acts (s : State) (e : Emission) : s.Acts (s.offerEmission e).2 := by
  unfold State.offerEmission
  split
  · exact refl s
  · split
    · exact s.beginEmission_acts e
    · split
      · exact s.emitter_acts _
      · exact refl s

theorem State.offer_acts (s : State) (c : Content) (dest : Addr) : s.Acts (s.offer c dest).2 := by
  obtain ⟨_, q, l, e, hl⟩ := s.offer_eq c dest
  rw [e]
  constructor <;> first
    | rfl
    | exact fun _ => rfl
    | exact fun c => Record.Acted.refl _
    | skip
  cases hb : s.mayBegin with
  | true => exact .inl rfl
  | false => exact .inr (hl hb)

theorem State.offerAll_acts (s : State) (dest : Addr) (cs : List Content) :
    s.Acts (s.offerAll dest cs) :=
  State.Acts.foldl (fun s c => s.offer_acts c dest) cs s

/-- A HOME record replaced by one that actions can make. -/
theorem State.setHome_acts {s : State} {c : Chan} {h h' : HomeRec} (hc : s.chan c = .home h)
    (hk : h'.kind = h.kind) (hd : h'.default = h.default) (hs : h'.state = h.state)
    (hi : h'.heldIncarnation = h.heldIncarnation) : s.Acts (s.setChan c (.home h')) := by
  constructor <;> first
    | rfl
    | exact .inr rfl
    | exact fun _ => rfl
    | skip
  intro d
  by_cases e : d = c
  · subst e
    rw [State.chan_setChan_self, hc]
    exact ⟨h', rfl, hk, hd, hs, hi⟩
  · rw [State.chan_setChan_ne s _ e]
    exact Record.Acted.refl _

/-- A change of a HOME record's dirty flag, or none. -/
theorem State.modifyHome_acts (s : State) (c : Chan) (f : HomeRec → HomeRec)
    (hk : ∀ h, (f h).kind = h.kind) (hd : ∀ h, (f h).default = h.default)
    (hs : ∀ h, (f h).state = h.state) (hi : ∀ h, (f h).heldIncarnation = h.heldIncarnation) :
    s.Acts (s.modifyHome c f) := by
  unfold State.modifyHome
  split
  next h hc => exact State.setHome_acts hc (hk h) (hd h) (hs h) (hi h)
  next => exact refl s

theorem State.emitEntry_acts (c : Chan) (v : Byte) (s : State) (e : EmitEntry) :
    s.Acts (State.emitEntry c v s e) := by
  unfold State.emitEntry
  split
  · exact (s.offerEmission_acts _).trans (State.bumpIf_acts _ _ _)
  · exact refl s

theorem State.emitMap_acts (s : State) (c : Chan) (v : Byte) : s.Acts (s.emitMap c v) :=
  State.Acts.foldl (State.emitEntry_acts c v) _ s

theorem State.offerChange_acts (s : State) (c : Chan) (h : HomeRec) (ps : List Pair) :
    s.Acts (s.offerChange c h ps) := by
  unfold State.offerChange
  dsimp only
  split
  · exact (s.offer_acts _ _).trans
      (State.modifyHome_acts _ _ _ (fun _ => rfl) (fun _ => rfl) (fun _ => rfl) (fun _ => rfl))
  · exact s.offer_acts _ _

theorem State.apply_acts {s : State} {c : Chan} {h : HomeRec} (hc : s.chan c = .home h) (op : Op)
    (x : Byte) (o : Addr) (ps : List Pair) : s.Acts (s.apply c h op x o ps) :=
  (((State.setHome_acts hc (h' := h.applied op x o) rfl rfl rfl rfl).trans
    (State.tellOutputs_acts _ _ _)).trans (State.emitMap_acts _ _ _)).trans
      (State.offerChange_acts _ _ _ _)

theorem State.localOp_acts (s : State) (c : Chan) (op : Op) (x : Byte) :
    s.Acts (s.localOp c op x).2 := by
  unfold State.localOp
  split
  next h hc =>
    split
    · exact State.apply_acts hc op x 0 []
    · exact refl s
  next => exact refl s

theorem State.issue_acts (s : State) (c : Chan) (owner : Addr) (op : Op) (x : Byte)
    (o : Originator) : s.Acts (s.issue c owner op x o).2 := by
  unfold State.issue
  split
  · exact s.requestFailed_acts c
  · split
    · exact s.requestFailed_acts c
    · split
      · exact s.requestFailed_acts c
      · dsimp only
        split
        · exact (s.offer_acts _ _).trans (State.requests_acts _ _)
        · exact (s.offer_acts _ _).trans (State.requestFailed_acts _ _)

theorem State.leaveOrders_acts (s : State) (i : SlotId) : s.Acts (s.leaveOrders i) :=
  (s.requests_acts { s.requests with waiting := s.requests.waiting.filter (· ≠ i) }).trans
    (State.emitter_acts _ { s.emitter with waiting := s.emitter.waiting.filter (· ≠ i) })

theorem State.completeRun_acts (s : State) (i : SlotId) : s.Acts (s.completeRun i) :=
  s.setSlot_acts _ _

theorem State.failRun_acts (s : State) (i : SlotId) : s.Acts (s.failRun i) :=
  (s.setSlot_acts _ _).trans (State.flash_acts _ _)

theorem State.abortRun_acts (s : State) (i : SlotId) : s.Acts (s.abortRun i) :=
  (s.leaveOrders_acts i).trans (State.setSlot_acts _ _ _)

theorem State.channelStep_acts (s : State) (i : SlotId) (r : RunSlot) (c : Chan) (op : Op)
    (x : Byte) : s.Acts (s.channelStep i r c op x).2 := by
  unfold State.channelStep
  split
  next m _ =>
    have k := s.issue_acts c m.owner op x (.run i r.generation)
    revert k
    generalize s.issue c m.owner op x (.run i r.generation) = a
    intro k
    obtain ⟨a, u⟩ := a
    cases a with
    | made => exact k.trans (State.setSlot_acts _ _ _)
    | ownerAbsent => exact k.trans (State.setSlot_acts _ _ _)
    | busy => exact (k.trans (State.setSlot_acts _ _ _)).trans (State.requests_acts _ _)
  next =>
    exact (s.localOp_acts c op x).trans (State.setSlot_acts _ _ _)

theorem State.emitStep_acts (s : State) (i : SlotId) (r : RunSlot) (e : Emission) :
    s.Acts (s.emitStep i r e).2 := by
  unfold State.emitStep
  dsimp only
  split
  · exact (s.offerEmission_acts e).trans (State.setSlot_acts _ _ _)
  · exact ((s.offerEmission_acts e).trans (State.setSlot_acts _ _ _)).trans (State.emitter_acts _ _)

theorem State.confirmStep_acts (s : State) (i : SlotId) (r : RunSlot) (b : Bool) :
    s.Acts (s.confirmStep i r b).2 := by
  unfold State.confirmStep
  split
  · split
    · exact s.failRun_acts i
    · exact s.setSlot_acts _ _
  · exact s.setSlot_acts _ _

theorem State.callStep_acts (s : State) (i : SlotId) (r : RunSlot) (m : MacroId) :
    s.Acts (s.callStep i r m).2 := by
  unfold State.callStep
  split
  · exact s.setSlot_acts _ _
  · exact s.failRun_acts i

theorem State.macroEnd_acts (s : State) (i : SlotId) (r : RunSlot) : s.Acts (s.macroEnd i r).2 := by
  unfold State.macroEnd
  split
  · exact s.completeRun_acts i
  · exact s.setSlot_acts _ _

theorem State.runStep_acts (s : State) (i : SlotId) : s.Acts (s.runStep i).2 := by
  unfold State.runStep
  dsimp only
  split
  · exact s.macroEnd_acts _ _
  · exact s.channelStep_acts _ _ _ _ _
  · exact s.setSlot_acts _ _
  · exact s.confirmStep_acts _ _ _
  · exact s.emitStep_acts _ _ _
  · exact s.callStep_acts _ _ _

theorem State.runSteps_acts (n : Nat) (i : SlotId) (s : State) : s.Acts (State.runSteps n i s) := by
  induction n generalizing s with
  | zero => exact refl s
  | succ n ih =>
    have k := s.runStep_acts i
    simp only [State.runSteps]
    split
    next t e => rw [e] at k; exact k.trans (ih t)
    next t e => rw [e] at k; exact k

theorem State.resume_acts (s : State) (i : SlotId) : s.Acts (s.resume i) :=
  (s.setSlot_acts _ _).trans (State.runSteps_acts _ _ _)

theorem State.resumeNext_acts (s : State) (i : SlotId) : s.Acts (s.resumeNext i) :=
  (s.setSlot_acts _ _).trans (State.runSteps_acts _ _ _)

/-- The grant before the one that rivals come before is made (R95). -/
theorem State.granting_acts (s : State) (r : RequestTable) (e : Emitter) :
    s.Acts { s with rival := s.rival - 1, requests := r, emitter := e } := by
  constructor <;> first
    | rfl
    | exact Nat.sub_le _ _
    | exact .inr rfl
    | exact fun _ => rfl
    | exact fun c => Record.Acted.refl _

/-- A part of an event is owed only where a rival comes in the event. -/
theorem State.owe_acts {s : State} (h : s.rival ≠ 0) (o : Owing) : s.Acts (s.owe o) := by
  constructor <;> first
    | rfl
    | exact .inr rfl
    | exact fun h0 => absurd h0 h
    | exact fun c => Record.Acted.refl _

/-- A state behind which parts are owed has a rival. -/
theorem State.behind_iff (s : State) : s.behind = true ↔ s.rival ≠ 0 ∧ s.owed ≠ [] := by
  simp [State.behind]

/-- Without a rival every part of an event is done at once. -/
@[simp] theorem State.thenDo_of_no_rival {s : State} (h : s.rival = 0) (o : Owing)
    (part : State → State) : s.thenDo o part = part s := by
  simp [State.thenDo, State.behind, h]

/-- The next part of an event is done or owed. -/
theorem State.thenDo_acts {part : State → State} (h : ∀ s : State, s.Acts (part s)) (s : State)
    (o : Owing) : s.Acts (s.thenDo o part) := by
  unfold State.thenDo
  split
  next hb => exact State.owe_acts (s.behind_iff.1 hb).1 o
  next => exact h s

theorem State.grants_acts (n : Nat) (s : State) : s.Acts (State.grants n s) := by
  induction n generalizing s with
  | zero => exact refl s
  | succ n ih =>
    simp only [State.grants]
    split
    · exact refl s
    · split
      · split
        next h => exact State.owe_acts (by omega) _
        next =>
          exact ((s.granting_acts _ s.emitter).trans (State.resume_acts _ _)).trans (ih _)
      · exact refl s

theorem State.grantOccasion_acts (s : State) : s.Acts s.grantOccasion :=
  s.thenDo_acts (State.grants_acts 3) _

theorem State.settle_acts (s : State) : s.Acts s.settle := by
  unfold State.settle
  split
  · exact ((s.queue_acts _).trans (State.grantOccasion_acts _)).trans (State.queue_acts _ _)
  · exact refl s

theorem State.outcomeToRun_acts (s : State) (i : SlotId) (t : Byte) (b : Bool) :
    s.Acts (s.outcomeToRun i t b) := by
  unfold State.outcomeToRun
  dsimp only
  split
  · exact refl s
  · split
    · exact (s.setSlot_acts _ _).trans (State.resume_acts _ _)
    · exact s.setSlot_acts _ _

theorem State.routeOutcome_acts (s : State) (e : ReqEntry) (b : Bool) :
    s.Acts (s.routeOutcome e b) := by
  unfold State.routeOutcome
  split
  · exact refl s
  · split
    · exact s.outcomeToRun_acts _ _ _
    · exact refl s

theorem State.withdrawRequest_acts (s : State) (t : Byte) : s.Acts (s.withdrawRequest t) := by
  unfold State.withdrawRequest
  split
  · exact refl s
  · split
    · exact s.queue_acts _
    · exact (s.queue_acts _).trans (State.grantOccasion_acts _)

theorem State.removeRequest_acts (s : State) (t : Byte) : s.Acts (s.removeRequest t) :=
  s.requests_acts _

theorem State.conclude_acts (s : State) (e : ReqEntry) (o : ReqOutcome) :
    s.Acts (s.conclude e o) := by
  unfold State.conclude
  split
  · exact s.routeOutcome_acts _ _
  · exact (s.requestFailed_acts _).trans (State.routeOutcome_acts _ _ _)

theorem State.finish_acts (e : ReqEntry) (o : ReqOutcome) (s : State) :
    s.Acts (State.finish e o s) :=
  ((s.removeRequest_acts e.tag).trans (State.grantOccasion_acts _)).trans
    (State.thenDo_acts (fun s => s.conclude_acts e o) _ _)

theorem State.endRequest_acts (s : State) (t : Byte) (o : ReqOutcome) :
    s.Acts (s.endRequest t o) := by
  unfold State.endRequest
  split
  · exact refl s
  next e _ =>
    refine State.Acts.trans ?_ (State.thenDo_acts (State.finish_acts e o) _ _)
    split
    · exact s.withdrawRequest_acts t
    · exact refl s

theorem State.cancelTags_acts (n : Nat) (ts : List Byte) (s : State) :
    s.Acts (State.cancelTags n ts s) := by
  induction n generalizing ts s with
  | zero => cases ts <;> exact refl s
  | succ n ih =>
    match ts with
    | [] => exact refl s
    | [t] => exact s.endRequest_acts t _
    | t :: u :: ts =>
      simp only [State.cancelTags]
      exact (s.draw_acts.trans (State.endRequest_acts _ _ _)).trans
        (State.thenDo_acts (fun s => ih _ s) _ _)

theorem State.cancelRequests_acts (s : State) (a : Addr) : s.Acts (s.cancelRequests a) :=
  State.cancelTags_acts _ _ _

theorem State.matchPair_acts (s : State) (a : Addr) (c : Chan) (p : Pair) :
    s.Acts (s.matchPair a c p) := by
  unfold State.matchPair
  split
  · split
    · split
      · exact s.endRequest_acts _ _
      · exact refl s
    · exact refl s
  · exact refl s

theorem State.matchPairs_acts (s : State) (a : Addr) (c : Chan) (ps : List Pair) :
    s.Acts (s.matchPairs a c ps) :=
  State.Acts.foldl (fun s p => s.thenDo_acts (fun s => s.matchPair_acts a c p) _) ps s

/-- Without a rival the pairs are taken one after another (R85). -/
theorem State.matchPairs_of_no_rival {s : State} (h : s.rival = 0) (a : Addr) (c : Chan)
    (ps : List Pair) : s.matchPairs a c ps = ps.foldl (fun s p => s.matchPair a c p) s := by
  unfold State.matchPairs
  induction ps generalizing s with
  | nil => rfl
  | cons p ps ih =>
    simp only [List.foldl_cons, State.thenDo_of_no_rival h]
    exact ih (Nat.le_zero.1 (h ▸ (s.matchPair_acts a c p).rival))

theorem State.startIn_acts (s : State) (i : SlotId) (m : MacroId) : s.Acts (s.startIn i m) :=
  (s.setSlot_acts _ _).trans (State.resume_acts _ _)

theorem State.startMacro_acts (s : State) (m : MacroId) : s.Acts (s.startMacro m) := by
  unfold State.startMacro
  split
  · exact (s.abortRun_acts _).trans (State.startIn_acts _ _ _)
  · split
    · exact s.startIn_acts _ _
    · exact s.flash_acts _

theorem State.stopMacro_acts (s : State) (m : MacroId) : s.Acts (s.stopMacro m) := by
  unfold State.stopMacro
  split
  · exact s.abortRun_acts _
  · exact refl s

theorem State.emitAction_acts (s : State) (e : Emission) : s.Acts (s.emitAction e) := by
  unfold State.emitAction
  dsimp only
  split
  · exact s.offerEmission_acts e
  · exact ((s.offerEmission_acts e).trans (State.bump_acts _ _)).trans (State.flash_acts _ _)

theorem State.channelAction_acts (s : State) (c : Chan) (op : Op) (x : Byte) :
    s.Acts (s.channelAction c op x) := by
  unfold State.channelAction
  split
  · exact s.issue_acts _ _ _ _ _
  · exact s.localOp_acts _ _ _

theorem State.perform_acts (s : State) (b : Binding) : s.Acts (s.perform b) := by
  unfold State.perform
  split
  · exact s.channelAction_acts _ _ _
  · exact s.startMacro_acts _
  · exact s.stopMacro_acts _
  · exact s.emitAction_acts _

/-- A gesture acts through its bindings, or is counted (R130). -/
theorem State.gesture_acts (s : State) (src : Source) (tr : Trigger) :
    s.Acts (s.gesture src tr) := by
  unfold State.gesture
  split
  · exact State.Acts.foldl State.perform_acts _ s
  · exact s.bump_acts _

theorem State.emitterGrant_acts (s : State) : s.Acts s.emitterGrant := by
  unfold State.emitterGrant
  split
  · split
    · split
      next h => exact State.owe_acts (by omega) _
      next => exact (s.granting_acts s.requests _).trans (State.resume_acts _ _)
    · exact refl s
  · exact refl s

theorem State.placeFreed_acts (s : State) : s.Acts s.placeFreed :=
  s.thenDo_acts State.emitterGrant_acts _

/-- What is owed of an event that is no frame's is done by actions. -/
theorem State.pay_acts (s : State) {o : Owing} (h : o.ofFrame = false) (hf : ∀ a, o ≠ .fetch a) :
    s.Acts (s.pay o) := by
  cases o with
  | table => exact s.grantOccasion_acts
  | emitter => exact s.emitterGrant_acts
  | removal e out =>
    simp only [State.pay]
    split
    · exact State.finish_acts e out s
    · exact refl s
  | conclusion e out => exact s.conclude_acts e out
  | cancels tags => exact State.cancelTags_acts _ _ _
  | pair a c p => exact s.matchPair_acts a c p
  | fetch a => exact absurd rfl (hf a)
  | handing => simp [Owing.ofFrame] at h
  | malformed => simp [Owing.ofFrame] at h

/-- A calm state. -/
theorem State.calm_eq {s : State} (h0 : s.rival = 0) (ho : s.owed = []) : s.calm 0 = s := by
  cases s
  simp_all [State.calm]

/-- An event whose grants no other event comes before is the passage of time, its effect, and the
departure notices. -/
theorem event_next {dt : Moment} {s : State} {effect : State → State}
    (h : s.start.hold = .none) (ht : s.taken = 0) (hr : s.rivals = []) (h0 : s.rival = 0)
    (ho : s.owed = []) :
    event dt s effect = .next (effect (s.advance dt)).settle := by
  simp [event, State.withRivals, State.happens, h, ht, hr, State.calm_eq h0 ho]

/-- A rival that an event meets is a rival beside it. -/
theorem State.metBy_eq_some {s t : State} {c : Instr} (h : s.metBy c = some t) :
    t = s.beside c ∧ s.owed ≠ [] ∧ t.start.state = .active := by
  unfold State.metBy at h
  dsimp only at h
  split at h
  · exact absurd h (by simp)
  next ho =>
    split at h
    next ha =>
      obtain rfl := Option.some.inj h
      exact ⟨rfl, fun h0 => ho (.inl h0), ha⟩
    next => exact absurd h (by simp)

/-- An event is the passage of time, or its effect, or its effect up to a grant, a rival, and then the rest
of it with the rivals still to come. -/
theorem event_cases (dt : Moment) (s : State) (effect : State → State) :
    (event dt s effect = .next (s.advance dt) ∧ s.start.hold ≠ .none)
      ∨ (event dt s effect = .next { s.advance dt with taken := s.taken - 1 } ∧ s.taken ≠ 0)
      ∨ event dt s effect = .next ((s.calm 0).happens dt effect)
      ∨ ∃ c cs t, s.rivals = c :: cs
          ∧ ((s.calm (moment c).rival).happens dt effect).metBy c = some t
          ∧ event dt s effect = .next { (t.meet cs).2 with taken := (t.meet cs).1 + 1 } := by
  unfold event
  split
  next h => exact .inl ⟨rfl, h⟩
  next =>
    split
    next h => exact .inr (.inl ⟨rfl, h⟩)
    next =>
      unfold State.withRivals
      split
      · exact .inr (.inr (.inl rfl))
      next c cs hc =>
        split
        next t ht => exact .inr (.inr (.inr ⟨c, cs, t, hc, ht, rfl⟩))
        next => exact .inr (.inr (.inl rfl))

/-- What every effect keeps, and time, every part that can be owed, and the model's own fields too, every
event keeps. -/
theorem event_keeps {P : State → Prop} {dt : Moment} {s t : State} {effect : State → State}
    (own : ∀ u rival owed taken, P u → P { u with rival := rival, owed := owed, taken := taken })
    (time : ∀ u d, P u → P (u.advance d)) (settle : ∀ u, P u → P u.settle)
    (pay : ∀ u o, P u → P (u.pay o)) (this : ∀ u, P u → P (effect u))
    (others : ∀ u c, isReset c = false → P u → P (effectOf c u)) (hs : P s)
    (h : event dt s effect = .next t) : P t := by
  have goOn : ∀ (u : State) (n : Nat), P u → P (u.goOn n) := by
    intro u n hu
    have pays : ∀ (l : List Owing) (v : State), P v →
        P (l.foldl (fun s o => s.thenDo o fun s => s.pay o) v) := by
      intro l
      induction l with
      | nil => exact fun v hv => hv
      | cons o l ih =>
        refine fun v hv => ih _ ?_
        show P (v.thenDo o fun s => s.pay o)
        unfold State.thenDo
        split
        · exact own v v.rival _ v.taken hv
        · exact pay v o hv
    exact settle _ (pays _ _ (own u _ _ u.taken hu))
  have beside : ∀ (u v : State) (c : Instr), isReset c = false → P u → u.metBy c = some v →
      P v := by
    intro u v c hc hu hv
    rw [(State.metBy_eq_some hv).1]
    exact own _ _ _ _ (settle _ (others _ c hc (time _ _ (own u _ _ u.taken hu))))
  have meet : ∀ (l : List Instr) (u : State), (∀ c ∈ l, isReset c = false) → P u →
      P (u.meet l).2 := by
    intro l
    induction l with
    | nil => exact fun u _ hu => goOn u 0 hu
    | cons c l ih =>
      intro u hl hu
      simp only [State.meet]
      split
      next v hv =>
        exact ih v (fun d hd => hl d (List.mem_cons_of_mem _ hd))
          (beside _ v c (hl c (List.mem_cons_self ..)) (goOn u _ hu) hv)
      next => exact goOn u 0 hu
  rcases event_cases dt s effect with ⟨e, _⟩ | ⟨e, _⟩ | e | ⟨c, cs, u, hc, hu, e⟩ <;> rw [e] at h <;>
    obtain rfl := Host.Outcome.next.inj h
  · exact time s dt hs
  · exact own _ _ _ _ (time s dt hs)
  · exact settle _ (this _ (time _ dt (own _ _ _ _ hs)))
  · have noReset : ∀ d ∈ c :: cs, isReset d = false := by
      intro d hd
      rw [← hc] at hd
      have hr := List.mem_takeWhile_imp hd
      simp only [isRival, Bool.and_eq_true, Bool.not_eq_true'] at hr
      exact hr.2
    exact own _ _ _ _
      (meet cs u (fun d hd => noReset d (List.mem_cons_of_mem _ hd))
        (beside _ u c (noReset c (List.mem_cons_self ..))
          (settle _ (this _ (time _ _ (own s _ _ s.taken hs)))) hu))

/-- While the part is held, only time passes (R99). -/
theorem event_held {dt : Moment} {s : State} {effect : State → State}
    (h : s.start.hold ≠ .none) : event dt s effect = .next (s.advance dt) := by
  simp [event, h]

/-- Every command that is no reset is an event with its effect; on a held part a dominant edge still changes
the level of the line (R5). -/
theorem exec_eq_event {c : Instr} (s : State) (h : isReset c = false)
    (hd : s.start.hold = .none ∨ ∀ dt low, c ≠ .dominantEdge ⟨dt, low⟩) :
    exec c s = event (moment c) s (effectOf c) := by
  cases c with
  | dominantEdge read =>
    rcases hd with hd | hd
    · simp only [exec, execDominantEdge, hd, if_true, moment, effectOf]
    · exact absurd rfl (hd read.dt read.low)
  | _ => first | rfl | simp [isReset] at h

/-- A state that owes no departure notice is settled. -/
theorem State.settle_of_not_evicted {s : State} (h : s.queue.evicted = false) : s.settle = s := by
  simp [State.settle, h]

end Sys2Proof.Machine
end

