-- ==== Sys2Proof/Laws/Frames.lean ====
section
/-! SUPPORT. What an event answers; what a frame row does, by how the frame is judged, and what each
block of the receiving side can change; the choice of an entry and the endings of an attempt. -/

namespace Sys2Proof.Machine

/-- An awake part has no command that had its effect already. -/
theorem State.Awake.taken {s : State} (h : s.Awake) : s.taken = 0 := h.2.2.2.2.1

/-- Before an awake part no rival waits. -/
theorem State.Awake.rivals {s : State} (h : s.Awake) : s.rivals = [] := h.2.2.2.2.2

/-- An awake part's event is the passage of time, its effect, and the departure notices. -/
theorem State.Awake.event {s : State} (h : s.Awake) (dt : Moment) (effect : State → State) :
    event dt s effect = .next (effect (s.advance dt)).settle :=
  event_next h.1 h.taken h.rivals h.2.2.1 h.2.2.2.1

/-- An event with its effect, where no eviction of the event owes its notice. -/
theorem event_eq {effect : State → State} {s t : State} {dt : Moment} (awake : s.Awake)
    (he : effect (s.advance dt) = t) (ht : t.queue.evicted = false) :
    event dt s effect = .next t := by
  rw [awake.event, he, State.settle_of_not_evicted ht]

/-- Without an attempt the passage of time leaves the Line Unit. -/
theorem State.advance_line_none {s : State} (dt : Moment) (h : s.line.attempt = none) :
    (s.advance dt).line = s.line := by
  simp [State.advance, LineUnit.at, h]

/-- Every frame row is the reception of its frame. -/
theorem exec_frameRow {c : Instr} {kind : BitVec 4} {rx : Rx} (h : frameRow c = some (kind, rx))
    {s : State} (awake : s.Awake) :
    exec c s = .next ((s.advance (moment c)).receive kind rx).settle := by
  cases c <;> simp only [frameRow, Option.some.injEq, Prod.mk.injEq, reduceCtorEq] at h <;>
    (obtain ⟨rfl, rfl⟩ := h; exact awake.event _ _)

/-- A station that is receiving begins no attempt. -/
theorem State.Hears.mayBegin {s : State} {kind : BitVec 4} {rx : Rx} (h : s.Hears kind rx) :
    s.mayBegin = false := by
  simp [State.mayBegin, h.2.1]

/-- Time changes nothing of what the Line Unit hears. -/
theorem State.Hears.advance {s : State} {kind : BitVec 4} {rx : Rx} (h : s.Hears kind rx)
    (dt : Moment) : (s.advance dt).Hears kind rx := by
  have l := State.advance_line_of_no_attempt (s := s) dt h.1
  unfold State.Hears State.receivesBits
  rw [l]
  exact h

theorem State.receive_of_hears {s : State} {kind : BitVec 4} {rx : Rx} (h : s.Hears kind rx) :
    s.receive kind rx =
      if headerPasses kind rx = false then s.headerFailure
      else if checkPasses kind rx = false then s.garbledFrame (frameOf kind rx)
      else if wellFormed s.channels.records (frameOf kind rx) then s.takenFrame (frameOf kind rx)
      else s.malformedFrame (frameOf kind rx) := by
  unfold State.receive
  rw [if_pos ⟨h.2.1, h.2.2⟩]

theorem State.receive_of_bad_header {s : State} {kind : BitVec 4} {rx : Rx} (h : s.Hears kind rx)
    (hp : headerPasses kind rx = false) : s.receive kind rx = s.headerFailure := by
  rw [s.receive_of_hears h, if_pos hp]

theorem State.receive_of_bad_check {s : State} {kind : BitVec 4} {rx : Rx} (h : s.Hears kind rx)
    (hp : headerPasses kind rx = true) (hc : checkPasses kind rx = false) :
    s.receive kind rx = s.garbledFrame (frameOf kind rx) := by
  rw [s.receive_of_hears h, if_neg (by simp [hp]), if_pos hc]

theorem State.receive_of_malformed {s : State} {kind : BitVec 4} {rx : Rx}
    (h : s.HearsValid kind rx) (hw : wellFormed s.channels.records (frameOf kind rx) = false) :
    s.receive kind rx = s.malformedFrame (frameOf kind rx) := by
  rw [s.receive_of_hears h.1, if_neg (by simp [h.2.1]), if_neg (by simp [h.2.2]),
    if_neg (by simp [hw])]

theorem State.receive_of_taken {s : State} {kind : BitVec 4} {rx : Rx} (h : s.HearsTaken kind rx) :
    s.receive kind rx = s.takenFrame (frameOf kind rx) := by
  rw [s.receive_of_hears h.1.1, if_neg (by simp [h.1.2.1]), if_neg (by simp [h.1.2.2]),
    if_pos h.2]

theorem State.HearsTaken.advance {s : State} {kind : BitVec 4} {rx : Rx}
    (h : s.HearsTaken kind rx) (dt : Moment) : (s.advance dt).HearsTaken kind rx :=
  ⟨⟨h.1.1.advance dt, h.1.2⟩, h.2⟩

theorem State.HearsValid.advance {s : State} {kind : BitVec 4} {rx : Rx}
    (h : s.HearsValid kind rx) (dt : Moment) : (s.advance dt).HearsValid kind rx :=
  ⟨h.1.advance dt, h.2⟩

/-- A taken frame of a known sender is handed on from the state `heardFrom` names, with no notice. -/
theorem State.takenFrame_of_known {s : State} {kind : BitVec 4} {rx : Rx} (h : s.KnowsSender rx)
    (h0 : s.rival = 0) :
    s.takenFrame (frameOf kind rx) =
      (((s.heardFrom (frameOf kind rx)).handFrame (frameOf kind rx) false).2).answering
        (frameOf kind rx)
        (.taken ((s.heardFrom (frameOf kind rx)).handFrame (frameOf kind rx) false).1) := by
  obtain ⟨h1, h2, h3, h4, h5⟩ := h
  have e : (s.bump .framesTaken).evidence rx.source rx.incarnation (frameOf kind rx).period? =
      (false, s.heardFrom (frameOf kind rx)) := by
    have hp : ((s.bump .framesTaken).peer rx.source) = s.peer rx.source := rfl
    simp only [State.evidence, State.bump_start, h1, h2, if_false, hp, PeerRec.becomesPresent, h3,
      Bool.true_eq_false, bne_self_eq_false, Bool.and_false, Prod.mk.injEq, true_and]
    simp only [State.peerClaims, PeerRec.rejoins, h4, h5, bne_self_eq_false, Bool.and_false,
      if_false, Bool.false_eq_true]
    simp only [State.heardFrom, PeerRec.heard, h5, if_false, frameOf, State.bump_now]
    congr 1
    cases hr : s.peer rx.source
    simp_all
  simp only [State.takenFrame]
  rw [show (frameOf kind rx).source = rx.source from rfl,
    show (frameOf kind rx).incarnation = rx.incarnation from rfl, e]
  exact State.thenDo_of_no_rival (s := s.heardFrom (frameOf kind rx)) h0 _ _

/-- Triples at the records touch the records and the counters. -/
theorem State.judge_eq (src : Addr) (i : Byte) (s : State) (x : Triple) :
    ∃ v ct, State.judge src i s x =
      { s with
        channels := { s.channels with records := v }
        service := { s.service with counters := ct } } := by
  unfold State.judge
  split
  · exact ⟨_, _, rfl⟩
  · exact ⟨_, _, rfl⟩
  · split
    · exact ⟨_, _, rfl⟩
    · split
      · exact ⟨_, _, rfl⟩
      · exact ⟨_, _, rfl⟩

theorem State.judgeAll_eq (s : State) (src : Addr) (i : Byte) (xs : List Triple) :
    ∃ v ct, s.judgeAll src i xs =
      { s with
        channels := { s.channels with records := v }
        service := { s.service with counters := ct } } := by
  induction xs generalizing s with
  | nil => exact ⟨_, _, rfl⟩
  | cons x xs ih =>
    obtain ⟨v, ct, h⟩ := State.judge_eq src i s x
    obtain ⟨v', ct', h'⟩ := ih (State.judge src i s x)
    refine ⟨v', ct', ?_⟩
    unfold State.judgeAll at h' ⊢
    rw [List.foldl_cons, h', h]

/-- A FETCH is never admitted by an eviction. -/
theorem TxQueue.offer_fetch (q : TxQueue) (st : StationState) (cs : List Chan) (dest : Addr) :
    q.offer st (.fetch cs) dest =
      if mayBeSent st (.fetch cs) = true ∧ q.entries.length < 12 then
        (.admitted, q.join (Entry.new (.fetch cs) dest))
      else (.refused, q) := by
  unfold TxQueue.offer
  by_cases hm : mayBeSent st (.fetch cs) = true
  · by_cases hl : q.entries.length < 12
    · simp [hm, hl, TxQueue.take, TxQueue.placeNew, queueSize]
    · simp [hm, hl, TxQueue.take, TxQueue.placeNew, queueSize, Content.cls, Content.kind, kindFetch,
        kindClass]
  · simp [hm]

/-- Where no attempt may begin, a FETCH decision touches the queue and the owner's flag, and evicts
nothing (R75). -/
theorem State.fetchDecision_eq {s : State} (a : Addr) (hb : s.mayBegin = false) :
    s.fetchDecision a = s
      ∨ s.fetchDecision a =
          ({ s with
              queue := s.queue.join (Entry.new (.fetch (s.wanted a)) a) } : State).setPeer a
            { s.peer a with fetchOut := true } := by
  unfold State.fetchDecision
  split
  · rw [State.offer_of_not _ _ hb, TxQueue.offer_fetch]
    by_cases h : mayBeSent s.start.state (.fetch (s.wanted a)) = true ∧ s.queue.entries.length < 12
    · right; simp only [h, and_self, if_true]; rfl
    · left; simp [h]
  · exact .inl rfl

/-- The choice of the entry for an attempt: the oldest of the lowest class (R28). -/
theorem bestEligible_spec {st : StationState} {l : List Entry} {k j : Nat} {e : Entry}
    (h : bestEligible st k l = some (j, e)) :
    ∃ before after, l = before ++ e :: after ∧ j = k + before.length ∧ e.eligible st = true
      ∧ (∀ g ∈ before, g.eligible st = true → e.content.cls < g.content.cls)
      ∧ ∀ g ∈ after, g.eligible st = true → e.content.cls ≤ g.content.cls := by
  induction l generalizing k j e with
  | nil => simp [bestEligible] at h
  | cons a l ih =>
    have none_in : ∀ (m : List Entry) (i : Nat), bestEligible st i m = none →
        ∀ g ∈ m, g.eligible st = false := by
      intro m
      induction m with
      | nil => simp
      | cons b m ihm =>
        intro i hm
        cases hb : bestEligible st (i + 1) m with
        | some x =>
          simp only [bestEligible, hb] at hm
          split at hm <;> simp at hm
        | none =>
          simp only [bestEligible, hb] at hm
          by_cases hbe : b.eligible st = true
          · simp [hbe] at hm
          · intro g hg
            rcases List.mem_cons.mp hg with rfl | hg
            · simpa using hbe
            · exact ihm _ hb g hg
    cases hb : bestEligible st (k + 1) l with
    | none =>
      simp only [bestEligible, hb] at h
      by_cases ha : a.eligible st = true
      · simp only [ha, if_true, Option.some.injEq, Prod.mk.injEq] at h
        obtain ⟨rfl, rfl⟩ := h
        refine ⟨[], l, rfl, by simp, ha, by simp, ?_⟩
        intro g hg hge
        rw [none_in l _ hb g hg] at hge
        exact absurd hge (by simp)
      · simp [ha] at h
    | some x =>
      obtain ⟨j', b⟩ := x
      obtain ⟨before, after, h1, h2, h3, h4, h5⟩ := ih hb
      simp only [bestEligible, hb] at h
      split at h
      next hc =>
        simp only [Option.some.injEq, Prod.mk.injEq] at h
        obtain ⟨rfl, rfl⟩ := h
        simp only [Bool.and_eq_true, decide_eq_true_eq] at hc
        refine ⟨[], l, rfl, by simp, hc.1, by simp, ?_⟩
        intro g hg hge
        rw [h1] at hg
        rcases List.mem_append.mp hg with hg | hg
        · exact le_of_lt (lt_of_le_of_lt hc.2 (h4 g hg hge))
        · rcases List.mem_cons.mp hg with rfl | hg
          · exact hc.2
          · exact le_trans hc.2 (h5 g hg hge)
      next hc =>
        simp only [Option.some.injEq, Prod.mk.injEq] at h
        obtain ⟨rfl, rfl⟩ := h
        refine ⟨a :: before, after, by simp [h1], by simp [h2]; omega, h3, ?_, h5⟩
        intro g hg hge
        rcases List.mem_cons.mp hg with rfl | hg
        · simp only [hge, Bool.true_and, decide_eq_true_eq, not_le] at hc
          exact hc
        · exact h4 g hg hge

/-- An eligible entry gives a choice (R27). -/
theorem bestEligible_isSome {st : StationState} {l : List Entry} (k : Nat) {f : Entry} (hf : f ∈ l)
    (he : f.eligible st = true) : (bestEligible st k l).isSome = true := by
  induction l generalizing k with
  | nil => simp at hf
  | cons a l ih =>
    simp only [bestEligible]
    cases hb : bestEligible st (k + 1) l with
    | some x =>
      obtain ⟨j, b⟩ := x
      by_cases h : (a.eligible st && decide (a.content.cls ≤ b.content.cls)) = true
      · simp only [h, if_true, Option.isSome_some]
      · simp only [h, Bool.false_eq_true, if_false, Option.isSome_some]
    | none =>
      rcases List.mem_cons.mp hf with rfl | hf
      · simp [he]
      · have := ih (k + 1) hf
        simp [hb] at this

/-- The only entry on the line is found, removed and changed where it stands. -/
theorem onLine_at {before after : List Entry} {e : Entry} (h : e.onLine = true)
    (hb : ∀ f ∈ before, f.onLine = false) (g : Entry → Entry) :
    (before ++ e :: after).find? Entry.onLine = some e
      ∧ (before ++ e :: after).eraseP Entry.onLine = before ++ after
      ∧ modifyFirst Entry.onLine g (before ++ e :: after) = before ++ g e :: after := by
  induction before with
  | nil => simp [h, modifyFirst]
  | cons a l ih =>
    simp only [List.mem_cons, forall_eq_or_imp] at hb
    obtain ⟨h1, h2, h3⟩ := ih hb.2
    simp [hb.1, h1, h2, h3, modifyFirst]

/-- Behind which no part is owed, an occasion gives the grants (R95). -/
theorem State.grantOccasion_of_not_behind {s : State} (h : s.behind = false) :
    s.grantOccasion = State.grants 3 s := by
  simp [State.grantOccasion, State.thenDo, h]

/-- The grant that a rival comes before is owed (R96). -/
theorem State.grants_of_rival {s : State} {i : SlotId} {rest : List SlotId} {n : Nat}
    (hw : s.requests.waiting = i :: rest) (hr : s.requestRoom = true) (h1 : s.rival = 1) :
    State.grants (n + 1) s = s.owe .table := by
  simp [State.grants, hw, hr, h1]

/-- With no slot waiting a departure leads to no grant (R95). -/
theorem State.grantOccasion_of_none {s : State} (h : s.requests.waiting = [])
    (hb : s.behind = false) : s.grantOccasion = s := by
  simp [State.grantOccasion, State.thenDo, hb, State.grants, h]

/-! ### Taken frames of a known sender -/

/-- In the three states that hear peers, a frame is handed over by kind (R16). -/
theorem State.handFrame_of_hears {s : State} {f : Frame} (h : s.start.state.hearsPeers = true) :
    s.handFrame f false = s.handOver f false := by
  unfold State.handFrame
  cases hs : s.start.state <;> simp_all [StationState.hearsPeers]

/-- A frame whose triples are not judged, without a notice, goes to its block alone. -/
theorem State.handOver_plain {s : State} {f : Frame} (h : kindJudged f.kind.toNat = false) :
    s.handOver f false = s.handByKind f := by
  unfold State.handOver
  rw [h]
  by_cases hq : f.kind = kindQuery <;> simp [hq]

/-- What a frame row answers for a taken frame of a known sender, from what its hand-over gives. -/
theorem exec_taken {c : Instr} {kind : BitVec 4} {rx : Rx} {s t : State} {dt : Moment} {b : Bool}
    (hf : frameRow c = some (kind, rx)) (hdt : moment c = dt) (awake : s.Awake)
    (hv : s.HearsTaken kind rx) (hs : s.KnowsSender rx)
    (hb : ((s.advance dt).heardFrom (frameOf kind rx)).handFrame (frameOf kind rx) false = (b, t)) :
    exec c s = .next (t.answering (frameOf kind rx) (.taken b)).settle := by
  rw [exec_frameRow hf awake, hdt, State.receive_of_taken (hv.advance dt),
    State.takenFrame_of_known (s := s.advance dt) hs awake.2.2.1, hb]

/-- An addressed kind that is taken has a nonzero destination (R15). -/
theorem State.HearsTaken.addressed {s : State} {kind : BitVec 4} {rx : Rx}
    (h : s.HearsTaken kind rx) (hk : kindBroadcast kind.toNat = false) : rx.destination ≠ 0 := by
  intro h0
  have hw := h.2
  simp only [wellFormed, Bool.and_eq_true] at hw
  have h5 : (kindBroadcast kind.toNat == (rx.destination == 0)) = true := hw.1.1.1.1.1.1.2
  simp [hk, h0] at h5

/-- A frame for the own address is this station's (R6). -/
theorem State.isMine_of_own {s : State} {kind : BitVec 4} {rx : Rx}
    (hd : rx.destination = s.start.ownAddress) (hz : rx.destination ≠ 0) :
    s.isMine (frameOf kind rx) = true := by
  unfold State.isMine
  rw [show (frameOf kind rx).destination = rx.destination from rfl]
  simp [hd]
  rw [← hd]
  exact hz

/-! ### A frame being received (R2) -/

/-- An edge leaves the bits whose sample has passed, and judges those whose sample is still to come by
when the line is released. -/
theorem Reception.hear_append {bits last : List Bool} {past recent : List Time} {now : Time}
    (released : Time) (starts : Bool) (hl : last.length = recent.length)
    (hp : ∀ edge ∈ past, edge + 50 < now) (hr : ∀ edge ∈ recent, now ≤ edge + 50) :
    Reception.hear { bits := bits ++ last, recent := past ++ recent } now released starts =
      let read := bits ++ List.zipWith (fun b edge => b && sampleBit (released - edge)) last recent
      if starts then
        { bits := read ++ [sampleBit (released - now)], recent := recent ++ [now] }
      else { bits := read, recent := recent } := by
  have kept : (past ++ recent).filter (fun edge => decide (now ≤ edge + sampleTime)) = recent := by
    rw [List.filter_append, List.filter_eq_nil_iff.2, List.filter_eq_self.2, List.nil_append]
    · exact fun e he => decide_eq_true (hr e he)
    · exact fun e he => by
        rw [decide_eq_true_eq]
        exact Nat.not_le.2 (hp e he)
  have cut : (bits ++ last).length - recent.length = bits.length := by
    rw [List.length_append, hl, Nat.add_sub_cancel]
  simp only [Reception.hear, kept, cut, List.take_left, List.drop_left]

/-! ### The endings of an attempt -/

/-- The entry on the line is found, taken out, and changed where it stands. -/
theorem State.Sends.onLine {s : State} {before after : List Entry} {e : Entry}
    (h : s.Sends before e after) (g : Entry → Entry) :
    s.queue.onLine = some e ∧ s.queue.entries.eraseP Entry.onLine = before ++ after
      ∧ modifyFirst Entry.onLine g s.queue.entries = before ++ g e :: after := by
  obtain ⟨q1, q2, q3, q4⟩ := h
  obtain ⟨m1, m2, m3⟩ := onLine_at (before := before) (after := after) q2
    (fun f hf => q4 f (List.mem_append_left _ hf)) g
  exact ⟨by rw [TxQueue.onLine, q1, m1], by rw [q1, m2], by rw [q1, m3]⟩

/-- A failed attempt that is not the fourth holds the entry back (R31). -/
theorem State.handBack_failed {s : State} {before after : List Entry} {e : Entry}
    (h : s.Sends before e after) (hn : e.attempts < 3) :
    s.handBack (.ended .failed) =
      { s with
        queue :=
          { s.queue with
            entries :=
              before ++
                { e with
                  onLine := false, carried := Carried.none, attempts := e.attempts + 1
                  holdBack := some (s.now + 20 * ms) } :: after } } := by
  have m := h.onLine fun e =>
    { e with
      onLine := false, carried := Carried.none, attempts := e.attempts + 1
      holdBack := some (s.now + 20 * ms) }
  unfold State.handBack
  rw [m.1]
  show (if e.withdrawn = true then _ else if e.attempts < 3 then _ else _) = _
  rw [if_neg (by simp [h.2.2.1]), if_pos hn]
  exact congrArg (fun es => ({ s with queue := { s.queue with entries := es } } : State)) m.2.2

/-- An arbitration loss returns the entry to READY (R30). -/
theorem State.handBack_lost {s : State} {before after : List Entry} {e : Entry}
    (h : s.Sends before e after) :
    s.handBack .lost =
      { s with
        queue :=
          { s.queue with
            entries :=
              before ++ { e with onLine := false, carried := Carried.none } :: after } } := by
  have m := h.onLine fun e => { e with onLine := false, carried := Carried.none }
  unfold State.handBack
  rw [m.1]
  show (if e.withdrawn = true then _ else _) = _
  rw [if_neg (by simp [h.2.2.1])]
  exact congrArg (fun es => ({ s with queue := { s.queue with entries := es } } : State)) m.2.2

/-- Every other ending takes the entry from the queue, tells its producer, and gives the departure
notice (R31, R33). -/
theorem State.handBack_leaves {s : State} {before after : List Entry} {e : Entry} {o : Outcome}
    (h : s.Sends before e after) (ho : o = .failed → e.attempts = 3) :
    s.handBack (.ended o) =
      (({ s with queue := { s.queue with entries := before ++ after } } : State).tellProducer e
        o).grantOccasion := by
  have m := h.onLine id
  have d : s.dequeue = { s with queue := { s.queue with entries := before ++ after } } := by
    rw [State.dequeue, m.2.1]
  unfold State.handBack
  rw [m.1]
  simp only [h.2.2.1, Bool.false_eq_true, if_false]
  cases o with
  | failed => simp only [mostRetries, ho rfl, lt_irrefl, if_false, State.leaveWith, d]
  | _ => simp only [State.leaveWith, d]

/-! ### A scan (R119) -/

/-- One row of a scan sets the readings of its own keys alone (R119). -/
theorem readRow_getLsbD (columns : Vector (BitVec 6) 8) (down : BitVec 48) (row : Fin 8) (k : Key) :
    (readRow columns down row).getLsbD k.val =
      (down.getLsbD k.val ||
        (decide (k.val / 6 = row.val) && (columns[row]).getLsbD (k.val % 6))) := by
  obtain ⟨k, hk⟩ := k
  obtain ⟨r, hr⟩ := row
  simp only [readRow, BitVec.getLsbD_or, BitVec.getLsbD_shiftLeft, BitVec.getLsbD_setWidth]
  congr 1
  by_cases h : k / 6 = r
  · have h1 : k - 6 * r = k % 6 := by omega
    have h2 : ¬ k < 6 * r := by omega
    have h3 : k % 6 < 48 := by omega
    simp [h, h1, h2, h3, hk]
  · by_cases h2 : k < 6 * r
    · simp [h, h2]
    · have h3 : 6 ≤ k - 6 * r := by omega
      simp [h, BitVec.getLsbD_of_ge _ _ h3]

/-- A key's reading is its column's level while its row is driven (R119). -/
theorem reads_readings (columns : Vector (BitVec 6) 8) (k : Key) :
    reads (readings columns) k =
      (columns[k.val / 6]'(by have := k.isLt; omega)).getLsbD (k.val % 6) := by
  have fold : ∀ (rows : List (Fin 8)) (down : BitVec 48),
      (rows.foldl (readRow columns) down).getLsbD k.val =
        (down.getLsbD k.val ||
          rows.any fun row => decide (k.val / 6 = row.val) && (columns[row]).getLsbD (k.val % 6)) := by
    intro rows
    induction rows with
    | nil => simp
    | cons row rows ih =>
      intro down
      simp only [List.foldl_cons, ih, readRow_getLsbD, List.any_cons, Bool.or_assoc]
  have hk : k.val / 6 < 8 := by have := k.isLt; omega
  have start : (0 : BitVec 48).getLsbD k.val = false := by simp
  rw [reads, readings, fold, start, Bool.false_or]
  rw [Bool.eq_iff_iff, List.any_eq_true]
  constructor
  · rintro ⟨row, -, h⟩
    simp only [Bool.and_eq_true, decide_eq_true_eq] at h
    obtain ⟨h1, h2⟩ := h
    simpa [h1] using h2
  · intro h
    exact ⟨⟨k.val / 6, hk⟩, List.mem_finRange _, by simpa using h⟩

end Sys2Proof.Machine
end

