-- ==== Sys2Proof/Tests/Slice0.lean ====
section
/-! SUPPORT. Tests of the model on small states: the well-formedness of commands, values the manual
prints, one small effect of each command, and, for every statement with hypotheses, a state and operands
that meet all of them together. -/

namespace Sys2Proof.Tests

open Sys2Proof.Machine

/-! ### Small states -/

/-- Station 4, ACTIVE, with HOME channels 2 (SWITCH) and 5 (LEVEL), the MIRROR channel 30 (SWITCH) of
station 7, which is PRESENT, on an IDLE line. -/
def base : State :=
  { State.reset with
    line := { LineUnit.reset with condition := .idle }
    peers :=
      { PeerTable.reset with
        ownIncarnation := 1, ownPeriod := 10
        records :=
          PeerTable.reset.records.set 7
            { presence := .present, incarnation := 1, period := some 10, silentAt := some 9000,
              fetchOut := false } }
    channels :=
      { ChannelTable.reset with
        records :=
          ((ChannelTable.reset.records.set 2
            (.home
              { kind := .switch, value := 0, default := 1, memory := 0, version := 5,
                heldIncarnation := 1, state := .live, dirty := false, lastOrigin := 0 })).set 5
            (.home
              { kind := .level, value := 250, default := 10, memory := 10, version := 4095,
                heldIncarnation := 1, state := .live, dirty := true, lastOrigin := 7 })).set 30
            (.mirror
              { kind := .switch, owner := 7, value := 1, version := 9, heldIncarnation := 1,
                state := .fresh }) }
    scanner := { KeyScanner.reset with settling := 0, scanAt := some 0 }
    start := { StartController.reset with hold := .none, state := .active, ownAddress := 4 } }

/-- A command some time after the one before it, no rival of it. -/
def alone (after : Time) : Moment := ⟨after, 0⟩

/-- The state in another station state. -/
def inState (s : State) (st : StationState) : State := { s with start := { s.start with state := st } }

/-- The state with a frame being received, none of it read yet. -/
def hearing (s : State) : State :=
  { s with line := { s.line with condition := .busy, activity := .receiving, reception := some ⟨[], []⟩ } }

/-- The state with a line that is not IDLE, on which an offer begins no attempt. -/
def onBusy (s : State) : State := { s with line := { s.line with condition := .busy } }

/-- The state with the line dominant from time 0 until a moment. -/
def pulled (s : State) (freed : Time) : State :=
  { s with
    line := { s.line with wire := { edge := 0, others := freed, freed := freed, quiet := freed } } }

/-- A frame from a station, to a destination. -/
def frameFrom (source : Addr) (incarnation : Byte) (kind : BitVec 4) (dest : Addr)
    (body : List Byte) : Rx :=
  Frame.toRx
    { cls := kindClass kind.toNat, source := source, kind := kind, destination := dest,
      incarnation := incarnation, body := body }

/-- A frame of station 7 under its recorded incarnation. -/
def of7 (kind : BitVec 4) (dest : Addr) (body : List Byte) : Rx := frameFrom 7 1 kind dest body

/-- The state with some queue entries. -/
def queued (s : State) (es : List Entry) : State := { s with queue := { s.queue with entries := es } }

/-- An entry on the line. -/
def sentEntry (c : Content) (dest : Addr) (attempts : Nat) : Entry :=
  { Entry.new c dest with onLine := true, attempts := attempts }

/-- The state with the only entry on the line, its attempt begun at time 0. -/
def sending (s : State) (c : Content) (dest : Addr) (attempts : Nat) : State :=
  let e := sentEntry c dest attempts
  let e := { e with carried := s.carriedBy c }
  { queued s [e] with
    line :=
      { s.line with
        condition := .busy, activity := .arbitrating
        attempt := some { start := 0, frame := s.frameFor e } } }

/-- The attempt in progress. -/
def attemptOf (s : State) : Attempt :=
  s.line.attempt.getD { start := 0, frame := s.frameFor (Entry.new .announce 0) }

/-- A CHANGE of channel 2 as it stands in `base`. -/
def change2 : Content := .change { chan := 2, value := 0, version := 5 } []

/-- A request entry for channel 30. -/
def request3 (st : ReqState) (o : Originator) : ReqEntry :=
  { tag := 3, chan := 30, op := .set, operand := 1, owner := 7, state := st, origin := o }

/-- The state with some request entries. -/
def asking (s : State) (es : List ReqEntry) : State :=
  { s with requests := { s.requests with entries := es } }

/-- An emission of set 0, twice. -/
def emission0 : Emission := { set := 0, code := 0x5A, repeats := 2 }

/-- A code set: 4000 and 2000 µs leader, 500 µs bit mark, 500 and 1500 µs spaces, 1000 µs hold space,
8 bits. -/
def set0 : CodeSet :=
  { leaderMark := 4000, leaderSpace := 2000, bitMark := 500, zeroSpace := 500, oneSpace := 1500,
    holdSpace := 1000, bitCount := 8, framePeriod := 100, releaseTimeout := 150, carrier := 38,
    tolerance := 20 }

/-- The state with the code set and a receiver in some condition. -/
def receiver (s : State) (level : Bool) (d : Decoder) (held : Option HeldCode) : State :=
  { s with
    ir :=
      { s.ir with codeSets := [set0], level := level, decoder := d, since := some 0, held := held } }

/-- The state that a command answers. -/
def after (c : Instr) (s : State) : State :=
  match exec c s with
  | .next t => t
  | .fault f => nomatch f
  | .refused _ => s

/-! ### Well-formedness -/

/-- A body of 16 bytes, which no length field can declare. -/
def longRx : Rx := of7 kindAnnounce 0 (List.replicate 16 0)

theorem test_wf_long_bodies_are_refused :
    (Instr.announce (alone 0) longRx).wf = false ∧ (Instr.change (alone 0) longRx).wf = false
      ∧ (Instr.request (alone 0) longRx).wf = false ∧ (Instr.fetch (alone 0) longRx).wf = false
      ∧ (Instr.state (alone 0) longRx).wf = false ∧ (Instr.recall (alone 0) longRx).wf = false
      ∧ (Instr.recallReply (alone 0) longRx).wf = false ∧ (Instr.reply (alone 0) longRx).wf = false
      ∧ (Instr.restart (alone 0) longRx).wf = false
      ∧ (Instr.querySummary (alone 0) { longRx with body := 1 :: longRx.body }).wf = false
      ∧ (Instr.frameOfUnknownKind (alone 0) 11 longRx).wf = false
      ∧ (Instr.queryUnknownItem (alone 0) longRx).wf = false := by decide

theorem test_wf_longest_body_is_taken :
    (Instr.announce (alone 0) (of7 kindAnnounce 0 (List.replicate 15 0))).wf = true := by decide

theorem test_wf_query_items :
    (Instr.querySummary (alone 0) (of7 kindQuery 4 [2, 0])).wf = false
      ∧ (Instr.queryChannel (alone 0) (of7 kindQuery 4 [1, 0])).wf = false
      ∧ (Instr.queryPeer (alone 0) (of7 kindQuery 4 [4, 0])).wf = false
      ∧ (Instr.queryCounters (alone 0) (of7 kindQuery 4 [3, 0])).wf = false
      ∧ (Instr.queryUnknownItem (alone 0) (of7 kindQuery 4 [4, 0])).wf = false
      ∧ (Instr.querySummary (alone 0) (of7 kindQuery 4 [1, 0])).wf = true
      ∧ (Instr.queryUnknownItem (alone 0) (of7 kindQuery 4 [5, 0])).wf = true := by decide

theorem test_wf_unknown_kinds :
    (Instr.frameOfUnknownKind (alone 0) 1 (of7 1 0 [])).wf = false
      ∧ (Instr.frameOfUnknownKind (alone 0) 10 (of7 10 0 [])).wf = false
      ∧ (Instr.frameOfUnknownKind (alone 0) 0 (of7 0 0 [])).wf = true
      ∧ (Instr.frameOfUnknownKind (alone 0) 11 (of7 11 0 [])).wf = true := by decide

theorem test_no_word_spells_a_command :
    decodeTableWord 8 0 = none ∧ State.reset.withFetchWord 8 0 = State.reset := ⟨rfl, rfl⟩

/-! ### Values the manual prints -/

/-- Table 3-2. -/
theorem test_incarnation_order :
    later 7 6 = true ∧ later 1 255 = true ∧ later 130 3 = true ∧ later 131 3 = false
      ∧ later 3 131 = true ∧ later 40 40 = false := by decide

/-- Table 4-2. -/
theorem test_version_order :
    newer 39 37 = true ∧ newer 0 4095 = true ∧ newer 2048 1 = true ∧ newer 2049 1 = false
      ∧ newer 1 2049 = false ∧ newer 5 5 = false := by decide

/-- Table 6-4. -/
theorem test_new_incarnation :
    nextIncarnation 0 = 1 ∧ nextIncarnation 6 = 7 ∧ nextIncarnation 254 = 255
      ∧ nextIncarnation 255 = 1 := by decide

/-- Table 8-2: the leader and bit windows of set 0, at their ends. -/
theorem test_windows :
    inWindow 9000 20 (7200 * us) = true ∧ inWindow 9000 20 (10800 * us) = true
      ∧ inWindow 9000 20 (7200 * us - 1) = false ∧ inWindow 9000 20 (10800 * us + 1) = false
      ∧ inWindow 560 20 (448 * us) = true ∧ inWindow 560 20 (672 * us) = true
      ∧ pastWindow 560 20 (672 * us) = false ∧ pastWindow 560 20 (672 * us + 1) = true := by decide

/-- Table 4-7 at its ends. -/
theorem test_operations :
    opResult .switch .toggle 0 1 0 = 0 ∧ opResult .level .toggle 0 0 77 = 77
      ∧ opResult .level .toggle 0 9 77 = 0 ∧ opResult .level .stepUp 20 250 0 = 255
      ∧ opResult .level .stepDown 20 7 0 = 0 ∧ opResult .select .stepUp 3 14 0 = 1
      ∧ opResult .select .stepDown 3 1 0 = 14 ∧ opValid .select .set 16 = false
      ∧ opValid .switch .stepUp 1 = false ∧ opValid .level .stepUp 0 = false := by decide

/-- A frame has 40 + 8b bits before its answer window, and its two checks hold as computed. -/
theorem test_frame_bits :
    let rx := of7 kindRestart 4 [1]
    (rxBits kindRestart rx).length = 48 ∧ headerPasses kindRestart rx = true
      ∧ checkPasses kindRestart rx = true
      ∧ (rxBits kindRestart rx).take 28
        = [true, true, false, false, true, true, true, true, false, true, false, false, false,
            true, false, false, false, false, false, false, false, false, false, true, false,
            false, false, true] := by decide +kernel

/-- In LOADING every indicator blinks fast (Table 10-3); a load output with duty 0 is never active, an
emitter at rest drives no carrier, and a line without attempt or answer is not driven. -/
theorem test_pins :
    State.reset.indicatorPin 0 = true
      ∧ ({ State.reset with now := 125 * ms } : State).indicatorPin 0 = false
      ∧ base.loadPin 0 = false ∧ base.carrierPin = false ∧ base.lineDriven = false := by decide

/-! ### One effect of each command -/

theorem test_powerOn :
    (after (.powerOn (alone 5) 4) State.reset).start.ownAddress = 4
      ∧ (after (.powerOn (alone 5) 4) State.reset).start.state = .loading
      ∧ (after (.powerOn (alone 5) 0) State.reset).start.fault = .badAddress := by decide

theorem test_resetPin :
    (after (.resetPinAsserted (alone 5)) base).start.hold = .pin
      ∧ (after (.resetPinReleased (alone 5) 9) (after (.resetPinAsserted (alone 5)) base)).start.cause = .pin
      ∧ (after (.resetPinReleased (alone 5) 9) (after (.resetPinAsserted (alone 5)) base)).start.count = 2
      ∧ (after (.resetPinReleased (alone 5) 9) (after (.resetPinAsserted (alone 5)) base)).start.ownAddress = 9 := by
  decide

theorem test_imageRead :
    (after (.imageRead (alone 5) none) (inState base .loading)).start.fault = .noMemory
      ∧ (after (.imageRead (alone 5) (some 0xA5)) (inState base .loading)).start.loaded = [0xA5]
      ∧ (after (.imageRead (alone 5) (some 0x46)) (inState base .loading)).start.state = .loading := by decide

theorem test_idleDeclaration :
    (after (.idleDeclaration (alone 500)) (hearing base)).line.condition = .idle
      ∧ (after (.idleDeclaration (alone 499)) (hearing base)).line.condition = .busy
      ∧ (after (.idleDeclaration (alone 500)) (hearing base)).service.counters.framesCut = 1 := by decide

theorem test_lineStuck :
    (after (.lineStuck (alone 2000)) (pulled (hearing base) 2001)).line.condition = .stuck
      ∧ (after (.lineStuck (alone 1999)) (pulled (hearing base) 2001)).line.condition = .busy
      ∧ (after (.lineStuck (alone 2000)) (pulled (hearing base) 2000)).line.condition = .busy
      ∧ (after (.lineStuck (alone 2000)) (pulled (sending base change2 0 3) 2001)).queue.entries = []
      ∧ (after (.lineStuck (alone 2000))
          (pulled (sending base change2 0 3) 2001)).service.counters.attemptsFailed = 1 := by
  decide

/-- Class order and age (R28): the class-0 request goes before the older CHANGE. -/
theorem test_attemptBegin :
    (after (.attemptBegin (alone 3))
        (queued base [Entry.new change2 0, Entry.new (.request 3 30 .set 1) 7])).line.attempt.map
      (fun a => a.frame.body) = some [3, 30, 1, 1] := by decide

/-- A CHANGE begins 0, 1: bit 1 is sent as 1, and a 0 read at its sample loses the arbitration. -/
theorem test_arbitrationLoss :
    (after (.arbitrationLoss ⟨alone 150, 75⟩ 1) (sending base change2 0 1)).line.reception
        = some ⟨[false, false], []⟩
      ∧ (after (.arbitrationLoss ⟨alone 150, 75⟩ 1) (sending base change2 0 1)).queue.entries.map Entry.attempts
        = [1]
      ∧ (after (.arbitrationLoss ⟨alone 150, 50⟩ 1) (sending base change2 0 1)).line.activity = .arbitrating
      ∧ (after (.arbitrationLoss ⟨alone 149, 75⟩ 1) (sending base change2 0 1)).line.activity = .arbitrating
      ∧ (after (.arbitrationLoss ⟨alone 50, 75⟩ 0) (sending base change2 0 1)).line.activity = .arbitrating := by
  decide

/-- The line as another station drives it dominant in an own attempt begun at time 0: an edge, and for how
long. -/
def heardIn (s : State) (edge low : Time) : State := after (.dominantEdge ⟨alone edge, low⟩) s

/-- Behind this station's own release of a bit sent as 1, an edge of another station is read at the sample,
25 µs after the own edge, and loses the arbitration (R2, R10); the dominant run is that edge's (R3). One
that is released at the sample, or comes behind it, does not. -/
theorem test_edge_behind_the_own_release :
    let lost := after (.arbitrationLoss ⟨alone 20, 25⟩ 1) (heardIn (sending base change2 0 1) 130 40)
    lost.line.reception = some ⟨[false, false], []⟩ ∧ lost.line.attempt = none
      ∧ lost.line.wire = { edge := 130, others := 170, freed := 170, quiet := 230 }
      ∧ (after (.arbitrationLoss ⟨alone 20, 25⟩ 1)
          (heardIn (sending base change2 0 1) 130 20)).line.activity = .arbitrating
      ∧ (after (.arbitrationLoss ⟨alone 0, 25⟩ 1)
          (heardIn (sending base change2 0 1) 160 40)).line.activity = .arbitrating
      ∧ (after (.bitError ⟨alone 20, 25⟩) (heardIn (sending base change2 0 1) 930 40)).line.activity
        = .ignoring := by decide

/-- The same in the slot TAKEN of a REQUEST, whose edge is at 7200: the edge of another station behind the
own release asserts it (R2, R19). -/
theorem test_slot_by_an_edge_behind_the_own_release :
    let s := sending (asking base [request3 .queued .binding]) (.request 3 30 .set 1) 7 3
    (after (.answerWindowRead (alone 270) 25 25 25) (heardIn s 7230 40)).queue.entries = []
      ∧ (after (.answerWindowRead (alone 270) 25 25 25)
          (heardIn s 7230 40)).service.counters.framesDelivered = 1
      ∧ (after (.answerWindowRead (alone 240) 25 25 25)
          (heardIn s 7260 40)).service.counters.attemptsFailed = 1 := by decide

/-- Bit 0 of a CHANGE is sent as 0, and bit 9 as 1. -/
theorem test_bitError :
    (after (.bitError ⟨alone 50, 25⟩) (sending base change2 0 1)).queue.entries.map Entry.attempts = [2]
      ∧ (after (.bitError ⟨alone 50, 25⟩) (sending base change2 0 1)).line.activity = .ignoring
      ∧ (after (.bitError ⟨alone 50, 75⟩) (sending base change2 0 1)).line.activity = .arbitrating
      ∧ (after (.bitError ⟨alone 950, 51⟩) (sending base change2 0 1)).line.activity = .ignoring := by decide

theorem test_answerWindowRead :
    (after (.answerWindowRead (alone 7500) 25 25 50) (sending base change2 0 0)).queue.entries = []
      ∧ ((after (.answerWindowRead (alone 7500) 25 25 51) (sending base change2 0 3)).chan 2
          == .home
            { kind := .switch, value := 0, default := 1, memory := 0, version := 5,
              heldIncarnation := 1, state := .live, dirty := true, lastOrigin := 0 }) = true
      ∧ (after (.answerWindowRead (alone 7499) 25 25 25) (sending base change2 0 0)).line.attempt
        = (sending base change2 0 0).line.attempt := by decide

theorem test_holdBackExpiry :
    (after (.holdBackExpiry (alone 9) 0)
        (onBusy (queued base [{ Entry.new change2 0 with holdBack := some 9 }]))).queue.entries
        = [Entry.new change2 0]
      ∧ (after (.holdBackExpiry (alone 9) 0)
        (queued base [{ Entry.new change2 0 with holdBack := some 9 }])).line.attempt.map
          Attempt.start = some 9 := by decide

theorem test_announce :
    (after (.announce (alone 9) (of7 kindAnnounce 0 [20, 30, 0, 0, 10])) (hearing base)).chan 30
        = .mirror
          { kind := .switch, owner := 7, value := 0, version := 10, heldIncarnation := 1,
            state := .fresh }
      ∧ ((after (.announce (alone 9) (of7 kindAnnounce 0 [20, 30, 0, 0, 10])) (hearing base)).peer 7).period
        = some 20 := by decide +kernel

theorem test_change :
    (after (.change (alone 9) (of7 kindChange 0 [30, 0, 0, 10, 4, 3]))
        (hearing (asking base [request3 (.sent 90) .binding]))).requests.entries = []
      ∧ (after (.change (alone 9) (of7 kindChange 0 [2, 0, 0, 10])) (hearing
          base)).service.counters.ownershipConflicts = 1 := by decide +kernel

theorem test_request :
    (after (.request (alone 9) (of7 kindRequest 4 [3, 5, 3, 20])) (hearing base)).chan 5
        = .home
          { kind := .level, value := 255, default := 10, memory := 255, version := 0,
            heldIncarnation := 1, state := .live, dirty := true, lastOrigin := 7 }
      ∧ (after (.request (alone 9) (of7 kindRequest 4 [3, 5, 3, 20])) (hearing base)).queue.entries
        = [Entry.new (.change { chan := 5, value := 255, version := 0 } [{ address := 7, tag := 3 }]) 0]
      ∧ (after (.request (alone 9) (of7 kindRequest 4 [3, 2, 3, 20])) (hearing base)).line.answer
        = some { slot := .declined, seen := 0 } := by decide +kernel

theorem test_fetch :
    (after (.fetch (alone 9) (of7 kindFetch 4 [2, 30, 5, 2])) (hearing base)).queue.entries
        = [Entry.new (.state [2, 5]) 7]
      ∧ (after (.fetch (alone 9) (of7 kindFetch 4 [30])) (hearing base)).line.answer
        = some { slot := .declined, seen := 0 } := by decide +kernel

theorem test_state :
    (after (.state (alone 9) (of7 kindState 9 [30, 0, 0, 10])) (hearing base)).chan 30
        = .mirror
          { kind := .switch, owner := 7, value := 0, version := 10, heldIncarnation := 1,
            state := .fresh }
      ∧ (after (.state (alone 9) (of7 kindState 9 [30, 0, 0, 10])) (hearing base)).line.answer = none := by
  decide +kernel

theorem test_recall :
    (after (.recall (alone 9) (frameFrom 7 0 kindRecall 0 [30])) (hearing base)).queue.entries
        = [Entry.new (.recallReply 1 [30]) 7]
      ∧ ((after (.recall (alone 9) (frameFrom 7 0 kindRecall 0 [30])) (hearing base)).peer 7).presence
        = .joining := by decide +kernel

/-- JOINING with an open collection. -/
def joining : State :=
  let s := inState base .joining
  { s with
    start := { s.start with collection := some { latest := 0, triples := [] }, recallAt := some 8000 } }

theorem test_recallReply :
    (after (.recallReply (alone 9) (of7 kindRecallReply 4 [6, 2, 1, 0, 3])) (hearing joining)).start.collection
        = some { latest := 6, triples := [{ chan := 2, value := 1, version := 3 }] }
      ∧ (after (.recallReply (alone 9) (of7 kindRecallReply 4 [6])) (hearing
          base)).service.counters.lateRecallReplies = 1 := by decide +kernel

theorem test_query :
    (after (.querySummary (alone 9) (of7 kindQuery 4 [1, 0])) (hearing base)).queue.entries
        = [Entry.new (.reply [1, 0, 4, 1, 1, 1, 0, 0, 0, 2, 1, 1]) 7]
      ∧ (after (.queryChannel (alone 9) (of7 kindQuery 4 [2, 30])) (hearing base)).queue.entries
        = [Entry.new (.reply [2, 30, 2, 1, 7, 1, 0, 9, 1, 5, 0, 0, 0, 0]) 7]
      ∧ (after (.queryPeer (alone 9) (of7 kindQuery 4 [3, 7])) (hearing base)).queue.entries
        = [Entry.new (.reply [3, 7, 2, 1, 10, 1, 44, 0]) 7]
      ∧ (after (.queryCounters (alone 9) (of7 kindQuery 4 [4, 0])) (hearing base)).queue.entries
        = [Entry.new (.reply [4, 0, 0, 1, 0, 0, 0, 0, 0, 0, 0, 0, 0, 0]) 7]
      ∧ (after (.queryUnknownItem (alone 9) (of7 kindQuery 4 [5, 0])) (hearing base)).line.answer
        = some { slot := .declined, seen := 0 } := by decide +kernel

theorem test_reply :
    (after (.reply (alone 9) (of7 kindReply 4 [1, 0])) (hearing base)).line.answer
      = some { slot := .declined, seen := 0 } := by decide +kernel

theorem test_restart :
    (after (.restart (alone 9) (of7 kindRestart 4 [1])) (hearing base)).service.restart = .atTime 309
      ∧ (after (.restart (alone 9) (of7 kindRestart 4 [2])) (hearing base)).service.restart = .clear
      ∧ (after (.pendingRestart (alone 300) 4)
          (after (.restart (alone 9) (of7 kindRestart 4 [1])) (hearing base))).start.state = .listening := by
  decide +kernel

theorem test_silenceDeadlineExpiry :
    ((after (.silenceDeadlineExpiry (alone 9000) 7) base).peer 7).presence = .silent
      ∧ ((after (.silenceDeadlineExpiry (alone 8999) 7) base).peer 7).presence = .present := by decide

theorem test_announceTimerExpiry :
    (after (.announceTimerExpiry (alone 9))
        (onBusy { base with peers := { base.peers with announceAt := some 9 } })).queue.entries
        = [Entry.new .announce 0]
      ∧ (after (.announceTimerExpiry (alone 9))
        { base with peers := { base.peers with announceAt := some 9 } }).line.attempt.map
          (fun a => a.frame.body) = some [10, 5, 250, 15, 255, 2, 0, 0, 5] := by decide +kernel

theorem test_listenWindowExpiry :
    (after (.listenWindowExpiry (alone 9))
        (onBusy
          { inState base .listening with
            start :=
              { (inState base .listening).start with listenAt := some 9 } })).queue.entries
      = [Entry.new (.recall [2, 5]) 0] := by decide

theorem test_recallWindowExpiry :
    (after (.recallWindowExpiry (alone 8000)) joining).start.state = .active
      ∧ (after (.recallWindowExpiry (alone 8000)) joining).peers.ownIncarnation = 1
      ∧ ((after (.recallWindowExpiry (alone 8000)) joining).chan 2
          == .home
            { kind := .switch, value := 1, default := 1, memory := 0, version := 1,
              heldIncarnation := 1, state := .live, dirty := false, lastOrigin := 0 }) = true := by
  decide +kernel

theorem test_confirmDeadlineExpiry :
    (after (.confirmDeadlineExpiry (alone 90) 3) (asking base [request3 (.sent 90) .binding])).requests.entries
        = []
      ∧ (after (.confirmDeadlineExpiry (alone 90) 3)
          (asking base [request3 (.sent 90) .binding])).service.counters.requestsFailed = 1 := by decide

/-- Key 7 is read down for the third time. -/
def thirdReading : State :=
  { inState base .joining with
    scanner :=
      { base.scanner with
        keys := base.scanner.keys.set 7 { state := .up, count := 2 }, scanAt := some 0 } }

/-- The columns of a scan that finds no key down. -/
def noColumns : Vector (BitVec 6) 8 := Vector.replicate 8 0

/-- The columns of a scan that finds key 7 down, in column 1 of row 1. -/
def column7 : Vector (BitVec 6) 8 := noColumns.set 1 2

theorem test_scan :
    (after (.scan (alone 0) column7) thirdReading).scanner.pressed
        = [{ key := 7, stuckAt := 30000 * ms }]
      ∧ (after (.scan (alone 0) column7) thirdReading).gestures.trackers
        = [{ source := .key 7, phase := .short (600 * ms) }]
      ∧ (after (.scan (alone 0) noColumns) thirdReading).keyRec 7 = { state := .up, count := 0 } := by decide +kernel

/-- Key 7 is down and listed, its gesture HELD. -/
def heldKey : State :=
  { inState base .joining with
    scanner :=
      { base.scanner with
        keys := base.scanner.keys.set 7 { state := .listed, count := 0 }
        pressed := [{ key := 7, stuckAt := 50 }] }
    gestures := { base.gestures with trackers := [{ source := .key 7, phase := .held 40 }] } }

theorem test_stuckDeadlineExpiry :
    ((after (.stuckDeadlineExpiry (alone 50)) heldKey).keyRec 7).state = .stuck
      ∧ (after (.stuckDeadlineExpiry (alone 50)) heldKey).service.counters.inputsDiscarded = 1 := by decide

theorem test_holdAndRepeat :
    (after (.repeatDeadlineExpiry (alone 40) .key) heldKey).gestures.trackers
        = [{ source := .key 7, phase := .held (40 + 200 * ms) }]
      ∧ (after (.holdDeadlineExpiry (alone 40) .key)
          { heldKey with
            gestures :=
              { heldKey.gestures with
                trackers := [{ source := .key 7, phase := .short 40 }] } }).gestures.trackers
        = [{ source := .key 7, phase := .held (40 + 200 * ms) }] := by decide

/-- Slot 0 runs macro 0, which is one WAIT. -/
def waiting : State :=
  { base with
    macros :=
      { table := [[.wait 10]]
        slots := base.macros.slots.set 0 { RunSlot.reset with state := .waitTime 60 } } }

theorem test_waitDeadlineExpiry :
    ((after (.waitDeadlineExpiry (alone 60) 0) waiting).slot 0).state = .idle
      ∧ ((after (.waitDeadlineExpiry (alone 59) 0) waiting).slot 0).state = .waitTime 60 := by decide

/-- A stop mark of a whole code in progress, begun at time 0. -/
def stopMark : State := receiver (inState base .joining) true (.stop 0 (.code 0x5A)) none

/-- A stop mark of a hold marker in progress, with the code held. -/
def holdMark : State :=
  receiver (inState base .joining) true (.stop 0 .hold)
    (some { set := 0, value := 0x5A, release := .running 2000 })

theorem test_codes :
    (after (.completeCode (alone 1000)) stopMark).ir.held
        = some { set := 0, value := 0x5A, release := .running (1000 + 150 * ms) }
      ∧ (after (.completeCode (alone 1201)) stopMark).ir.held = none
      ∧ (after (.holdMarker (alone 1000)) holdMark).ir.held
        = some { set := 0, value := 0x5A, release := .running (1000 + 150 * ms) }
      ∧ (after (.releaseDeadlineExpiry (alone 2000)) holdMark).ir.held = none
      ∧ (after (.limitPassed (alone 1201)) stopMark).ir.decoder = .idle
      ∧ (after (.limitPassed (alone 1200)) stopMark).ir.decoder = .stop 0 (.code 0x5A) := by decide

theorem test_irInputEdge :
    (after (.irInputEdge (alone 8000) false) (receiver base true .idle none)).ir.decoder = .leader 0
      ∧ (after (.irInputEdge (alone 4000) true) (receiver base false (.leader 0) none)).ir.decoder
        = .bits 0 0 0
      ∧ (after (.irInputEdge (alone 2000) true) (receiver base false (.leader 0) none)).ir.decoder
        = .stop 0 .hold
      ∧ (after (.irInputEdge (alone 3000) true) (receiver base false (.bits 0 7 2) none)).ir.decoder
        = .stop 0 (.code 0x82) := by decide

/-- The emission of set 0 is current, its first frame begun at time 0. -/
def emitting : State :=
  let s := receiver base false .idle (some { set := 0, value := 0x5A, release := .suspended 70 })
  { s with
    emitter := { s.emitter with current := some { emission := emission0, begun := 1, frameStart := 0 } }
    ir := { s.ir with blanking := .on, since := none } }

/-- The emission is at its last frame. -/
def lastFrame : State :=
  { emitting with
    emitter :=
      { emitting.emitter with
        current := some { emission := emission0, begun := 2, frameStart := 0 } } }

theorem test_emission :
    (after (.emissionFrame (alone (100 * ms))) emitting).emitter.current
        = some { emission := emission0, begun := 2, frameStart := 100 * ms }
      ∧ (after (.emissionEnd (alone (100 * ms))) lastFrame).emitter.current = none
      ∧ (after (.emissionEnd (alone (100 * ms))) lastFrame).ir.blanking = .ending (110 * ms)
      ∧ (after (.blankingEnd (alone (10 * ms))) (after (.emissionEnd (alone (100 * ms))) lastFrame)).ir.held
        = some { set := 0, value := 0x5A, release := .running (110 * ms + 70) } := by decide

/-- Load output 1 fades toward 255. -/
def fading : State :=
  { base with
    outputs :=
      { base.outputs with
        loads :=
          base.outputs.loads.set 1
            { map := some { chan := 5, mode := .dim 4 }, duty := 250, target := 255,
              stepAt := some 40, shown := 250 } } }

theorem test_stepDeadlineExpiry :
    ((after (.stepDeadlineExpiry (alone 40) 1) fading).outputs.loads[1]).duty = 254
      ∧ ((after (.stepDeadlineExpiry (alone (20 * ms)) 1)
          (after (.stepDeadlineExpiry (alone 40) 1) fading)).outputs.loads[1]).duty = 255 := by decide

/-- Indicator 2 flashes until time 50. -/
def flashing : State :=
  { base with
    indicators :=
      { base.indicators with
        indicators := base.indicators.indicators.set 2 { map := .station, flash := some 50 } } }

theorem test_flashEnd :
    ((after (.flashEnd (alone 50) 2) flashing).indicators.indicators[2]).flash = none
      ∧ ((after (.flashEnd (alone 49) 2) flashing).indicators.indicators[2]).flash = some 50 := by decide

theorem test_dominantEdge :
    (after (.dominantEdge ⟨alone 5, 75⟩) base).line.activity = .receiving
      ∧ (after (.dominantEdge ⟨alone 5, 75⟩) base).line.condition = .busy
      ∧ (after (.dominantEdge ⟨alone 5, 75⟩) (inState base .loading)).line.activity = .waiting := by decide

/-- Bits are read 25 µs after their edges (R2): an edge before the sample makes a bit 0 if the line is
dominant at the sample, also where it starts the next bit; no edge after the sample changes it. -/
theorem test_sampling :
    let bits (s : State) : Option (List Bool) := s.line.reception.map Reception.bits
    let short := after (.dominantEdge ⟨alone 5, 25⟩) base
    bits (after (.dominantEdge ⟨alone 5, 50⟩) base) = some [true]
      ∧ bits (after (.dominantEdge ⟨alone 5, 51⟩) base) = some [false]
      ∧ bits (after (.dominantEdge ⟨alone 100, 75⟩) short) = some [true, false]
      ∧ bits (after (.dominantEdge ⟨alone 20, 31⟩) short) = some [false]
      ∧ bits (after (.dominantEdge ⟨alone 20, 30⟩) short) = some [true]
      ∧ bits (after (.dominantEdge ⟨alone 40, 20⟩) short) = some [false, true]
      ∧ bits (after (.dominantEdge ⟨alone 51, 20⟩) short) = some [true, true]
      ∧ bits (after (.dominantEdge ⟨alone 60, 30⟩) (after (.dominantEdge ⟨alone 5, 75⟩) base))
        = some [false] := by decide

/-- A decided slot is driven for 37.5 µs from its own edge (R17). -/
theorem test_slot :
    let answering : State :=
      { hearing base with
        line :=
          { (hearing base).line with
            activity := .answering, reception := none
            answer := some { slot := .declined, seen := 0 } } }
    let first := after (.dominantEdge ⟨alone 100, 25⟩) answering
    let second := after (.dominantEdge ⟨alone 100, 25⟩) first
    first.lineDriven = false ∧ second.lineDriven = true ∧ (second.advance (alone 74)).lineDriven = true
      ∧ (second.advance (alone 75)).lineDriven = false ∧ second.line.wire.freed = 275
      ∧ (after (.dominantEdge ⟨alone 100, 25⟩) second).lineDriven = false := by decide

theorem test_headerFailed :
    (after (.headerFailed (alone 5)) (hearing base)).service.counters.headerFailures = 1
      ∧ (after (.headerFailed (alone 5)) (hearing base)).line.activity = .ignoring := by decide

theorem test_frameOfUnknownKind :
    (after (.frameOfUnknownKind (alone 5) 11 (of7 11 4 [])) (hearing base)).service.counters.framesMalformed = 1
      ∧ (after (.frameOfUnknownKind (alone 5) 11 (of7 11 4 [])) (hearing base)).line.answer
        = some { slot := .declined, seen := 0 } := by decide +kernel

/-- An address conflict (R50, R117). -/
theorem test_address_conflict :
    (after (.reply (alone 9) (frameFrom 4 1 kindReply 9 [1, 0])) (hearing base)).start.state
      = .addressConflict := by decide +kernel

/-- A garbled frame (R14). -/
theorem test_garbled :
    (after (.change (alone 9) { of7 kindChange 0 [30, 0, 0, 10] with frameCheck := 0 })
        (hearing base)).service.counters.framesGarbled = 1 := by decide +kernel

/-- The state with some image bytes read in LOADING. -/
def loadedBytes (l : List Byte) : State :=
  let s := inState base .loading
  { s with start := { s.start with loaded := l } }

/-- The smallest image: the header, and settings of 1 s, 3.5 s, 600 ms and 200 ms, with a given image
check. -/
def imageWith (check : BitVec 16) : List Byte :=
  [0xA5, 0x46, 0, 1, 0, 46] ++ wordBytes check ++ [0, 40, 0, 6] ++ List.replicate 28 0
    ++ [10, 35, 2, 88, 0, 200]

/-- The check the smallest image should carry. -/
def imageCheck : BitVec 16 :=
  imageCheckOf (byteBits ((imageWith 0).take 6 ++ (imageWith 0).drop 8))

/-- A pin asserted in the power-on sequence holds the part in its place (log entry 39). -/
theorem test_pin_in_the_power_sequence :
    let s := after (.resetPinReleased (alone 7) 4) (after (.resetPinAsserted (alone 5)) State.reset)
    s.start.state = .loading ∧ s.start.cause = .pin ∧ s.start.count = 2 := by decide

/-- An empty section lies within the declared length, 46, or the image has a bad length (R101). -/
theorem test_empty_sections :
    headerFault (((imageWith 0).take 20).set 13 46) = none
      ∧ headerFault (((imageWith 0).take 20).set 13 47) = some .badLength := by decide

/-- An outcome takes one occurrence of its tag from a run's list (R92). -/
theorem test_one_tag_at_a_time :
    let r : RunSlot := { RunSlot.reset with state := .waitConfirm, outstanding := [3, 3] }
    ((base.setSlot 0 r).outcomeToRun 0 3 true).slot 0 = { r with outstanding := [3] } := by decide

/-- A slot that waits in its way, and slot 1 at the WAIT of macro 1. -/
def twoRuns (st : RunState) : Vector RunSlot 2 :=
  (base.macros.slots.set 0 { RunSlot.reset with state := st }).set 1
    { RunSlot.reset with state := .waitTime 0, root := 1, current := 1 }

/-- The end of the WAIT of slot 1, which comes before the grants of the event before it. -/
def waitEnds : Instr := .waitDeadlineExpiry ⟨0, 1⟩ 1

/-- The last frame, a full queue behind it, and a run that waits for a place. -/
def placeWanted : State :=
  { lastFrame with
    emitter := { lastFrame.emitter with queue := List.replicate 4 emission0, waiting := [0] }
    macros :=
      { table := [[.emit emission0], [.wait 10, .emit emission0]]
        slots := twoRuns (.waitEmitter 0) } }

/-- A step with the next command of the queue, and the state it answers. -/
def stepped (s : State) : State :=
  match step s with
  | .next t => t
  | .fault f => nomatch f
  | .refused _ => s

/-- The freed place is granted at once, or behind a rival that comes first, and takes it; the rival then
only lets its time pass (R144, log entry 37). -/
theorem test_grant_and_rival :
    let granted := after (.emissionEnd (alone (100 * ms))) placeWanted
    let passed := after (.emissionEnd (alone (100 * ms))) { placeWanted with pending := [waitEnds] }
    granted.emitter.queue.length = 4 ∧ (granted.slot 0).state = .idle ∧ granted.taken = 0
      ∧ passed.emitter.queue.length = 4 ∧ passed.emitter.waiting = [0]
      ∧ (passed.slot 1).state = .idle ∧ passed.owed = [] ∧ passed.rival = 0 ∧ passed.taken = 1
      ∧ stepped passed = { passed with taken := 0, pending := [] } := by decide

/-- The Request Table holds 8 requests, the one with tag 3 a binding's, and slot 0 waits for a place. -/
def roomWanted : State :=
  let s := asking base
    (request3 (.sent 90) .binding ::
      List.replicate 7 { request3 (.sent 900) .binding with tag := 9 })
  { s with
    requests := { s.requests with waiting := [0] }
    macros :=
      { table := [[.channel 30 .set 1, .wait 10], [.wait 10, .channel 30 .set 1, .wait 10]]
        slots := twoRuns (.waitTable 0) } }

/-- The freed place is granted at once, or behind a rival that comes first: its issue takes the place, the
slot stays at the head of the order, and what follows the grant is done in the same step (R90, R96, log
entry 37). A rival that leaves ACTIVE has its effect in its own step. -/
theorem test_request_grant_and_rival :
    let ends (pending : List Instr) : State :=
      after (.confirmDeadlineExpiry (alone 90) 3) { roomWanted with pending := pending }
    (ends []).requests.entries.length = 8 ∧ (ends []).requests.waiting = []
      ∧ (ends []).service.counters.requestsFailed = 1
      ∧ (ends [waitEnds]).requests.entries.length = 8 ∧ (ends [waitEnds]).requests.waiting = [0]
      ∧ ((ends [waitEnds]).slot 1).outstanding = [0] ∧ (ends [waitEnds]).taken = 1
      ∧ (ends [waitEnds]).service.counters.requestsFailed = 1
      ∧ (ends [waitEnds]).owed = [] ∧ (ends [waitEnds]).rival = 0
      ∧ ends [.powerOn ⟨0, 1⟩ 4] = { ends [] with pending := [.powerOn ⟨0, 1⟩ 4] } := by
  decide

/-- A QUERY whose evidence ends the request with tag 3 while slot 0 waits and a rival comes first: the reply
counts the ended request (R16, R172), and the rival's issue takes the place. What the line brings is no
rival of a frame, and nor is an event before a second grant where there is only one (log entry 37). -/
theorem test_query_and_rival :
    let ask (pending : List Instr) : State :=
      after (.queryCounters (alone 9) (frameFrom 7 2 kindQuery 4 [4, 2]))
        (hearing
          { asking roomWanted
              (request3 (.sent 90) .binding ::
                List.replicate 7 { request3 (.sent 900) .binding with tag := 9, owner := 8 }) with
            pending := pending })
    let reply (s : State) : List Content :=
      (s.queue.entries.filter fun e => e.content.isReply).map Entry.content
    reply (ask [waitEnds]) = [.reply [4, 2, 0, 0, 0, 1]]
      ∧ (ask [waitEnds]).requests.waiting = [0] ∧ ((ask [waitEnds]).slot 1).outstanding = [0]
      ∧ (ask [waitEnds]).line.answer = some { slot := .taken, seen := 0 }
      ∧ (ask [waitEnds]).taken = 1
      ∧ reply (ask []) = [.reply [4, 2, 0, 0, 0, 1]] ∧ (ask []).requests.waiting = []
      ∧ ask [.lineStuck ⟨0, 1⟩] = { ask [] with pending := [.lineStuck ⟨0, 1⟩] }
      ∧ ask [.waitDeadlineExpiry ⟨0, 2⟩ 1]
        = { ask [] with pending := [.waitDeadlineExpiry ⟨0, 2⟩ 1] } := by
  decide +kernel

/-- Two requests end and two slots wait: a binding's issue comes before the first grant or before the second,
whose slot goes on waiting, and one issue before each of them; a second issue behind the last grant is an
event of its own (R96). -/
theorem test_rivals_of_two_grants :
    let press (grant : Nat) : Instr := .scan ⟨0, grant⟩ column7
    let hold (grant : Nat) : Instr := .holdDeadlineExpiry ⟨0, grant⟩ .key
    let s : State :=
      { asking roomWanted
          ([request3 (.sent 90) .binding, { request3 (.sent 90) .binding with tag := 5 }]
            ++ List.replicate 6 { request3 (.sent 900) .binding with tag := 9, owner := 8 }) with
        scanner :=
          { thirdReading.scanner with scanAt := some 9, pressed := [{ key := 3, stuckAt := 900 }] }
        gestures :=
          { roomWanted.gestures with trackers := [{ source := .key 3, phase := .short 9 }] }
        bindings :=
          [{ source := .key 7, trigger := .press, condition := none, action := .channel 30 .set 0 },
            { source := .key 3, trigger := .hold, condition := none, action := .channel 30 .set 1 }] }
    let s : State := { s with requests := { s.requests with waiting := [0, 1] } }
    let s : State :=
      { s with
        macros :=
          { table := [[.channel 30 .set 1, .wait 10]]
            slots := Vector.replicate 2 { RunSlot.reset with state := .waitTable 0 } } }
    let ends (pending : List Instr) : List Originator × List SlotId × Nat :=
      let t :=
        after (.change (alone 9) (of7 kindChange 0 [30, 1, 0, 10, 4, 3, 4, 5]))
          (hearing { s with pending := pending })
      ((t.requests.entries.drop 6).map ReqEntry.origin, t.requests.waiting, t.taken)
    ends [press 0] = ([.run 0 0, .run 1 0], [], 0)
      ∧ ends [press 1] = ([.binding, .run 0 0], [1], 1)
      ∧ ends [press 2] = ([.run 0 0, .binding], [1], 1)
      ∧ ends [press 1, hold 1] = ([.binding, .binding], [0, 1], 2)
      ∧ ends [press 1, hold 2] = ([.binding, .run 0 0], [1], 1)
      ∧ ends [press 2, hold 1] = ([.run 0 0, .binding], [1], 1) := by
  decide +kernel

/-- Where the rival is a pending restart, the end of a request comes first with all its parts, and the
restart behind it discards the flash (R97, R170). -/
theorem test_restart_is_no_rival :
    let s : State :=
      { roomWanted with
        pending := [.pendingRestart ⟨0, 1⟩ 4]
        indicators :=
          { roomWanted.indicators with
            indicators := roomWanted.indicators.indicators.set 2 { map := .channel 30 none, flash := none } }
        service := { roomWanted.service with restart := .atTime 90 } }
    let ended := after (.confirmDeadlineExpiry (alone 90) 3) s
    ended.taken = 0 ∧ (ended.indicators.indicators[2]).flash.isSome = true
      ∧ (stepped ended).start.state = .listening
      ∧ ((stepped ended).indicators.indicators[2]).flash = none := by decide +kernel

/-- A line that is dominant from the edge of slot 1 through all three slots makes one run, which is STUCK 20
bit times behind that edge (R3). -/
theorem test_held_from_the_first_slot :
    let read := after (.answerWindowRead (alone 7500) 5000 4900 4800) (sending base change2 0 0)
    read.line.wire = { edge := 7200, others := 12200, freed := 12200, quiet := 12200 }
      ∧ (after (.lineStuck (alone 1699)) read).line.condition = .busy
      ∧ (after (.lineStuck (alone 1700)) read).line.condition = .stuck := by decide +kernel

/-- A line that another station holds dominant behind the third slot stays so when the window is read
(R3): it is not IDLE 5 bit times later, and STUCK in its time. -/
theorem test_held_behind_the_window :
    let read := after (.answerWindowRead (alone 40) 25 25 25)
      (after (.dominantEdge ⟨alone 7460, 10000⟩) (sending base change2 0 0))
    read.line.attempt = none ∧ (after (.idleDeclaration (alone 600)) read).line.condition = .busy
      ∧ (after (.lineStuck (alone 2500)) read).line.condition = .stuck := by decide

/-- A restart clears the slot decided on: in LISTENING the line is driven at no time (R6, R106). -/
theorem test_restart_clears_the_slot :
    let taken := after (.restart (alone 9) (of7 kindRestart 4 [1])) (hearing base)
    let listening := after (.pendingRestart (alone 300) 4) taken
    taken.line.answer.isSome = true ∧ listening.start.state = .listening
      ∧ (after (.dominantEdge ⟨alone 1, 25⟩) listening).lineDriven = false := by decide +kernel

/-! ### The hypotheses of the statements can be met -/

theorem witness_StepRunsTheFrontCommand : ∃ s : State, s.pending = [] := ⟨State.reset, rfl⟩

theorem witness_AHeldPartOnlyWaits :
    let held := after (.resetPinAsserted (alone 5)) base
    State.reset.start.hold = .powerSequence ∧ held.start.hold = .pin
      ∧ isReset (.imageRead (alone 5) none) = false ∧ isReset (.dominantEdge ⟨alone 5, 75⟩) = false := by decide

theorem witness_WhatTimeDoes :
    State.reset.line.attempt = none
      ∧ ∃ (s : State) (a : Attempt) (dt1 dt2 dt3 : Time), s.line.attempt = some a
        ∧ s.now + dt1 + 1 = a.start + 7 * 100 ∧ s.now + dt2 = a.start + 7 * 100
        ∧ s.now + dt2 < a.start + (40 + 8 * a.frame.body.length) * 100
        ∧ s.now + dt3 = a.start + (40 + 8 * a.frame.body.length) * 100
        ∧ s.line.wire.freed = a.start
        ∧ (pulled s 1).line.wire.freed > a.start :=
  ⟨rfl, sending base change2 0 0, attemptOf (sending base change2 0 0), 699, 700, 7200, by decide⟩

theorem witness_ResetsBeginLoading :
    State.reset.start.hold ≠ .pin ∧ base.start.hold ≠ .pin
      ∧ (after (.resetPinAsserted (alone 5)) base).start.hold = .pin := by decide

/-- A restart due at time 9. -/
def restartDueAt9 (st : StationState) : State :=
  let s := inState base st
  { s with service := { s.service with restart := .atTime 9 } }

/-- A restart that waits for the line, which is IDLE. -/
def restartAtIdle (st : StationState) : State :=
  let s := inState base st
  { s with service := { s.service with restart := .atIdle } }

theorem witness_PendingRestartBegins :
    ∀ st ∈ [StationState.configFault, .joining, .active],
      (restartDueAt9 st).Awake ∧ (restartDueAt9 st).service.restart = .atTime 9
        ∧ 9 = (restartDueAt9 st).now + 9 ∧ (restartDueAt9 st).start.state = st
        ∧ (restartAtIdle st).Awake ∧ (restartAtIdle st).service.restart = .atIdle
        ∧ (restartAtIdle st).line.condition = .idle ∧ (restartAtIdle st).start.state = st := by decide

theorem witness_ImageByteIsRead :
    (∃ (s : State) (b : Byte), s.Awake ∧ s.start.state = .loading
        ∧ headerFault (s.start.loaded ++ [b]) = none ∧ (s.start.loaded ++ [b]).length = 39)
      ∧ (∃ (s : State) (b : Byte), s.Awake ∧ s.start.state = .loading
        ∧ headerFault (s.start.loaded ++ [b]) = none
        ∧ (s.start.loaded ++ [b]).length + 1 = declaredLength (s.start.loaded ++ [b]))
      ∧ (∃ (s : State) (b : Byte), s.Awake ∧ s.start.state = .loading
        ∧ headerFault (s.start.loaded ++ [b]) = some .badSignature)
      ∧ ∃ (s : State) (b : Byte), s.Awake ∧ s.start.state = .loading
        ∧ headerFault (s.start.loaded ++ [b]) = some .badLength :=
  ⟨⟨loadedBytes ((imageWith 0).take 38), 0, by decide⟩,
    ⟨loadedBytes ((imageWith 0).take 44), 0, by decide⟩,
    ⟨loadedBytes [0xA5], 0x47, by decide⟩,
    ⟨loadedBytes [0xA5, 0x46, 0, 1, 0], 39, by decide⟩⟩

/-- The declared lengths and the section offsets at which the header checks change their answer. -/
theorem witness_ImageByteIsRead_header :
    (∀ n ∈ [39, 4097],
        headerFault ([0xA5, 0x46, 0, 1] ++ wordBytes (BitVec.ofNat 16 n)) = some .badLength)
      ∧ (∀ n ∈ [40, 4096],
        headerFault ([0xA5, 0x46, 0, 1] ++ wordBytes (BitVec.ofNat 16 n)) = none)
      ∧ (∀ n ∈ [39, 41], headerFault ((imageWith 0).take 8 ++ [0, n, 0, 6]) = some .badLength)
      ∧ headerFault ((imageWith 0).take 8 ++ [0, 40, 0, 6]) = none
      ∧ headerFault ((imageWith 0).take 12 ++ [0, 45, 0, 1]) = some .badLength := by decide

/-- LOADING, with all of an image read but its last byte. -/
def lastByte (l : List Byte) : State := loadedBytes l.dropLast

theorem witness_ImageIsComplete :
    (lastByte (imageWith imageCheck)).Awake
      ∧ (lastByte (imageWith imageCheck)).start.state = .loading
      ∧ imageWith imageCheck = (lastByte (imageWith imageCheck)).start.loaded ++ [200]
      ∧ headerFault (imageWith imageCheck) = none ∧ 40 ≤ (imageWith imageCheck).length
      ∧ declaredLength (imageWith imageCheck) = (imageWith imageCheck).length
      ∧ imageCheckPasses (imageWith imageCheck) = true := by
  decide +kernel

/-- An image of some sections, with its image check. -/
def imageOf (sections : List (List Byte)) : List Byte :=
  let offset (k : Nat) : Nat := 40 + ((sections.take k).map List.length).sum
  let head (check : BitVec 16) : List Byte :=
    [0xA5, 0x46, 0, 1] ++ wordBytes (BitVec.ofNat 16 (offset 8)) ++ wordBytes check
      ++ (List.range 8).flatMap fun k =>
          wordBytes (BitVec.ofNat 16 (offset k))
            ++ wordBytes (BitVec.ofNat 16 (sections.getD k []).length)
  let rest := sections.flatten
  head (imageCheckOf (byteBits ((head 0).take 6 ++ (head 0).drop 8 ++ rest))) ++ rest

/-- The code with which an image ends LOADING in station 4, if any. -/
def verdict (l : List Byte) : Option FaultCode :=
  match checkImage 4 l with
  | .ok _ => none
  | .error c => some c

/-- The settings of the smallest image. -/
def settings : List Byte := [10, 35, 2, 88, 0, 200]

/-- Channel 2, a HOME SWITCH of default 1. -/
def channel2 : List Byte := [2, 1, 1, 1]

/-- One image for each answer of the checks: the first section that fails gives its code. -/
theorem witness_ImageIsComplete_verdicts :
    headerFault (imageWith 0) = none ∧ verdict (imageWith 0) = some .badCheck
      ∧ verdict (imageOf [[4, 35, 2, 88, 0, 200]]) = some .badSetting
      ∧ verdict (imageOf [settings, [2, 3, 1, 1]]) = some .badChannel
      ∧ verdict (imageOf [settings, channel2, [3, 1, 0]]) = some .badMap
      ∧ verdict (imageOf [settings, channel2, [], [], [], [0]]) = some .badCodeSet
      ∧ verdict (imageOf [settings, channel2, [], [], [], [], [0]]) = some .badBinding
      ∧ verdict (imageOf [settings, channel2, [], [], [], [], [], [17]]) = some .badMacro
      ∧ verdict (imageOf [settings, channel2, [], [], [], [], [], [0]]) = none
      ∧ headerFault (imageOf [settings, channel2, [], [], [], [], [], [0]]) = none := by
  decide +kernel

theorem witness_ImageSectionsAreJudged :
    parseSection 4 64 (parseChannel 4) channel2
        = some [(2, .home (HomeRec.declared .switch 1))]
      ∧ parseSection 4 0 (parseChannel 4) channel2 = none
      ∧ parseChannels 4 (channel2 ++ channel2) = none
      ∧ parseSettings [5, 20, 0, 200, 0, 50]
        = some
            { period := 5, listenWindow := 2000 * ms, holdTime := 200 * ms, repeatPeriod := 50 * ms }
      ∧ parseSettings [5, 19, 0, 200, 0, 50] = none ∧ parseSettings [6, 22, 0, 200, 0, 50] = none
      ∧ (parseChannel 4 [63, 2, 1, 31]).isSome = true ∧ parseChannel 4 [64, 2, 1, 31] = none
      ∧ parseChannel 4 [63, 2, 1, 32] = none ∧ parseChannel 4 [63, 2, 1, 4] = none
      ∧ parseMacroSection { records := Vector.replicate 64 .unused, sets := 0, macros := 1 }
          [1, 1, 2, 0, 10, 0, 0, 0, 0, 0] = some [[.wait 10]] := by
  decide +kernel

/-- LISTENING, with the listen window ending at time 9. -/
def listening9 : State :=
  let s := inState base .listening
  { s with start := { s.start with listenAt := some 9 } }

theorem witness_ListenWindowEnds :
    (∀ s ∈ [listening9, onBusy listening9], s.Awake ∧ s.start.state = .listening
        ∧ s.start.listenAt = some 9 ∧ 9 = s.now + 9 ∧ s.queue.entries = [] ∧ s.line.attempt = none
        ∧ recallLists ((List.finRange 64).filter fun c => (s.chan c).isHome) = [2, 5] :: [])
      ∧ (onBusy listening9).line.condition ≠ .idle ∧ listening9.line.condition = .idle
      ∧ listening9.line.activity = .waiting ∧ listening9.service.restart = .clear := by
  decide +kernel

theorem witness_JoinCompletes :
    ∃ (s : State) (dt t0 : Time) (k : Collection), s.Awake ∧ s.start.state = .joining
      ∧ s.start.recallAt = some t0 ∧ t0 = s.now + dt ∧ s.start.collection = some k :=
  ⟨joining, 8000, 8000, { latest := 0, triples := [] }, by decide⟩

theorem witness_IdleCutsAReception :
    (hearing base).Awake ∧ (hearing base).line.condition ≠ .idle
      ∧ (hearing base).line.attempt = none ∧ (hearing base).line.activity = .receiving
      ∧ (hearing base).line.wire.quiet + 5 * 100 = (hearing base).now + 500
      ∧ State.reset.line.activity ≠ .receiving := by decide

/-- An answer window, one slot edge seen, DECLINED decided on. -/
def answeringDeclined : State :=
  { onBusy base with
    line :=
      { (onBusy base).line with
        activity := .answering, answer := some { slot := .declined, seen := 1 } } }

/-- A frame whose first bits are read, and whose last two bits were started 50 and 30 units ago. -/
def midFrame : State :=
  { hearing base with
    now := 100
    line :=
      { (hearing base).line with
        reception := some ⟨[false, true, true], [10, 50, 70]⟩
        wire := { edge := 70, others := 95, freed := 95, quiet := 170 } } }

theorem witness_FirstEdgeAndHeader :
    (base.Awake ∧ base.line.condition = .idle ∧ base.line.activity = .waiting
        ∧ base.line.attempt = none ∧ base.line.answer = none ∧ base.line.wire.freed = base.now)
      ∧ (midFrame.Awake ∧ midFrame.line.attempt = none ∧ midFrame.line.condition ≠ .idle
        ∧ midFrame.line.reception
          = some { bits := [false] ++ [true, true], recent := [10] ++ [50, 70] }
        ∧ midFrame.line.answer = none
        ∧ (∀ edge ∈ [10], edge + 50 < midFrame.now) ∧ (∀ edge ∈ [50, 70], midFrame.now ≤ edge + 50)
        ∧ midFrame.line.wire.freed ≤ midFrame.now
        ∧ (pulled midFrame 101).now < (pulled midFrame 101).line.wire.freed)
      ∧ (answeringDeclined.Awake ∧ answeringDeclined.line.attempt = none
        ∧ answeringDeclined.line.condition ≠ .idle ∧ answeringDeclined.line.reception = none
        ∧ answeringDeclined.line.answer = some { slot := .declined, seen := 1 }
        ∧ answeringDeclined.line.wire.freed ≤ answeringDeclined.now)
      ∧ (base.now + 499 < base.line.wire.quiet + 5 * 100)
      ∧ ((hearing base).line.activity = .receiving ∧ (hearing base).line.reception = some ⟨[], []⟩
        ∧ ([] : List Bool).length < 32)
      ∧ ∃ (c : Instr) (kind : BitVec 4) (rx : Rx), frameRow c = some (kind, rx) ∧ moment c = alone 9
        ∧ (hearing base).Hears kind rx ∧ headerPasses kind rx = false :=
  ⟨by decide, by decide, by decide, by decide, by decide,
    .announce (alone 9) (of7 kindAnnounce 0 (List.replicate 15 0)), kindAnnounce,
    of7 kindAnnounce 0 (List.replicate 15 0), rfl, rfl, by decide +kernel, by decide +kernel⟩

/-- An edge where no bit and no slot of this station is read: WAITING, IGNORING and READING on a line that is
not IDLE, an own attempt, and a slot on a line that is dominant already. -/
theorem witness_FirstEdgeAndHeader_elsewhere :
    (∀ a ∈ [Activity.waiting, .ignoring, .reading],
      let s := pulled { onBusy base with line := { (onBusy base).line with activity := a } } 30
      s.Awake ∧ s.line.condition ≠ .idle ∧ s.line.reception = none ∧ s.line.answer = none
        ∧ s.line.wire.freed ≤ s.now + 30 ∧ s.now + 29 < s.line.wire.freed)
      ∧ (let s := sending base change2 0 0
        s.Awake ∧ s.line.attempt = some (attemptOf s) ∧ s.line.condition ≠ .idle
          ∧ s.line.reception = none ∧ s.line.answer = none)
      ∧ ((pulled answeringDeclined 700).Awake
        ∧ (pulled answeringDeclined 700).line.answer = some { slot := .declined, seen := 1 }
        ∧ (pulled answeringDeclined 700).now < (pulled answeringDeclined 700).line.wire.freed)
      ∧ (of7 kindAnnounce 0 (List.replicate 14 0)).body.length < 15 := by decide

theorem witness_AttemptBegins :
    ∃ (s : State) (f : Entry), s.Awake ∧ s.line.condition = .idle ∧ s.line.activity = .waiting
      ∧ s.line.attempt = none ∧ s.service.restart = .clear ∧ f ∈ s.queue.entries
      ∧ f.eligible s.start.state = true :=
  ⟨queued base [Entry.new change2 0, Entry.new (.request 3 30 .set 1) 7], Entry.new change2 0,
    by decide⟩

/-- The entry of `sending`. -/
def sentOf (c : Content) (dest : Addr) (n : Nat) : Entry :=
  { sentEntry c dest n with carried := base.carriedBy c }

/-- Bit 1 of the frame is sent as 1; its sample is at time 150. -/
theorem witness_ArbitrationIsLost :
    let s := sending base change2 0 0
    ∀ dt ∈ [150, 199], s.Awake ∧ s.line.attempt = some (attemptOf s)
      ∧ (attemptOf s).start + 1 * 100 + 50 ≤ s.now + dt
      ∧ s.now + dt < (attemptOf s).start + 1 * 100 + 100
      ∧ (attemptOf s).frame.bits.getD 1 true = true ∧ s.Sends [] (sentOf change2 0 0) []
      ∧ (50 : Time) < 51 := by
  decide

/-- The same bit, lost by an edge of another station from 130 to 170. -/
theorem witness_ArbitrationIsLost_edge :
    let s := heardIn (sending base change2 0 0) 130 40
    ∀ dt ∈ [20, 69], s.Awake ∧ s.line.attempt = some (attemptOf s)
      ∧ (attemptOf s).start + 1 * 100 + 50 ≤ s.now + dt
      ∧ s.now + dt < (attemptOf s).start + 1 * 100 + 100
      ∧ (attemptOf s).frame.bits.getD 1 true = true
      ∧ (∃ p ∈ (attemptOf s).heard, p.start ≤ 150 ∧ 150 < p.stop)
      ∧ s.Sends [] (sentOf change2 0 0) [] := by
  decide

/-- A RECALL REPLY, which carries no triple in `base`. -/
def recallReply1 : Content := .recallReply 1 []

/-- Bit 0 is sent as 0 and reads 1; the last bit of the frame check is sent as 1 and reads 0, by the reading
or by an edge of another station from 4730 to 4770. -/
theorem witness_BitErrorFailsTheAttempt :
    ∀ n ∈ [2, 3],
      (let s := sending base recallReply1 7 n
        let a := attemptOf s
        s.Awake ∧ s.line.attempt = some a ∧ 40 + 8 * a.frame.body.length = 48
          ∧ a.start + 0 * 100 + 50 = s.now + 50 ∧ a.frame.bits.getD 0 true = false ∧ a.heard = []
          ∧ a.start + 47 * 100 + 50 = s.now + 4750 ∧ s.now + 4750 < a.start + 47 * 100 + 100
          ∧ a.frame.bits.getD 47 false = true
          ∧ s.Sends [] (sentOf recallReply1 7 n) [] ∧ recallReply1.kind = kindRecallReply
          ∧ s.NoneWaits)
        ∧ (let s := heardIn (sending base recallReply1 7 n) 4730 40
          let a := attemptOf s
          s.Awake ∧ s.line.attempt = some a ∧ a.frame.bits.getD 47 false = true
            ∧ (∃ p ∈ a.heard, p.start ≤ 4750 ∧ 4750 < p.stop) ∧ a.start + 47 * 100 + 50 = s.now + 20
            ∧ s.Sends [] (sentOf recallReply1 7 n) [] ∧ s.NoneWaits) := by
  decide +kernel

/-- The youngest of 12 entries is held back until time 9. -/
def heldBack : State :=
  queued base
    (List.replicate 11 { Entry.new change2 0 with holdBack := some 20 }
      ++ [{ Entry.new change2 0 with holdBack := some 9 }])

theorem witness_BitErrorFailsTheAttempt_holdBack :
    ∀ s ∈ [heldBack, onBusy heldBack], s.Awake
      ∧ s.queue.entries
        = List.replicate 11 { Entry.new change2 0 with holdBack := some 20 }
          ++ { Entry.new change2 0 with holdBack := some 9 } :: []
      ∧ 9 = s.now + 9 ∧ s.line.attempt = none ∧ s.line.activity = .waiting
      ∧ s.service.restart = .clear ∧ mayBeSent s.start.state change2 = true
      ∧ ∀ g ∈ List.replicate 11 { Entry.new change2 0 with holdBack := some 20 } ++ ([] : List Entry),
        g.eligible s.start.state = false := by decide

/-- A hold-back that ends during an attempt, with an older entry of its class eligible, and with a younger
one of a lower class; and one that the queue chooses before a younger one of its class. -/
theorem witness_BitErrorFailsTheAttempt_choice :
    let held : Entry := { Entry.new change2 0 with holdBack := some 9 }
    let request : Entry := Entry.new (.request 3 30 .set 1) 7
    (let s := sending base change2 0 0;
      (queued s (s.queue.entries ++ [held])).Awake
        ∧ (queued s (s.queue.entries ++ [held])).line.attempt = some (attemptOf s)
        ∧ (queued s (s.queue.entries ++ [held])).line.condition ≠ .idle)
      ∧ ((queued base [Entry.new change2 0, held]).Awake
        ∧ (Entry.new change2 0).eligible base.start.state = true
        ∧ (Entry.new change2 0).content.cls ≤ held.content.cls)
      ∧ ((queued base [held, request]).Awake ∧ request.eligible base.start.state = true
        ∧ request.content.cls < held.content.cls)
      ∧ (queued base [held, Entry.new change2 0]).Awake
      ∧ held.content.cls ≤ (Entry.new change2 0).content.cls := by decide

theorem witness_ChangeIsDeliveredOrFails :
    (∀ n ∈ [0, 2, 3],
      let s := sending base change2 0 n
      s.Awake ∧ s.line.attempt = some (attemptOf s) ∧ (attemptOf s).frame.destination = 0
        ∧ (attemptOf s).start + (42 + 8 * (attemptOf s).frame.body.length) * 100 + 100
          = s.now + 7500
        ∧ s.Sends [] (sentOf change2 0 n) []
        ∧ (sentOf change2 0 n).carried
          = { fixed := [{ chan := 2, value := 0, version := 5 }], byTurn := [] }
        ∧ (s.chan 2).isHome = true ∧ s.NoneWaits)
      ∧ (∀ n ∈ [0, 3],
        let s := sending (inState base .joining) (.recall [2, 5]) 0 n
        s.Awake ∧ s.line.attempt = some (attemptOf s) ∧ (attemptOf s).frame.destination = 0
          ∧ (attemptOf s).start + (42 + 8 * (attemptOf s).frame.body.length) * 100 + 100
            = s.now + 5900
          ∧ s.Sends [] (sentOf (.recall [2, 5]) 0 n) [] ∧ s.NoneWaits)
      ∧ ∀ n ∈ [0, 3],
        let s := sending base .announce 0 n
        s.Awake ∧ s.line.attempt = some (attemptOf s) ∧ (attemptOf s).frame.destination = 0
          ∧ (attemptOf s).start + (42 + 8 * (attemptOf s).frame.body.length) * 100 + 100
            = s.now + 11500
          ∧ s.Sends [] (sentOf .announce 0 n) [] ∧ s.NoneWaits := by
  decide +kernel

theorem witness_RequestIsDelivered :
    ∀ n ∈ [2, 3],
      let c : Content := .request 3 30 .set 1
      let r := request3 .queued .binding
      let s := sending (asking base [r]) c 7 n
      s.Awake ∧ s.line.attempt = some (attemptOf s) ∧ (attemptOf s).frame.destination ≠ 0
        ∧ (attemptOf s).start + (42 + 8 * (attemptOf s).frame.body.length) * 100 + 100
          = s.now + 7500
        ∧ s.Sends [] (sentOf c 7 n) [] ∧ s.requests.entries = [] ++ r :: [] ∧ r.tag = 3
        ∧ (∀ r' ∈ ([] : List ReqEntry) ++ [], r'.tag ≠ 3) ∧ r.origin = .binding ∧ s.NoneWaits := by
  decide

/-- Addressed frames of the other kinds. -/
theorem witness_RequestIsDelivered_kinds :
    ∀ c ∈ [Content.fetch [30], .state [2], .recallReply 1 [], .reply [1, 0]], ∀ n ∈ [2, 3],
      let s := sending base c 7 n
      s.Awake ∧ s.line.attempt = some (attemptOf s) ∧ (attemptOf s).frame.destination ≠ 0
        ∧ s.Sends [] (sentOf c 7 n) [] := by
  decide

theorem witness_OutcomesReachProducers :
    (Entry.new (.fetch [30]) 7).content = .fetch [30]
      ∧ (Entry.new (.recall [2]) 0).content = .recall [2]
      ∧ (Entry.new (.state [2]) 7).content = .state [2]
      ∧ ∃ j cs, (Entry.new recallReply1 7).content = .recallReply j cs :=
  ⟨rfl, rfl, rfl, 1, [], rfl⟩

theorem witness_LineBecomesStuck :
    (let s := pulled (hearing base) 2001;
      s.Awake ∧ s.line.condition = .busy ∧ s.line.attempt = none
        ∧ (s.advance (alone 2000)).line.wire.edge + 20 * 100 = s.now + 2000
        ∧ (s.advance (alone 2000)).line.wire.edge + 20 * 100 < (s.advance (alone 2000)).line.wire.freed
        ∧ s.now + 1999 < (s.advance (alone 1999)).line.wire.edge + 20 * 100)
      ∧ (∀ n ∈ [2, 3],
        let s := pulled (sending base change2 0 n) 2001
        s.Awake ∧ s.line.condition = .busy ∧ s.line.attempt = some (attemptOf s)
          ∧ (s.advance (alone 2000)).line.wire.edge + 20 * 100 ≤ s.now + 2000
          ∧ (s.advance (alone 2000)).line.wire.edge + 20 * 100 < (s.advance (alone 2000)).line.wire.freed
          ∧ s.Sends [] (sentOf change2 0 n) [])
      ∧ (base.Awake ∧ base.line.condition ≠ .busy) := by decide

/-- A queue of CHANGEs for channel 2. -/
def changes (n : Nat) : List Entry := List.replicate n (Entry.new change2 0)

theorem witness_AdmissionAndEviction :
    (({ entries := changes 11, evicted := false } : TxQueue).entries.length < 12)
      ∧ (12 ≤ (changes 12).length ∧ 2 ≤ (Content.fetch [30]).cls)
      ∧ (∃ e, 12 ≤ (changes 11 ++ e :: []).length ∧ (Content.recallReply 1 []).cls ≤ 1
        ∧ e.content.cls = 3 ∧ e.onLine = false)
      ∧ (∃ e, 12 ≤ (changes 11 ++ e :: []).length ∧ (Content.recallReply 1 []).cls ≤ 1
        ∧ (∀ f ∈ changes 11 ++ e :: [], ¬(f.content.cls = 3 ∧ f.onLine = false))
        ∧ e.content.isAnnounce = true ∧ e.onLine = false)
      ∧ (({ entries := changes 12, evicted := false } : TxQueue).room
        (Content.recallReply 1 []).cls = 0) :=
  ⟨by decide, by decide, ⟨Entry.new (.reply [1, 0]) 7, by decide⟩, ⟨Entry.new .announce 0, by decide⟩,
    by decide⟩

/-- A queue whose youngest entry is a CHANGE for channel 2 with some pairs. -/
def withPairs (n : Nat) : TxQueue :=
  { entries :=
      changes 1 ++
        [Entry.new
          (.change { chan := 2, value := 0, version := 5 }
            (List.replicate n { address := 7, tag := 3 })) 0]
    evicted := false }

/-- The offers of the second and third parts: a second ANNOUNCE, a CHANGE that coalesces and one that
does not, an entry that goes on an IDLE line at once, and one that does not. -/
theorem witness_AdmissionAndEviction_offers :
    ([Entry.new .announce 0].any fun e => e.content.isAnnounce) = true
      ∧ ((withPairs 3).entries = changes 1 ++ (withPairs 3).entries.getLast (by decide) :: []
        ∧ (withPairs 4).entries.length = 2)
      ∧ (let s := queued base [{ Entry.new .announce 0 with holdBack := some 9 }];
        s.line.condition = .idle ∧ s.line.activity = .waiting ∧ s.service.restart = .clear
          ∧ (s.queue.offer s.start.state change2 0).1 = .admitted
          ∧ (s.queue.offer s.start.state change2 0).2.entries
            = s.queue.entries ++ [Entry.new change2 0]
          ∧ ∀ g ∈ s.queue.entries, g.eligible s.start.state = true → change2.cls < g.content.cls)
      ∧ (let s := queued base (changes 1);
        (s.queue.offer s.start.state (.fetch [30]) 7).1 = .admitted
          ∧ ∃ g ∈ s.queue.entries,
            g.eligible s.start.state = true ∧ g.content.cls ≤ (Content.fetch [30]).cls) := by
  decide

/-- The room of a full queue with entries that may be evicted, and a CHANGE to be had by joining one. -/
theorem witness_AdmissionAndEviction_room :
    let q : TxQueue :=
      { entries := changes 10 ++ [Entry.new (.reply [1, 0]) 7, Entry.new .announce 0]
        evicted := false }
    q.room 0 = 2 ∧ q.room 1 = 2 ∧ q.room 2 = 0
      ∧ ({ entries := changes 12, evicted := false } : TxQueue).changeCanBeHad 2 = true
      ∧ ({ entries := changes 12, evicted := false } : TxQueue).changeCanBeHad 5 = false := by decide

theorem witness_AdmissionAndEviction_withdrawal :
    let e := Entry.new (.request 3 30 .set 1) 7
    e.content.isRequest 3 = true ∧ (∀ f ∈ changes 2, f.content.isRequest 3 = false)
      ∧ ({ e with onLine := true, withdrawn := true } : Entry).withdrawn = true
      ∧ ∀ f ∈ changes 2, f.onLine = false := by decide

theorem witness_GarbledFrame :
    let rx : Rx := { of7 kindChange 0 [30, 0, 0, 10] with frameCheck := 0 }
    frameRow (.change (alone 9) rx) = some (kindChange, rx) ∧ (hearing base).Awake
      ∧ (hearing base).Hears kindChange rx ∧ headerPasses kindChange rx = true
      ∧ checkPasses kindChange rx = false := by
  decide +kernel

theorem witness_UnknownKindIsMalformed :
    ∀ kind ∈ [(0 : BitVec 4), 11],
      (hearing base).Awake ∧ (hearing base).HearsValid kind (of7 kind 4 [])
        ∧ (kind = 0 ∨ 10 < kind.toNat) ∧ (hearing base).KnowsSender (of7 kind 4 [])
        ∧ (of7 kind 4 []).source ≠ 0 := by
  decide +kernel

/-- A well-formed frame, and a malformed one (a REPLY of one byte), from the own address. -/
theorem witness_OwnAddressHeard :
    ∀ body ∈ [[1, 0], [1]],
      let rx := frameFrom 4 1 kindReply 9 body
      frameRow (.reply (alone 9) rx) = some (kindReply, rx) ∧ (hearing base).Awake
        ∧ (hearing base).HearsValid kindReply rx ∧ (hearing base).start.state.hearsPeers = true
        ∧ rx.source = (hearing base).start.ownAddress ∧ rx.source ≠ 0
        ∧ wellFormed (hearing base).channels.records (frameOf kindReply rx)
          = decide (body.length = 2) := by
  decide +kernel

/-- A known sender's frame is taken in a state. -/
def takenOf7 (s : State) (kind : BitVec 4) (dest : Addr) (body : List Byte) : Prop :=
  s.Awake ∧ s.KnowsSender (of7 kind dest body) ∧ s.HearsTaken kind (of7 kind dest body)

theorem witness_TriplesAreTaken :
    takenOf7 (hearing base) kindAnnounce 0 [5] ∧ takenOf7 (hearing base) kindAnnounce 0 [40]
      ∧ takenOf7 (hearing base) kindState 9 [30, 0, 0, 10] := by
  unfold takenOf7
  decide +kernel

/-- A request of a binding is SENT, and a frame is being received. -/
def askedChange : State := hearing (asking base [request3 (.sent 90) .binding])

/-- A CHANGE of channel 30 with pairs of station 4 for some tags. -/
def change30 (tags : List Byte) : List Byte := [30, 0, 0, 10] ++ tags.flatMap fun t => [4, t]

theorem witness_ChangeIsTaken :
    (takenOf7 (hearing base) kindChange 0 (change30 [])
        ∧ ∀ p ∈ rawPairs ((change30 []).drop 4), p.address ≠ base.start.ownAddress.setWidth 8)
      ∧ takenOf7 askedChange kindChange 0 (change30 [3])
      ∧ rawPairs ((change30 [3]).drop 4) = [{ address := 4, tag := 3 }]
      ∧ (4 : Byte) = askedChange.start.ownAddress.setWidth 8
      ∧ askedChange.requestOf 3 = some (request3 (.sent 90) .binding) ∧ askedChange.NoneWaits := by
  unfold takenOf7
  decide +kernel

/-- Two requests of bindings are SENT, one for channel 30 and one for a mirror of another station. -/
def askedTwice : State :=
  hearing
    (asking base
      [request3 (.sent 90) .binding,
        { request3 (.sent 90) .binding with tag := 4, chan := 31, owner := 9 }])

/-- Pairs that are passed over: of another station, of no entry, of another channel and owner; and a list
that confirms one request behind them. -/
theorem witness_ChangeIsTaken_pairs :
    takenOf7 askedTwice kindChange 0 (change30 [5, 4, 3])
      ∧ (∀ p ∈ rawPairs ((change30 [5, 4]).drop 4), ∀ r, askedTwice.requestOf p.tag = some r →
          r.chan ≠ 30 ∨ r.owner ≠ 7)
      ∧ (askedTwice.requests.entries.map ReqEntry.tag).Nodup ∧ askedTwice.NoneWaits
      ∧ ∀ e ∈ askedTwice.requests.entries, e.origin = .binding ∧ ∃ t0, e.state = .sent t0 := by
  refine ⟨by unfold takenOf7; decide +kernel, ?_, by decide, by decide, ?_⟩
  · intro p hp r hr
    have h : p = { address := 4, tag := 5 } ∨ p = { address := 4, tag := 4 } := by
      have e : rawPairs ((change30 [5, 4]).drop 4)
          = [{ address := 4, tag := 5 }, { address := 4, tag := 4 }] := by decide
      rw [e] at hp
      simpa using hp
    rcases h with rfl | rfl
    · rw [show askedTwice.requestOf 5 = none from rfl] at hr
      exact absurd hr (by simp)
    · exact .inl (by
        rw [show askedTwice.requestOf 4
          = some { request3 (.sent 90) .binding with tag := 4, chan := 31, owner := 9 } from rfl] at hr
        rw [← Option.some.inj hr]
        decide)
  · intro e he
    simp only [askedTwice, hearing, asking, List.mem_cons, List.not_mem_nil, or_false] at he
    rcases he with rfl | rfl <;> exact ⟨rfl, 90, rfl⟩

/-- A QUEUED request with its REQUEST on the line or off it. -/
theorem witness_ChangeIsTaken_queued :
    ∀ sent ∈ [true, false],
      let q := { Entry.new (.request 3 30 .set 1) 7 with onLine := sent }
      let s := hearing (queued (asking base [request3 .queued .binding]) [q])
      takenOf7 s kindChange 0 (change30 [3]) ∧ s.queue.entries = [] ++ q :: []
        ∧ q.content.isRequest 3 = true ∧ s.requestOf 3 = some (request3 .queued .binding) := by
  unfold takenOf7
  decide +kernel

/-- A SENT request of a run, whose slot is in some state. -/
def askedByRun (st : RunState) (n : Byte) : State :=
  hearing
    ((asking base [request3 (.sent 90) (.run 0 n)]).setSlot 0
      { RunSlot.reset with state := st, outstanding := [3] })

theorem witness_ChangeIsTaken_runs :
    ∀ st ∈ [RunState.idle, .waitTime 9, .waitConfirm], ∀ n ∈ [0, 1],
      takenOf7 (askedByRun st n) kindChange 0 (change30 [3])
        ∧ (askedByRun st n).requestOf 3 = some (request3 (.sent 90) (.run 0 n))
        ∧ ((askedByRun st n).slot 0).generation = 0 ∧ ((askedByRun st n).slot 0).state = st
        ∧ ((askedByRun st n).slot 0).outstanding.erase 3 = [] ∧ (askedByRun st n).NoneWaits := by
  unfold takenOf7
  decide +kernel

theorem witness_RequestIsDecided :
    takenOf7 (hearing base) kindRequest 4 [3, 5, 3, 20] ∧ base.start.state = .active
      ∧ (∃ h op, base.chan (chanOf 5) = .home h ∧ Op.ofCode 3 = some op ∧ h.state = .live
        ∧ opValid h.kind op 20 = true ∧ (hearing base).queue.changeCanBeHad (chanOf 5) = true)
      ∧ takenOf7 (hearing base) kindRequest 4 [3, 30, 1, 1]
      ∧ (base.chan (chanOf 30)).isHome = false := by
  refine ⟨?_, by decide, ⟨_, _, rfl, rfl, by decide, by decide, by decide⟩, ?_, by decide⟩ <;>
    (unfold takenOf7; decide +kernel)

/-- Frames to this station in LISTENING and JOINING, and to another station in those and in ACTIVE. -/
theorem witness_overheard :
    ∀ st ∈ [StationState.listening, .joining, .active],
      ∀ x ∈ [(kindRequest, [3, 5, 3, 20]), (kindFetch, [2]), (kindRecallReply, [1]), (kindQuery, [1, 0]),
        ((kindRestart : BitVec 4), ([1] : List Byte))],
        takenOf7 (hearing (inState base st)) x.1 4 x.2
          ∧ takenOf7 (hearing (inState base st)) x.1 9 x.2
          ∧ (9 : Addr) ≠ base.start.ownAddress ∧ (4 : Addr) = base.start.ownAddress := by
  unfold takenOf7
  decide +kernel

theorem witness_RequestIsDecided_elsewhere :
    takenOf7 (hearing (inState base .joining)) kindRequest 4 [3, 5, 3, 20]
      ∧ (inState base .joining).start.state ≠ .active
      ∧ takenOf7 (hearing base) kindRequest 9 [3, 5, 3, 20] := by
  unfold takenOf7
  decide +kernel

/-- A binding of key 7 that sets a channel to 1. -/
def setBinding (c : Chan) : Binding :=
  { source := .key 7, trigger := .press, condition := none, action := .channel c .set 1 }

theorem witness_OperationIsApplied :
    (∃ h, base.chan 5 = .home h)
      ∧ (∃ h, base.chan 2 = .home h ∧ h.state = .live ∧ opValid h.kind .set 1 = true)
      ∧ (∃ h, (inState base .joining).chan 2 = .home h ∧ opValid h.kind .stepUp 1 = false)
      ∧ base.chan 3 = .unused ∧ (∃ m, base.chan 30 = .mirror m)
      ∧ (setBinding 2).action = .channel 2 .set 1 :=
  ⟨⟨_, rfl⟩, ⟨_, rfl, rfl, rfl⟩, ⟨_, rfl, rfl⟩, rfl, ⟨_, rfl⟩, rfl⟩

/-- Station 7 is PRESENT and its mirror STALE. -/
def staleMirror : State :=
  base.setChan 30
    (.mirror
      { kind := .switch, owner := 7, value := 1, version := 9, heldIncarnation := 1, state := .stale })

theorem witness_FetchIsAnswered :
    (takenOf7 (hearing base) kindFetch 4 [63, 2] ∧ (hearing base).start.state = .active
        ∧ (of7 kindFetch 4 [63, 2]).destination = (hearing base).start.ownAddress)
      ∧ (staleMirror.start.state = .active ∧ (staleMirror.peer 7).fetchOut = false
        ∧ staleMirror.wanted 7 ≠ [] ∧ (onBusy staleMirror).line.condition ≠ .idle
        ∧ base.wanted 7 = []) := by
  unfold takenOf7
  decide +kernel

theorem witness_RecallIsAnswered :
    let rx := frameFrom 7 0 kindRecall 0 [30]
    (hearing base).Awake ∧ (hearing base).HearsTaken kindRecall rx
      ∧ (hearing base).start.state.hearsPeers = true
      ∧ rx.source ≠ (hearing base).start.ownAddress ∧ rx.incarnation = 0
      ∧ ∀ e ∈ (hearing base).requests.entries, e.owner ≠ rx.source := by
  decide +kernel

/-- RECALLs with other incarnations: of a known sender, under a new incarnation while a request to it is
outstanding, and of a peer that becomes PRESENT and whose mirror is wanted. -/
theorem witness_RecallIsAnswered_incarnations :
    let evidence (s : State) (i : Byte) : Bool × State :=
      ((s.advance (alone 9)).bump .framesTaken).evidence 7 i none
    takenOf7 (hearing base) kindRecall 0 [30]
      ∧ (askedChange.Awake ∧ askedChange.HearsTaken kindRecall (frameFrom 7 2 kindRecall 0 [30])
        ∧ askedChange.start.state.hearsPeers = true
        ∧ (frameFrom 7 2 kindRecall 0 [30]).source ≠ askedChange.start.ownAddress
        ∧ (evidence askedChange 2).1 = false)
      ∧ (let s := hearing (staleMirror.setPeer 7 { staleMirror.peer 7 with presence := .silent });
        s.Awake ∧ s.HearsTaken kindRecall (of7 kindRecall 0 [30])
          ∧ (evidence s 1).1 = true ∧ (evidence s 1).2.wouldFetch 7 = true) := by
  unfold takenOf7
  decide +kernel

theorem witness_RecallReplyIsCollected :
    takenOf7 (hearing joining) kindRecallReply 4 [6, 2, 1, 0, 3]
      ∧ (hearing joining).start.state = .joining
      ∧ (hearing joining).start.collection.isSome = true
      ∧ takenOf7 (hearing base) kindRecallReply 4 [6]
      ∧ (hearing base).start.collection = none := by
  unfold takenOf7
  decide +kernel

/-- A state in which one place is free in the queue, and a QUERY arrives. -/
def asked : State := hearing (queued base (changes 11))

/-- The contents are there for an item and an index. -/
def hasReply (item index : Byte) : Prop :=
  takenOf7 asked kindQuery 4 [item, index]
    ∧ (((asked.advance (alone 9)).heardFrom (frameOf kindQuery (of7 kindQuery 4 [item, index]))).replyContents
      item index).isSome = true

theorem witness_QueryIsAnswered :
    asked.start.state ≠ .listening ∧ asked.queue.entries.length < 12 ∧ hasReply 1 0 ∧ hasReply 2 63
      ∧ hasReply 3 31 ∧ hasReply 4 2 ∧ takenOf7 (hearing base) kindQuery 4 [0, 0]
      ∧ takenOf7 (hearing base) kindQuery 4 [2, 64] ∧ takenOf7 (hearing base) kindReply 4 [1, 0]
      ∧ takenOf7 (hearing (inState base .listening)) kindQuery 4 [1, 0] := by
  refine ⟨by decide, by decide, ?_, ?_, ?_, ?_, ?_, ?_, ?_, ?_⟩ <;>
    (try unfold hasReply) <;> (unfold takenOf7; decide +kernel)

/-- CONFIG_FAULT, with no HOME or MIRROR record and the own incarnation 0. -/
def faulty : State :=
  hearing
    { State.reset with
      start := { StartController.reset with hold := .none, state := .configFault, ownAddress := 4 } }

theorem witness_QueryIsAnswered_configFault :
    faulty.Awake ∧ faulty.start.state = .configFault ∧ faulty.queue.entries.length < 12
      ∧ faulty.HearsTaken kindQuery (of7 kindQuery 4 [1, 0])
      ∧ ((faulty.advance (alone 9)).bump .framesTaken).replyContents 1 0 ≠ none
      ∧ faulty.HearsTaken kindQuery (of7 kindQuery 4 [4, 0])
      ∧ faulty.HearsTaken kindRequest (of7 kindRequest 4 [3, 5, 3, 20])
      ∧ faulty.HearsTaken kindRestart (of7 kindRestart 9 [0])
      ∧ (of7 kindRestart 9 [0]).destination ≠ faulty.start.ownAddress := by
  decide +kernel

theorem witness_WhatRepliesCarry :
    base.start.state ≠ .configFault ∧ (base.chan (chanOf 2)).isHome = true
      ∧ (base.chan (chanOf 30)).isMirror = true ∧ (1 : Byte).setWidth 5 ≠ base.start.ownAddress
      ∧ (31 : Byte).setWidth 5 ≠ base.start.ownAddress
      ∧ base.chan (chanOf 63) = .unused ∧ (4 : Byte).setWidth 5 = base.start.ownAddress := by decide

theorem witness_RestartIsTaken :
    takenOf7 (hearing base) kindRestart 4 [1] ∧ (1 : Byte) = base.peers.ownIncarnation
      ∧ takenOf7 (hearing base) kindRestart 4 [2] ∧ (2 : Byte) ≠ base.peers.ownIncarnation
      ∧ base.start.state ≠ .listening
      ∧ takenOf7 (hearing (inState base .listening)) kindRestart 4 [1] := by
  unfold takenOf7
  decide +kernel

theorem witness_RestartIsTaken_configFault :
    faulty.Awake ∧ faulty.start.state = .configFault ∧ faulty.peers.ownIncarnation = 0
      ∧ faulty.HearsTaken kindRestart (of7 kindRestart 4 [0])
      ∧ faulty.HearsTaken kindRestart (of7 kindRestart 4 [1])
      ∧ (of7 kindRestart 4 [0]).destination = faulty.start.ownAddress := by
  decide +kernel

theorem witness_PeerFallsSilent :
    base.Awake ∧ base.start.state.hearsPeers = true ∧ (base.peer 7).silentAt = some 9000
      ∧ 9000 = base.now + 9000 := by decide

/-- Frames of station 7 that change its record: under another incarnation, and malformed. -/
theorem witness_EvidenceOfAPeer_frames :
    let taken := frameFrom 7 2 kindFetch 4 [2]
    let malformed := frameFrom 7 2 kindFetch 4 [64]
    frameRow (.fetch (alone 9) taken) = some (kindFetch, taken) ∧ (hearing base).Awake
      ∧ (hearing base).HearsTaken kindFetch taken
      ∧ (hearing base).HearsValid kindFetch malformed
      ∧ wellFormed (hearing base).channels.records (frameOf kindFetch malformed) = false
      ∧ malformed.source ≠ 0 := by
  decide +kernel

theorem witness_EvidenceOfAPeer :
    (∀ a ∈ [(7 : Addr), 9], base.start.state.hearsPeers = true ∧ a ≠ base.start.ownAddress)
      ∧ (inState base .configFault).start.state.hearsPeers = false
      ∧ ((base.peer 7).incarnation ≠ 0 ∧ (base.peer 7).incarnation ≠ 2)
      ∧ ((asking base [request3 .queued .binding]).requests.entries.filter
          fun e => e.owner == 7).map ReqEntry.tag = [3]
      ∧ 2 ≤ ([3, 4] : List Byte).length
      ∧ staleMirror.wouldFetch 7 = true ∧ base.wouldFetch 7 = false := by
  decide +kernel

theorem witness_AnnounceIsOffered :
    ∀ n ∈ [0, 11, 12],
      let s : State :=
        { queued base (changes n) with peers := { base.peers with announceAt := some 9 } }
      s.Awake ∧ s.start.state = .active ∧ s.peers.announceAt = some 9 ∧ 9 = s.now + 9
        ∧ (onBusy s).line.condition ≠ .idle := by decide

theorem witness_RequestIsIssued :
    base.start.state = .active ∧ (base.peer 9).presence ≠ .present
      ∧ (inState base .joining).start.state ≠ .active
      ∧ (base.peer 7).presence = .present
      ∧ (asking base (List.replicate 8 (request3 .queued .binding))).requests.entries.length = 8
      ∧ (asking base (List.replicate 7 (request3 .queued .binding))).requests.entries.length < 8
      ∧ (queued base (changes 11)).queue.entries.length < 12
      ∧ (onBusy base).line.condition ≠ .idle
      ∧ ((queued base (changes 12)).queue.offer .active (.request 0 30 .set 1) 7).1 ≠ .admitted := by
  decide

/-- A request of a binding, its confirm deadline at time 90. -/
def confirming : State := asking base [request3 (.sent 90) .binding]

/-- As `waiting`, with a second WAIT behind the first. -/
def waitingTwice : State :=
  { waiting with macros := { waiting.macros with table := [[.wait 10, .wait 20]] } }

theorem witness_ConfirmAndWaitDeadlines :
    (confirming.Awake ∧ confirming.requestOf 3 = some (request3 (.sent 90) .binding)
        ∧ 90 = confirming.now + 90 ∧ confirming.NoneWaits)
      ∧ (waiting.Awake ∧ (waiting.slot 0).state = .waitTime 60 ∧ 60 = waiting.now + 60
        ∧ waiting.stepOf (waiting.slot 0).next = none ∧ (waiting.slot 0).stack = [])
      ∧ (waitingTwice.Awake ∧ (waitingTwice.slot 0).state = .waitTime 60
        ∧ waitingTwice.stepOf (waitingTwice.slot 0).next = some (.wait 20)) := by decide

/-- The emitter with a current emission and some waiting. -/
def fullEmitter (n : Nat) : State :=
  { emitting with emitter := { emitting.emitter with queue := List.replicate n emission0 } }

theorem witness_EmitActionNeverWaits :
    ((fullEmitter 3).offerEmission emission0).1 = true
      ∧ ((fullEmitter 4).offerEmission emission0).1 = false := by decide

/-- Slot 0 runs macro 0 of three, and the third begins with a WAIT. -/
def oneBusy : State :=
  { waiting with macros := { waiting.macros with table := [[.wait 10], [.wait 10], [.wait 30]] } }

/-- As `oneBusy`, with a run of macro 1 in slot 1. -/
def bothBusy : State :=
  { oneBusy with
    macros :=
      { oneBusy.macros with
        slots :=
          oneBusy.macros.slots.set 1
            { RunSlot.reset with state := .waitTime 70, root := 1, current := 1 } } }

theorem witness_GestureIsDelivered :
    base.start.state = .active ∧ (inState base .joining).start.state ≠ .active
      ∧ ((oneBusy.slot 0).state ≠ .idle ∧ (oneBusy.slot 0).root = 0
        ∧ ∀ j, j ≠ 0 → (oneBusy.slot j).state = .idle ∨ (oneBusy.slot j).root ≠ 0)
      ∧ oneBusy.macros.table.getD (0 : MacroId).val [] = [.wait 10]
      ∧ (∀ i, (bothBusy.slot i).state ≠ .idle ∧ (bothBusy.slot i).root ≠ 2)
      ∧ (∀ j, (oneBusy.slot j).state = .idle ∨ (oneBusy.slot j).root ≠ 2)
      ∧ oneBusy.macros.table.getD (2 : MacroId).val [] = [.wait 30]
      ∧ (oneBusy.slot 1).state = .idle ∧ ∀ j, j < 1 → (oneBusy.slot j).state ≠ .idle := by decide

/-- Slot 0 performs a step: the only one of macro 0, or none is left. -/
def performing (steps : List Step) : State :=
  { base with
    macros :=
      { table := [steps]
        slots := base.macros.slots.set 0 { RunSlot.reset with state := .performing } } }

/-- The step that slot 0 is at. -/
def stepAt0 (s : State) : Option Step := s.stepOf (s.slot 0)

theorem witness_RunStepsAct :
    stepAt0 (performing [.channel 2 .set 1]) = some (.channel 2 .set 1)
      ∧ stepAt0 (performing [.channel 30 .set 1]) = some (.channel 30 .set 1)
      ∧ ((performing [.channel 30 .set 1]).issue 30 7 .set 1 (.run 0 0)).1 = .made 0
      ∧ ((performing [.channel 30 .set 1]).issue 30 9 .set 1 (.run 0 0)).1 = .ownerAbsent
      ∧ ((asking (performing [.channel 30 .set 1])
          (List.replicate 8 (request3 .queued .binding))).issue 30 7 .set 1 (.run 0 0)).1 = .busy
      ∧ stepAt0 (performing [.wait 10]) = some (.wait 10)
      ∧ (∀ stop ∈ [true, false], stepAt0 (performing [.confirm stop]) = some (.confirm stop))
      ∧ stepAt0 (performing [.emit emission0]) = some (.emit emission0)
      ∧ ((performing [.emit emission0]).offerEmission emission0).1 = true
      ∧ ((fullEmitter 4).offerEmission emission0).1 = false
      ∧ stepAt0 (performing [.call 1]) = some (.call 1)
      ∧ stepAt0 (performing []) = none ∧ ((performing []).slot 0).stack = [] := by
  decide +kernel

theorem witness_OutcomesAndGrants :
    confirming.requestOf 3 = some (request3 (.sent 90) .binding) ∧ base.requestOf 3 = none
      ∧ base.requests.waiting = [] ∧ base.requestRoom = true
      ∧ (inState base .joining).requestRoom = false
      ∧ (placeWanted.emitter.waiting = 0 :: [] ∧ 4 ≤ placeWanted.emitter.queue.length)
      ∧ base.emitter.waiting = []
      ∧ base.queue.evicted = false
      ∧ (TxQueue.mk [] true).evicted = true := by
  decide

/-- The head of the waiting order of the Request Table, with room for its request. -/
theorem witness_OutcomesAndGrants_room :
    let s : State := { base with requests := { base.requests with waiting := [0] } }
    s.requests.waiting = 0 :: [] ∧ s.requestRoom = true := by decide

/-- A rival comes before the grant, before the next one, or is there with parts that are owed. -/
theorem witness_OutcomesAndGrants_rival :
    (let s : State := { base with rival := 1, requests := { base.requests with waiting := [0] } };
      s.requests.waiting = 0 :: [] ∧ s.requestRoom = true)
      ∧ (let s : State := { base with rival := 2, requests := { base.requests with waiting := [0] } };
        s.requests.waiting = 0 :: [] ∧ s.requestRoom = true ∧ s.rival ≠ 1)
      ∧ (let s : State := { confirming with rival := 1, owed := [.table] };
        s.requestOf 3 = some (request3 (.sent 90) .binding)) := by
  decide

/-- An event with a rival and a debt, behind which the station is ACTIVE; one without a rival; and one that
has had its effect. -/
theorem witness_OutcomesAndGrants_events :
    let s : State := { roomWanted with pending := [waitEnds] }
    let first : State :=
      (State.confirmExpiry 3 (({ s with rival := 1 } : State).advance (alone 90))).settle
    s.start.hold = .none ∧ s.taken = 0 ∧ (moment waitEnds).rival = 1 ∧ isReset waitEnds = false
      ∧ (s.pending.takeWhile fun c => (moment c).rival != 0 && (moment c).after == 0 && !isReset c)
        = waitEnds :: []
      ∧ first.owed ≠ [] ∧ fromLine waitEnds = false
      ∧ first.metBy waitEnds = some (first.beside waitEnds)
      ∧ (first.beside waitEnds).start.state = .active
      ∧ first.metBy (.lineStuck ⟨0, 1⟩) = some (first.beside (.lineStuck ⟨0, 1⟩))
      ∧ base.metBy waitEnds = none
      ∧ (after (.confirmDeadlineExpiry (alone 90) 3) s).taken ≠ 0
      ∧ (base.taken = 0 ∧ (base.pending.takeWhile isRival) = []) := by
  decide

/-- Three keys of a rectangle with key 7 are listed. -/
def threeListed : List Pressed :=
  [{ key := 6, stuckAt := 9 }, { key := 1, stuckAt := 9 }, { key := 0, stuckAt := 9 }]

theorem witness_ScanReadsTheKeys :
    (base.Awake ∧ base.scanner.scanAt = some 0 ∧ 0 = base.now + 0
        ∧ ∀ k : Key, reads (readings noColumns) k = ((base.keyRec k).state != .up))
      ∧ (thirdReading.Awake ∧ thirdReading.scanner.scanAt = some 0
        ∧ thirdReading.changes (readings column7) true = [7]
        ∧ thirdReading.changes (readings column7) false = []) := by
  decide +kernel

theorem witness_ScanReadsTheKeys_presses :
    State.reset.scanner.settling ≠ 0
      ∧ (base.scanner.settling = 0 ∧ base.scanner.pressed.length < 4)
      ∧ (threeListed ++ [({ key := 40, stuckAt := 9 } : Pressed)]).length = 4
      ∧ threeListed.map Pressed.key = [6, 1, 0]
      ∧ (6 / 6 = 7 / 6 ∧ 6 % 6 ≠ 7 % 6 ∧ 1 % 6 = 7 % 6 ∧ 1 / 6 ≠ 7 / 6 ∧ 0 / 6 = 1 / 6
        ∧ 0 % 6 = 6 % 6)
      ∧ (heldKey.keyRec 7).state = .listed ∧ (heldKey.keyRec 8).state ≠ .listed
      ∧ heldKey.gestures.trackers = [] ++ { source := .key 7, phase := .held 40 } :: []
      ∧ ∀ x ∈ ([] : List Tracker) ++ [], x.source ≠ .key 7 := by
  decide

theorem witness_KeyIsStuck :
    heldKey.Awake
      ∧ heldKey.scanner.pressed.find? (fun q => decide (q.stuckAt ≤ heldKey.now + 50))
        = some { key := 7, stuckAt := 50 }
      ∧ heldKey.gestures.trackers = [] ++ { source := .key 7, phase := .held 40 } :: []
      ∧ ∀ t ∈ ([] : List Tracker) ++ [], t.source ≠ .key 7 := by
  decide

theorem witness_HoldAndRepeat :
    heldKey.Awake ∧ heldKey.nextTracker .key = some { source := .key 7, phase := .held 40 }
      ∧ 40 = heldKey.now + 40
      ∧ ({ heldKey with
          gestures :=
            { heldKey.gestures with trackers := [{ source := .ir 0 1, phase := .short 40 }] } } :
          State).nextTracker .ir = some { source := .ir 0 1, phase := .short 40 } := by decide

/-- Two keys with one deadline and one with a later one: the first of the two in the pressed-key list. -/
theorem witness_HoldAndRepeat_earliest :
    let x (k : Key) (d : Time) : Tracker := { source := .key k, phase := .held d }
    let s : State :=
      { heldKey with
        scanner :=
          { heldKey.scanner with
            pressed := [⟨8, 50⟩, ⟨7, 50⟩, ⟨9, 50⟩] }
        gestures := { heldKey.gestures with trackers := [x 9 40, x 7 40, x 8 41] } }
    (s.scanner.pressed.filterMap fun p =>
        s.gestures.trackers.find? fun y => y.source == .key p.key)
        = [x 8 41] ++ x 7 40 :: [x 9 40]
      ∧ s.nextTracker .key = some (x 7 40)
      ∧ (base.scanner.pressed.filterMap fun p =>
        base.gestures.trackers.find? fun y => y.source == .key p.key) = [] := by decide

/-- A leader space in progress. -/
def leaderSpace : State := receiver base false (.leader 0) none

/-- A mark in progress in IDLE. -/
def firstMark : State := receiver base true .idle none

/-- A bit mark in progress. -/
def bitMark : State := receiver base true (.bits 0 7 2) none

/-- A mark that was in progress when blanking ended, and a space before the first mark. -/
def unmeasured (level : Bool) : State :=
  let s := receiver base level .idle none
  { s with ir := { s.ir with since := none } }

theorem witness_InfraredEdges :
    (leaderSpace.Awake ∧ leaderSpace.ir.blanking = .off ∧ leaderSpace.ir.since = some 0
        ∧ leaderSpace.ir.level = false)
      ∧ (firstMark.Awake ∧ firstMark.ir.blanking = .off ∧ firstMark.ir.since = some 0
        ∧ firstMark.ir.level = true ∧ firstMark.ir.decoder = .idle)
      ∧ (∀ s ∈ [bitMark, stopMark, holdMark], s.Awake ∧ s.ir.blanking = .off
        ∧ s.ir.since = some 0 ∧ s.ir.level = true ∧ s.ir.codeSets[(0 : SetId).val]? = some set0)
      ∧ bitMark.ir.decoder = .bits 0 7 2 ∧ stopMark.ir.decoder = .stop 0 (.code 0x5A)
      ∧ holdMark.ir.decoder = .stop 0 .hold
      ∧ (∀ d ∈ [800, 1200], inWindow set0.bitMark set0.tolerance d = true)
      ∧ (∀ d ∈ [799, 1201], inWindow set0.bitMark set0.tolerance d = false)
      ∧ stopMark.ir.limitPassed (stopMark.now + 1201 - 0) = true
      ∧ stopMark.ir.limitPassed (stopMark.now + 1200 - 0) = false
      ∧ (∀ level ∈ [true, false], (unmeasured level).Awake ∧ (unmeasured level).ir.since = none
        ∧ (unmeasured level).ir.blanking = .off ∧ (unmeasured level).ir.level = level)
      ∧ (emitting.Awake ∧ emitting.ir.blanking ≠ .off) := by
  refine ⟨by decide, by decide, by decide, by decide, by decide, by decide, by decide, by decide,
    by decide, by decide, by decide, by decide⟩

/-- Each case of the judgement of a space, a mark and a limit, at the ends of the windows. -/
theorem witness_InfraredEdges_windows :
    let r (d : Decoder) (level : Bool) : IrReceiver := (receiver base level d none).ir
    (∀ d ∈ [3200, 4800], (r (.leader 0) false).spaceEnd d = .bits 0 0 0)
      ∧ (∀ d ∈ [1600, 2400], (r (.leader 0) false).spaceEnd d = .stop 0 .hold)
      ∧ (∀ d ∈ [1599, 2401, 3199, 4801], (r (.leader 0) false).spaceEnd d = .idle)
      ∧ (∀ d ∈ [800, 1200], (r (.bits 0 6 2) false).spaceEnd d = .bits 0 7 2)
      ∧ (∀ d ∈ [2400, 3600], (r (.bits 0 7 2) false).spaceEnd d = .stop 0 (.code 0x82))
      ∧ (∀ d ∈ [799, 1201, 2399, 3601], (r (.bits 0 6 2) false).spaceEnd d = .idle)
      ∧ (∀ d ∈ [6400, 9600], (r .idle true).leaderSet d = some 0)
      ∧ (∀ d ∈ [6399, 9601], (r .idle true).leaderSet d = none)
      ∧ (r (.leader 0) false).limitPassed 4800 = false ∧ (r (.leader 0) false).limitPassed 4801 = true
      ∧ (r (.bits 0 6 2) true).limitPassed 1200 = false ∧ (r (.bits 0 6 2) true).limitPassed 1201 = true
      ∧ (r (.bits 0 6 2) false).limitPassed 3600 = false
      ∧ (r (.bits 0 6 2) false).limitPassed 3601 = true := by decide

/-- A code is held, and its gesture is SHORT. -/
def heldCode : State :=
  { holdMark with
    gestures :=
      { holdMark.gestures with trackers := [{ source := .ir 0 0x5A, phase := .short 1 }] } }

/-- A whole code ends while a code is held. -/
def codeWhileHeld (v : CodeValue) : State :=
  { heldCode with ir := { heldCode.ir with decoder := .stop 0 (.code v) } }

theorem witness_CodesAreHeldAndReleased :
    (stopMark.Awake ∧ stopMark.ir.blanking = .off ∧ stopMark.ir.since = some 0
        ∧ stopMark.ir.level = true ∧ stopMark.ir.codeSet 0 = some set0
        ∧ inWindow set0.bitMark set0.tolerance (stopMark.now + 800 - 0) = true
        ∧ inWindow set0.bitMark set0.tolerance (stopMark.now + 1200 - 0) = true
        ∧ stopMark.ir.decoder = .stop 0 (.code 0x5A) ∧ stopMark.ir.held = none)
      ∧ (holdMark.Awake ∧ holdMark.ir.decoder = .stop 0 .hold ∧ holdMark.ir.level = true
        ∧ holdMark.ir.held = some { set := 0, value := 0x5A, release := .running 2000 })
      ∧ (heldCode.Awake ∧ 2000 = heldCode.now + 2000 ∧ heldCode.ir.blanking = .off
        ∧ heldCode.ir.held = some { set := 0, value := 0x5A, release := .running 2000 }
        ∧ heldCode.gestures.trackers = [] ++ { source := .ir 0 0x5A, phase := .short 1 } :: []) := by
  decide

theorem witness_CodesAreHeldAndReleased_again :
    (codeWhileHeld 0x5A).Awake ∧ (codeWhileHeld 0x5A).ir.decoder = .stop 0 (.code 0x5A)
      ∧ (codeWhileHeld 0x5B).Awake ∧ (codeWhileHeld 0x5B).ir.decoder = .stop 0 (.code 0x5B)
      ∧ (codeWhileHeld 0x5B).ir.held
        = some { set := 0, value := 0x5A, release := .running 2000 }
      ∧ ¬((0 : SetId) = 0 ∧ (0x5A : CodeValue) = 0x5B) := by
  decide

/-- The emission is at its last frame, and another one waits. -/
def lastOfTwo : State :=
  { lastFrame with emitter := { lastFrame.emitter with queue := [emission0] } }

/-- Blanking has 10 ms to go. -/
def tail : State := after (.emissionEnd (alone (100 * ms))) lastFrame

theorem witness_EmissionProceeds :
    (emitting.Awake ∧ emitting.ir.codeSet 0 = some set0
        ∧ emitting.emitter.current = some { emission := emission0, begun := 1, frameStart := 0 }
        ∧ 0 + max (set0.framePeriod * ms)
            (((⟨emission0, 1, 0⟩ : Current).intervals set0).sum * us) = emitting.now + 100 * ms
        ∧ 1 < emission0.repeats)
      ∧ (lastFrame.Awake ∧ emission0.repeats ≤ 2 ∧ lastFrame.emitter.queue = []
        ∧ lastFrame.emitter.current = some { emission := emission0, begun := 2, frameStart := 0 })
      ∧ (lastOfTwo.Awake ∧ lastOfTwo.emitter.queue = [emission0] ∧ lastOfTwo.emitter.waiting = []
        ∧ lastOfTwo.ir.blanking = .on)
      ∧ (tail.Awake ∧ tail.ir.blanking = .ending (110 * ms) ∧ 110 * ms = tail.now + 10 * ms
        ∧ tail.ir.held = some { set := 0, value := 0x5A, release := .suspended 70 }) := by decide

/-- The three cases of an offer: ADDRESS_CONFLICT, an emitter at rest, and one that emits. -/
theorem witness_EmissionProceeds_offers :
    (inState base .addressConflict).start.state = .addressConflict
      ∧ base.start.state ≠ .addressConflict ∧ base.emitter.current = none
      ∧ (fullEmitter 3).emitter.current ≠ none ∧ (fullEmitter 3).emitter.queue.length < 4
      ∧ (fullEmitter 4).emitter.queue.length = 4 := by decide

/-- A slot and a rival wait for the place that the end of the emission frees. -/
theorem witness_EmissionProceeds_rival :
    let s : State := { placeWanted with pending := [waitEnds] }
    let u : State :=
      { s.advance (alone (100 * ms)) with
        rival := 1
        emitter :=
          { current := some { emission := emission0, begun := 1, frameStart := s.now + 100 * ms }
            queue := List.replicate 3 emission0, waiting := s.emitter.waiting } }
    let v : State := (effectOf waitEnds (u.advance (moment waitEnds))).settle
    EmitterSound s ∧ s.start.hold = .none ∧ s.queue.evicted = false ∧ s.owed = [] ∧ s.taken = 0
      ∧ s.rivals = [waitEnds] ∧ (moment waitEnds).rival = 1
      ∧ s.emitter.current = some ⟨emission0, 2, 0⟩
      ∧ s.ir.codeSet emission0.set = some set0
      ∧ 0 + max (set0.framePeriod * ms) (((⟨emission0, 2, 0⟩ : Current).intervals set0).sum * us)
        = s.now + 100 * ms
      ∧ emission0.repeats ≤ 2 ∧ s.emitter.queue = emission0 :: List.replicate 3 emission0
      ∧ s.ir.blanking = .on ∧ s.emitter.waiting ≠ [] ∧ v.start.state = .active
      ∧ v.owed = [] := by decide

theorem witness_FadesAndFlashes :
    (fading.Awake ∧ (fading.outputs.loads[1]).map = some { chan := 5, mode := .dim 4 }
        ∧ (fading.outputs.loads[1]).stepAt = some 40 ∧ 40 = fading.now + 40)
      ∧ flashing.Awake ∧ (flashing.indicators.indicators[2]).flash = some 50
      ∧ 50 = flashing.now + 50 := by decide

theorem witness_PinsShow :
    (State.reset.start.state = .loading
        ∧ (inState base .addressConflict).start.state = .addressConflict
        ∧ base.start.state ∈ [StationState.listening, .joining, .active])
      ∧ ((flashing.indicators.indicators[2]).flash = some 50 ∧ flashing.now < 50
        ∧ (flashing.indicators.indicators[3]).flash = none)
      ∧ (emitting.emitter.current = some { emission := emission0, begun := 1, frameStart := 0 }
        ∧ emitting.ir.codeSet 0 = some set0 ∧ base.emitter.current = none
        ∧ 0 < ((⟨emission0, 1, 0⟩ : Current).intervals set0).length ∧ emitting.now < 4000 * us)
      ∧ (base.line.attempt = none ∧ base.line.answer = none)
      ∧ ((sending base change2 0 0).line.attempt.isSome = true
        ∧ (sending base change2 0 0).line.answer = none
        ∧ (attemptOf (sending base change2 0 0)).start ≤ base.now)
      ∧ (answeringDeclined.line.attempt = none
        ∧ answeringDeclined.line.answer = some { slot := .declined, seen := 1 }
        ∧ answeringDeclined.line.wire.edge ≤ answeringDeclined.now) := by
  decide

/-- A state in use with a command waiting: station 7's CHANGE is taken while a request is SENT and this
station's FETCH to station 7 is queued. -/
def busy : State :=
  let s := hearing (asking (queued base [Entry.new (.fetch [30]) 7]) [request3 (.sent 90) .binding])
  let s := s.setPeer 7 { s.peer 7 with fetchOut := true }
  { s with pending := [.change (alone 9) (of7 kindChange 0 [30, 0, 0, 10, 4, 3])] }

theorem witness_invariants_meet_a_step : ∃ t, step busy = .next t := ⟨_, rfl⟩

theorem witness_QueueAndLineStaySound : QueueSound busy ∧ LineSound busy := by decide

theorem witness_FetchFlagsStaySound : FetchSound busy ∧ (busy.peer 7).fetchOut = true := by
  decide +kernel

/-- Every record but three is UNUSED, in `busy` and in `hearing joining`. -/
theorem records_of_base (c : Chan) :
    c = 2 ∨ c = 5 ∨ c = 30 ∨ (busy.chan c = .unused ∧ (hearing joining).chan c = .unused) := by
  revert c
  decide +kernel

theorem witness_RecordsStaySound_values : ValuesInRange (hearing joining) := by
  refine ⟨?_, by decide, by decide⟩
  intro c
  rcases records_of_base c with rfl | rfl | rfl | h
  · exact ⟨rfl, rfl⟩
  · exact ⟨rfl, rfl⟩
  · exact rfl
  · rw [h.2]
    trivial

theorem witness_RecordsStaySound : HomesFollowStation busy := by
  intro c
  rcases records_of_base c with rfl | rfl | rfl | h
  · exact rfl
  · exact rfl
  · trivial
  · rw [h.1]
    trivial

theorem witness_FreshStaysPresent : PeriodsSound busy ∧ FreshIsPresent busy := by
  refine ⟨by decide, ?_⟩
  intro c
  rcases records_of_base c with rfl | rfl | rfl | h
  · trivial
  · trivial
  · exact fun _ => ⟨rfl, rfl, by decide⟩
  · rw [h.1]
    trivial

theorem witness_RequestsStaySound :
    (RequestsNameMirrors busy ∧ RequestsSound busy)
      ∧ MacrosBounded waiting ∧ RequestsSound waiting ∧ RunsAtRest waiting :=
  ⟨⟨by decide,
      ⟨by decide, by decide, by decide, by decide, fun _ h => absurd h List.not_mem_nil,
        fun _ h => absurd h List.not_mem_nil, by decide, rfl, rfl⟩⟩,
    by decide,
    ⟨by decide, by decide, by decide, by decide, fun _ h => absurd h List.not_mem_nil,
      fun _ h => absurd h List.not_mem_nil, by decide, rfl, rfl⟩,
    by decide⟩

/-- A run with a request outstanding. -/
theorem witness_RunsHoldTheirRequests :
    let s := (asking busy [request3 (.sent 90) (.run 0 0)]).setSlot 0
      { RunSlot.reset with state := .waitConfirm, outstanding := [3] }
    RequestsSound s ∧ OutstandingPresent s := by
  refine ⟨⟨by decide, by decide, by decide, by decide, fun _ h => absurd h List.not_mem_nil,
      fun _ h => absurd h List.not_mem_nil, by decide, rfl, rfl⟩, ?_⟩
  decide

theorem witness_BlocksStaySound :
    SilenceSound busy ∧ IncarnationSound busy ∧ EmitterSound busy ∧ EmitterSound emitting
      ∧ KeysSound heldKey ∧ OutputsSound fading := by
  refine ⟨?_, (by decide : (1 : Byte) ≠ 0), by decide, by decide, by decide +kernel,
    by decide +kernel⟩
  intro _
  decide +kernel

end Sys2Proof.Tests
end

section
/-! PROOFS. The panel line: the end of a reception that the IDLE declaration cuts (R13), and the end of
a frame whose frame check fails (R14). -/

namespace Sys2Proof.Machine

/-! ### The IDLE declaration (R3, R13) -/

/-- Counting on a condition changes the counters alone, and them only where it holds. -/
theorem State.bumpIf_eq (s : State) (b : Bool) (c : Counter) :
    s.bumpIf b c =
      { s with
        service :=
          if b = true then { s.service with counters := s.service.counters.inc c }
          else s.service } := by
  cases b <;> rfl

/-- Once the line has been recessive for 5 bit times outside an attempt, the IDLE declaration returns the
Line Unit to WAITING with nothing read and no slot, and counts the frame it cuts. -/
theorem State.idleDeclared_of_quiet {s : State} (busy : s.line.condition ≠ .idle)
    (free : s.line.attempt = none) (quiet : s.line.wire.quiet + idleRun ≤ s.now) :
    s.idleDeclared =
      { s with
        line :=
          { condition := .idle, activity := .waiting, attempt := none, reception := none
            answer := none, wire := s.line.wire }
        service :=
          if s.line.activity = .receiving then
            { s.service with counters := s.service.counters.inc .framesCut }
          else s.service } := by
  rw [State.idleDeclared, if_pos ⟨busy, free, quiet⟩, State.bumpIf_eq]
  simp only [State.setLine, free, beq_iff_eq]

/-- Without an attempt and without a slot the station leaves the line recessive. -/
theorem State.lineDriven_of_none {s : State} (attempt : s.line.attempt = none)
    (answer : s.line.answer = none) : s.lineDriven = false := by
  simp [State.lineDriven, attempt, answer]

/-- Settles O13: time leaves the Line Unit of a station without an attempt, so the declaration finds the
run of the hypothesis. -/
theorem idleCutsAReception : Obligations.IdleCutsAReception := by
  unfold Obligations.IdleCutsAReception
  intro s dt awake busy free quiet idle
  have line : (s.advance dt).line = s.line := State.advance_line_of_no_attempt dt free
  have declared : (s.advance dt).idleDeclared = idle := by
    have h := State.idleDeclared_of_quiet (s := s.advance dt) (by rwa [line]) (by rwa [line])
      (by rw [line]; exact quiet)
    rwa [line] at h
  exact ⟨event_eq awake declared awake.2.1, State.lineDriven_of_none rfl rfl⟩

/-! ### The end of a garbled frame (R6, R14) -/

/-- A frame is this station's if it is no broadcast and carries the own address (R6). -/
theorem State.isMine_iff (s : State) (f : Frame) :
    s.isMine f = true ↔ f.destination ≠ 0 ∧ f.destination = s.start.ownAddress := by
  simp [State.isMine]

/-- A broadcast and a frame for the own address: the destinations that JOINING and ACTIVE answer. -/
theorem State.broadcast_or_isMine_iff (s : State) (f : Frame) :
    (f.destination == 0 || s.isMine f) = true ↔
      f.destination = 0 ∨ f.destination = s.start.ownAddress := by
  rw [Bool.or_eq_true, beq_iff_eq, State.isMine_iff]
  tauto

/-- The station states that allow an answer, each with its destinations (R6). -/
theorem State.mayAnswer_iff (s : State) (f : Frame) :
    s.mayAnswer f = true ↔
      (s.start.state = .joining ∨ s.start.state = .active)
          ∧ (f.destination = 0 ∨ f.destination = s.start.ownAddress)
        ∨ s.start.state = .configFault ∧ f.destination ≠ 0
          ∧ f.destination = s.start.ownAddress := by
  unfold State.mayAnswer
  cases s.start.state with
  | joining => simpa using s.broadcast_or_isMine_iff f
  | active => simpa using s.broadcast_or_isMine_iff f
  | configFault => simpa using s.isMine_iff f
  | loading => simp
  | listening => simp
  | addressConflict => simp

/-- A garbled frame is counted and ends the reception; where the station may answer, its slot is
GARBLED. -/
theorem State.garbledFrame_eq (s : State) (f : Frame) :
    s.garbledFrame f =
      { s with
        service := { s.service with counters := s.service.counters.inc .framesGarbled }
        line :=
          { s.line with
            activity := .answering, reception := none
            answer := if s.mayAnswer f = true then some { slot := .garbled, seen := 0 } else none
            wire := { s.line.wire with quiet := max s.line.wire.quiet s.now } } } := by
  have slot : ((s.bump .framesGarbled).slotFor f .garbled) =
      if s.mayAnswer f = true then some .garbled else none := rfl
  rw [State.garbledFrame, State.answering, slot, apply_ite (Option.map _)]
  rfl

/-- Settles O23: the row is the reception of its frame, which ends at the frame check, and the gate of
its answer is the station state's. -/
theorem garbledFrame : Obligations.GarbledFrame := by
  unfold Obligations.GarbledFrame
  refine ⟨fun c s kind rx row awake hears header check => ?_, State.mayAnswer_iff⟩
  have line : (s.advance (moment c)).line = s.line :=
    State.advance_line_of_no_attempt (moment c) hears.1
  have ended : (s.advance (moment c)).receive kind rx =
      (s.advance (moment c)).garbledFrame (frameOf kind rx) :=
    State.receive_of_bad_check (hears.advance _) header check
  have settled : ((s.advance (moment c)).garbledFrame (frameOf kind rx)).queue.evicted = false :=
    awake.2.1
  rw [exec_frameRow row awake, ended, State.settle_of_not_evicted settled, State.garbledFrame_eq,
    line]
  rfl

end Sys2Proof.Machine
end

section
/-! PROOFS. Bindings: an EMIT action is complete at once, whether the emitter takes its emission or not
(R151). -/

namespace Sys2Proof.Machine

/-! ### An emission offer (R140) -/

/-- An offer that is FULL leaves the emitter and everything else. -/
theorem State.offerEmission_of_full {s : State} {e : Emission}
    (full : (s.offerEmission e).1 = false) : (s.offerEmission e).2 = s := by
  unfold State.offerEmission at full ⊢
  split at full
  next conflict => rw [if_pos conflict]
  next noConflict =>
    rw [if_neg noConflict]
    split at full
    next => cases full
    next =>
      split at full
      next => cases full
      next noRoom => rw [if_neg noRoom]

/-- An offer leaves the macros and the run slots, whatever the answer. -/
@[simp] theorem State.offerEmission_macros (s : State) (e : Emission) :
    (s.offerEmission e).2.macros = s.macros := by
  unfold State.offerEmission
  split
  next => rfl
  next =>
    split
    next => exact s.beginEmission_macros e
    next => split <;> rfl

/-! ### A station failure notice (R169) -/

theorem IndicatorMap.isStation_iff (m : IndicatorMap) : m.isStation = true ↔ m = .station := by
  cases m <;> simp [IndicatorMap.isStation]

/-- A station failure notice flashes every STATION indicator for 600 ms, and no other. -/
theorem State.failStation_eq (s : State) :
    s.failStation =
      { s with
        indicators :=
          { s.indicators with
            indicators :=
              mapV
                (fun i =>
                  if i.map = .station then { i with flash := some (s.now + 600 * ms) } else i)
                s.indicators.indicators } } := by
  simp only [State.failStation, State.flash, IndicatorMap.isStation_iff, flashTime]

/-! ### The EMIT action (R151) -/

theorem State.perform_of_emit (s : State) {b : Binding} {e : Emission} (emit : b.action = .emit e) :
    s.perform b =
      if (s.offerEmission e).1 = true then (s.offerEmission e).2
      else ((s.offerEmission e).2.bump .emissionsDropped).failStation := by
  rw [State.perform, emit]
  rfl

/-- An EMIT action that is FULL drops the emission, counts it, and gives a station failure notice. -/
theorem State.perform_of_full {s : State} {b : Binding} {e : Emission} (emit : b.action = .emit e)
    (full : (s.offerEmission e).1 = false) :
    s.perform b = (s.bump .emissionsDropped).failStation := by
  rw [s.perform_of_emit emit, if_neg (by simp [full]), State.offerEmission_of_full full]

/-- An EMIT action leaves the macros and the run slots: no run waits for it. -/
theorem State.perform_emit_macros (s : State) {b : Binding} {e : Emission}
    (emit : b.action = .emit e) : (s.perform b).macros = s.macros := by
  rw [s.perform_of_emit emit]
  split <;> simp

/-- Settles O41: ACCEPTED leaves the state of the offer, FULL that of the failure notice, and neither
touches a run slot. -/
theorem emitActionNeverWaits : Obligations.EmitActionNeverWaits := by
  unfold Obligations.EmitActionNeverWaits
  intro s b e rest emit
  refine ⟨List.foldl_cons .., fun accepted => ?_, fun full => ⟨?_, ?_⟩, s.perform_emit_macros emit⟩
  · rw [s.perform_of_emit emit, if_pos accepted]
  · exact State.offerEmission_of_full full
  · rw [State.perform_of_full emit full, State.failStation_eq]
    rfl

end Sys2Proof.Machine
end

section
/-! PROOFS. The moves that reach every block, each as one update of the state: what a validated image
gives, the line restart, and entry into ADDRESS_CONFLICT. -/

namespace Sys2Proof.Machine

/-- Entry into ADDRESS_CONFLICT, block by block (R117). -/
theorem State.enterConflict_eq (s : State) :
    s.enterConflict =
      { s with
        start :=
          { s.start with
            state := .addressConflict, listenAt := none, recallsOut := 0, recallAt := none
            collection := none }
        peers :=
          { s.peers with
            records := mapV (fun r => { r with silentAt := none, fetchOut := false }) s.peers.records
            announceAt := none }
        channels := { s.channels with records := mapV Record.freeze s.channels.records }
        queue := TxQueue.reset
        requests := { s.requests with entries := [], waiting := [] }
        macros := { s.macros with slots := mapV RunSlot.ended s.macros.slots }
        emitter := Emitter.reset
        ir := s.stopEmitter.ir
        outputs := { s.outputs with loads := mapV LoadOutput.stop s.outputs.loads }
        indicators :=
          { indicators := mapV (fun i => { i with flash := none }) s.indicators.indicators
            clockStart := s.now } } := by
  cases s
  rfl

/-- The line restart, block by block (R116). -/
theorem State.lineRestart_eq (s : State) :
    s.lineRestart =
      { s with
        start := s.start.restart s.now
        peers :=
          { s.peers with
            records := mapV PeerRec.restart s.peers.records, ownIncarnation := 0, announceAt := none }
        scanner := s.scanner.restart
        gestures := { s.gestures with trackers := [] }
        ir := ({ s with ir := s.ir.restart } : State).stopEmitter.ir
        line := { s.line with answer := none }
        channels := s.startChannels.channels
        queue := TxQueue.reset
        requests := { s.requests with entries := [], waiting := [] }
        macros := { s.macros with slots := mapV RunSlot.ended s.macros.slots }
        emitter := Emitter.reset
        indicators :=
          { s.indicators with
            indicators := mapV (fun i => { i with flash := none }) s.indicators.indicators } } := by
  cases s
  rfl

/-- What a validated image gives, block by block (R104). -/
theorem State.loadSucceeds_eq (s : State) (m : Image) :
    s.loadSucceeds m =
      { s with
        channels :=
          ({ s with channels := { s.channels with records := m.records } } : State).startChannels.channels
        peers := { s.peers with ownPeriod := m.settings.period }
        gestures :=
          { s.gestures with
            holdTime := m.settings.holdTime, repeatPeriod := m.settings.repeatPeriod }
        ir := { s.ir with codeSets := m.codeSets }
        bindings := m.bindings
        macros := { s.macros with table := m.macros }
        outputs :=
          { s.outputs with
            emitMap := m.emitMap
            loads :=
              tabV fun i : OutId => { s.outputs.loads[i] with map := m.loads.getD i.val none } }
        indicators :=
          { s.indicators with
            indicators :=
              tabV fun i : OutId =>
                { s.indicators.indicators[i] with map := m.indicators.getD i.val .none } }
        start :=
          { s.start with
            state := .listening, listenWindow := m.settings.listenWindow
            listenAt := some (s.now + m.settings.listenWindow), loaded := [] } } := by
  cases s
  rfl

/-- The station is ACTIVE under an incarnation, no recall window running (R114). -/
def State.becomesActive (s : State) (i : Byte) : State :=
  { s with
    start := { s.start with state := .active, recallAt := none, collection := none }
    peers := { s.peers with ownIncarnation := i } }

/-- Join completion: the HOME records behind the station state, the rotation cursor, the ANNOUNCE, and the
FETCH decisions (R114, R115). -/
theorem State.joinComplete_eq (s : State) (c : Collection) :
    s.joinComplete c =
      addresses.foldl State.fetchFrom
        (s.homeChans.foldl (State.joinChan c (nextIncarnation c.latest))
          (s.becomesActive (nextIncarnation c.latest))).resetCursor.offerAnnounce :=
  rfl

/-- One read of the configuration memory ends LOADING in CONFIG_FAULT, joins a byte to those read, or
completes a valid image (R101, R104). -/
theorem State.imageRead_cases {s : State} (answer : Option Byte) (hs : s.start.state = .loading) :
    (∃ c i, s.imageRead answer =
        { s with start := { s.start with state := .configFault, fault := c, loaded := [], imageId := i } })
      ∨ (∃ l i, s.imageRead answer = { s with start := { s.start with loaded := l, imageId := i } })
      ∨ ∃ l i m, validate s.start.ownAddress l = .ok m ∧ s.imageRead answer =
          ({ s with start := { s.start with loaded := l, imageId := i } } : State).loadSucceeds m := by
  unfold State.imageRead
  rw [if_pos hs]
  cases answer with
  | none => exact .inl ⟨.noMemory, s.start.imageId, rfl⟩
  | some b =>
    dsimp only [State.imageByte]
    have identified (l : List Byte) : ∃ i,
        ({ s with start := { s.start with loaded := l } } : State).readIdentity l =
          { s with start := { s.start with loaded := l, imageId := i } } := by
      unfold State.readIdentity
      split
      · exact ⟨_, rfl⟩
      · exact ⟨s.start.imageId, rfl⟩
    obtain ⟨i, hi⟩ := identified (s.start.loaded ++ [b])
    rw [hi]
    split
    next c _ => exact .inl ⟨c, i, rfl⟩
    next =>
      split
      · unfold State.imageComplete
        split
        next m hm =>
          refine .inr (.inr ⟨_, i, m, ?_, rfl⟩)
          unfold checkImage at hm
          split at hm
          · exact hm
          · cases hm
        next c _ => exact .inl ⟨c, i, rfl⟩
      · exact .inr (.inl ⟨_, i, rfl⟩)

/-- A read outside LOADING does nothing. -/
theorem State.imageRead_of_not {s : State} (answer : Option Byte) (hs : s.start.state ≠ .loading) :
    s.imageRead answer = s := by
  unfold State.imageRead
  rw [if_neg hs]

end Sys2Proof.Machine
end

section
/-! PROOFS. What actions keep. A predicate that every primitive update of an action keeps is kept by the
shared operations that are made of them: operations on channels, issues, run steps, grants, the ends of
requests, and gestures. One lemma for each shared operation, in the order of the model. -/

namespace Sys2Proof.Machine

/-- The primitive updates that actions are made of keep the predicate. -/
structure ActsKeep (P : State → Prop) : Prop where
  draws : ∀ {s : State} (n : Nat), P s → P { s with draws := n }
  rival : ∀ {s : State} (n : Nat), n ≤ s.rival → P s → P { s with rival := n }
  owe : ∀ {s : State} (o : Owing), s.rival ≠ 0 → o.ofFrame = false → P s → P (s.owe o)
  bump : ∀ {s : State} (c : Counter), P s → P (s.bump c)
  flash : ∀ {s : State} (p : IndicatorMap → Bool), P s → P (s.flash p)
  setSlot : ∀ {s : State} (i : SlotId) (r : RunSlot), P s → P (s.setSlot i r)
  tellOutputs : ∀ {s : State} (c : Chan) (v : Byte), P s → P (s.tellOutputs c v)
  offerEmission : ∀ {s : State} (e : Emission), P s → P (s.offerEmission e).2
  emitterWaiting : ∀ {s : State} (w : List SlotId), P s →
    P { s with emitter := { s.emitter with waiting := w } }
  waiting : ∀ {s : State} (w : List SlotId), P s →
    P { s with requests := { s.requests with waiting := w } }
  offer : ∀ {s : State} (c : Content) (dest : Addr), c.kind ≠ kindFetch → P s →
    P (s.offer c dest).2
  marked : ∀ {s : State} (tag : Byte) (e : Entry),
    s.queue.entries.find? (fun e => e.content.isRequest tag) = some e → e.onLine = true → P s →
    P { s with
        queue :=
          { s.queue with
            entries :=
              modifyFirst (fun e => e.content.isRequest tag) (fun e => { e with withdrawn := true })
                s.queue.entries } }
  dropped : ∀ {s : State} (tag : Byte) (e : Entry),
    s.queue.entries.find? (fun e => e.content.isRequest tag) = some e → e.onLine = false → P s →
    P { s with
        queue :=
          { s.queue with
            entries := s.queue.entries.eraseP fun e => e.content.isRequest tag } }
  settled : ∀ {s : State}, P s → P { s with queue := { s.queue with evicted := false } }
  applied : ∀ {s : State} {c : Chan} {h : HomeRec} {op : Op} {x : Byte} (o : Addr),
    s.chan c = .home h → opValid h.kind op x = true → P s →
    P (s.setChan c (.home (h.applied op x o)))
  dirty : ∀ {s : State} {c : Chan} {h : HomeRec} (d : Bool), s.chan c = .home h → P s →
    P (s.setChan c (.home { h with dirty := d }))
  made : ∀ {s : State} {c : Chan} {m : MirrorRec} (op : Op) (x : Byte) (o : Originator),
    s.chan c = .mirror m → s.start.state = .active → P s →
    P { s with requests := s.requests.make c op x m.owner o }
  removed : ∀ {s : State} (tag : Byte), P s → P (s.removeRequest tag)

namespace ActsKeep

variable {P : State → Prop} (K : ActsKeep P)
include K

/-! ### Failures, parts owed -/

theorem requestFailed {s : State} (c : Chan) (h : P s) : P (s.requestFailed c) :=
  K.flash _ (K.bump _ h)

theorem failStation {s : State} (h : P s) : P s.failStation := K.flash _ h

/-- A part of an event that is no frame's is done, or owed. -/
theorem thenDo {part : State → State} (hp : ∀ s, P s → P (part s)) {s : State} {o : Owing}
    (ho : o.ofFrame = false) (h : P s) : P (s.thenDo o part) := by
  unfold State.thenDo
  split
  next hb => exact K.owe o (s.behind_iff.1 hb).1 ho h
  next => exact hp s h

/-! ### Operations on channels -/

theorem modifyDirty {s : State} (c : Chan) (d : Bool) (h : P s) :
    P (s.modifyHome c fun h => { h with dirty := d }) := by
  unfold State.modifyHome
  split
  next hc => exact K.dirty d hc h
  next => exact h

theorem emitEntry (c : Chan) (v : Byte) {s : State} (e : EmitEntry) (h : P s) :
    P (State.emitEntry c v s e) := by
  unfold State.emitEntry
  split
  · dsimp only
    unfold State.bumpIf
    split
    · exact K.bump _ (K.offerEmission _ h)
    · exact K.offerEmission _ h
  · exact h

omit K in
/-- What a function keeps on every element, its fold keeps. -/
theorem foldl {α : Type} {f : State → α → State} (hf : ∀ s a, P s → P (f s a)) (l : List α) :
    ∀ {s : State}, P s → P (l.foldl f s) := by
  induction l with
  | nil => exact fun h => h
  | cons a l ih => exact fun h => ih (hf _ a h)

theorem emitMap {s : State} (c : Chan) (v : Byte) (h : P s) : P (s.emitMap c v) :=
  foldl (fun _ e hs => K.emitEntry c v e hs) _ h

theorem offerChange {s : State} (c : Chan) (r : HomeRec) (ps : List Pair) (h : P s) :
    P (s.offerChange c r ps) := by
  unfold State.offerChange
  dsimp only
  have offered := K.offer (.change { chan := c, value := r.value, version := r.version } ps) 0
    (by simp [Content.kind, kindChange, kindFetch]) h
  split
  · exact K.modifyDirty c true offered
  · exact offered

theorem apply {s : State} {c : Chan} {r : HomeRec} {op : Op} {x : Byte} (o : Addr) (ps : List Pair)
    (hc : s.chan c = .home r) (hv : opValid r.kind op x = true) (h : P s) :
    P (s.apply c r op x o ps) :=
  K.offerChange _ _ _ (K.emitMap _ _ (K.tellOutputs _ _ (K.applied o hc hv h)))

theorem localOp {s : State} (c : Chan) (op : Op) (x : Byte) (h : P s) : P (s.localOp c op x).2 := by
  unfold State.localOp
  split
  next r hc =>
    split
    next hv => exact K.apply 0 [] hc hv.2 h
    next => exact h
  next => exact h

/-! ### Issues and run steps -/

theorem issue {s : State} {c : Chan} {m : MirrorRec} (op : Op) (x : Byte) (o : Originator)
    (hc : s.chan c = .mirror m) (h : P s) : P (s.issue c m.owner op x o).2 := by
  unfold State.issue
  split
  · exact K.requestFailed c h
  next active =>
    split
    · exact K.requestFailed c h
    · split
      · exact K.requestFailed c h
      · have offered := K.offer
          (.request s.requests.freshTag c op (sentOperand op x)) m.owner
          (by simp [Content.kind, kindRequest, kindFetch]) h
        have kept : (s.offer (.request s.requests.freshTag c op (sentOperand op x)) m.owner).2.chan c
            = .mirror m := by
          obtain ⟨_, q, l, e, _⟩ :=
            s.offer_eq (.request s.requests.freshTag c op (sentOperand op x)) m.owner
          rw [e]
          exact hc
        dsimp only
        split
        · refine K.made op x o kept ?_ offered
          rw [(s.offer_acts _ _).start]
          exact not_not.1 active
        · exact K.requestFailed c offered

theorem completeRun {s : State} (i : SlotId) (h : P s) : P (s.completeRun i) := K.setSlot i _ h

theorem failRun {s : State} (i : SlotId) (h : P s) : P (s.failRun i) :=
  K.failStation (K.setSlot i _ h)

theorem leaveOrders {s : State} (i : SlotId) (h : P s) : P (s.leaveOrders i) :=
  K.emitterWaiting _ (K.waiting (s.requests.waiting.filter (· ≠ i)) h)

theorem abortRun {s : State} (i : SlotId) (h : P s) : P (s.abortRun i) :=
  K.setSlot i _ (K.leaveOrders i h)

theorem channelStep {s : State} (i : SlotId) (r : RunSlot) (c : Chan) (op : Op) (x : Byte)
    (h : P s) : P (s.channelStep i r c op x).2 := by
  unfold State.channelStep
  split
  next m hc =>
    have issued := K.issue op x (.run i r.generation) hc h
    revert issued
    generalize s.issue c m.owner op x (.run i r.generation) = a
    intro issued
    obtain ⟨a, u⟩ := a
    cases a with
    | made => exact K.setSlot i _ issued
    | ownerAbsent => exact K.setSlot i _ issued
    | busy => exact K.waiting _ (K.setSlot i _ issued)
  next => exact K.setSlot i _ (K.localOp c op x h)

theorem emitStep {s : State} (i : SlotId) (r : RunSlot) (e : Emission) (h : P s) :
    P (s.emitStep i r e).2 := by
  unfold State.emitStep
  dsimp only
  split
  · exact K.setSlot i _ (K.offerEmission e h)
  · exact K.emitterWaiting _ (K.setSlot i _ (K.offerEmission e h))

theorem confirmStep {s : State} (i : SlotId) (r : RunSlot) (b : Bool) (h : P s) :
    P (s.confirmStep i r b).2 := by
  unfold State.confirmStep
  split
  · split
    · exact K.failRun i h
    · exact K.setSlot i _ h
  · exact K.setSlot i _ h

theorem callStep {s : State} (i : SlotId) (r : RunSlot) (m : MacroId) (h : P s) :
    P (s.callStep i r m).2 := by
  unfold State.callStep
  split
  · exact K.setSlot i _ h
  · exact K.failRun i h

theorem macroEnd {s : State} (i : SlotId) (r : RunSlot) (h : P s) : P (s.macroEnd i r).2 := by
  unfold State.macroEnd
  split
  · exact K.completeRun i h
  · exact K.setSlot i _ h

theorem runStep {s : State} (i : SlotId) (h : P s) : P (s.runStep i).2 := by
  unfold State.runStep
  dsimp only
  split
  · exact K.macroEnd _ _ h
  · exact K.channelStep _ _ _ _ _ h
  · exact K.setSlot i _ h
  · exact K.confirmStep _ _ _ h
  · exact K.emitStep _ _ _ h
  · exact K.callStep _ _ _ h

theorem runSteps (n : Nat) (i : SlotId) : ∀ {s : State}, P s → P (State.runSteps n i s) := by
  induction n with
  | zero => exact fun h => h
  | succ n ih =>
    intro s h
    have step := K.runStep i h
    simp only [State.runSteps]
    split
    next t e => rw [e] at step; exact ih step
    next t e => rw [e] at step; exact step

theorem resume {s : State} (i : SlotId) (h : P s) : P (s.resume i) :=
  K.runSteps _ _ (K.setSlot i _ h)

theorem resumeNext {s : State} (i : SlotId) (h : P s) : P (s.resumeNext i) :=
  K.runSteps _ _ (K.setSlot i _ h)

/-! ### Grants and the ends of requests -/

theorem grants (n : Nat) : ∀ {s : State}, P s → P (State.grants n s) := by
  induction n with
  | zero => exact fun h => h
  | succ n ih =>
    intro s h
    simp only [State.grants]
    split
    · exact h
    next rest _ =>
      split
      · split
        next hr => exact K.owe .table (by omega) rfl h
        next => exact ih (K.resume _ (K.waiting rest (K.rival (s.rival - 1) (Nat.sub_le ..) h)))
      · exact h

theorem grantOccasion {s : State} (h : P s) : P s.grantOccasion :=
  K.thenDo (fun _ => K.grants 3) rfl h

theorem settle {s : State} (h : P s) : P s.settle := by
  unfold State.settle
  split
  · exact K.settled (K.grantOccasion (K.settled h))
  · exact h

theorem outcomeToRun {s : State} (i : SlotId) (t : Byte) (b : Bool) (h : P s) :
    P (s.outcomeToRun i t b) := by
  unfold State.outcomeToRun
  dsimp only
  split
  · exact h
  · split
    · exact K.resume i (K.setSlot i _ h)
    · exact K.setSlot i _ h

theorem routeOutcome {s : State} (e : ReqEntry) (b : Bool) (h : P s) : P (s.routeOutcome e b) := by
  unfold State.routeOutcome
  split
  · exact h
  · split
    · exact K.outcomeToRun _ _ _ h
    · exact h

theorem withdrawRequest {s : State} (t : Byte) (h : P s) : P (s.withdrawRequest t) := by
  unfold State.withdrawRequest
  split
  · exact h
  next e he =>
    split
    next hl => exact K.marked t e he hl h
    next hl => exact K.grantOccasion (K.dropped t e he (by simpa using hl) h)

theorem conclude {s : State} (e : ReqEntry) (o : ReqOutcome) (h : P s) : P (s.conclude e o) := by
  unfold State.conclude
  split
  · exact K.routeOutcome _ _ h
  · exact K.routeOutcome _ _ (K.requestFailed _ h)

theorem finish (e : ReqEntry) (o : ReqOutcome) {s : State} (h : P s) : P (State.finish e o s) :=
  K.thenDo (fun _ => K.conclude e o) rfl (K.grantOccasion (K.removed e.tag h))

theorem endRequest {s : State} (t : Byte) (o : ReqOutcome) (h : P s) : P (s.endRequest t o) := by
  unfold State.endRequest
  split
  · exact h
  next e _ =>
    refine K.thenDo (fun _ => K.finish e o) rfl ?_
    split
    · exact K.withdrawRequest t h
    · exact h

theorem confirmExpiry (tag : Byte) {s : State} (h : P s) : P (s.confirmExpiry tag) := by
  unfold State.confirmExpiry
  split
  · split
    · split
      · exact K.endRequest tag _ h
      · exact h
    · exact h
  · exact h

/-! ### Gestures and the emitter's grants -/

theorem startIn {s : State} (i : SlotId) (m : MacroId) (h : P s) : P (s.startIn i m) :=
  K.resume i (K.setSlot i _ h)

theorem startMacro {s : State} (m : MacroId) (h : P s) : P (s.startMacro m) := by
  unfold State.startMacro
  split
  · exact K.startIn _ m (K.abortRun _ h)
  · split
    · exact K.startIn _ m h
    · exact K.failStation h

theorem stopMacro {s : State} (m : MacroId) (h : P s) : P (s.stopMacro m) := by
  unfold State.stopMacro
  split
  · exact K.abortRun _ h
  · exact h

theorem emitAction {s : State} (e : Emission) (h : P s) : P (s.emitAction e) := by
  unfold State.emitAction
  dsimp only
  split
  · exact K.offerEmission e h
  · exact K.failStation (K.bump _ (K.offerEmission e h))

theorem channelAction {s : State} (c : Chan) (op : Op) (x : Byte) (h : P s) :
    P (s.channelAction c op x) := by
  unfold State.channelAction
  split
  next hc => exact K.issue op x .binding hc h
  next => exact K.localOp c op x h

theorem perform {s : State} (b : Binding) (h : P s) : P (s.perform b) := by
  unfold State.perform
  split
  · exact K.channelAction _ _ _ h
  · exact K.startMacro _ h
  · exact K.stopMacro _ h
  · exact K.emitAction _ h

theorem gesture {s : State} (src : Source) (tr : Trigger) (h : P s) : P (s.gesture src tr) := by
  unfold State.gesture
  split
  · exact foldl (fun _ b hs => K.perform b hs) _ h
  · exact K.bump _ h

theorem waitExpiry (i : SlotId) {s : State} (h : P s) : P (s.waitExpiry i) := by
  unfold State.waitExpiry
  split
  · split
    · exact K.resumeNext i h
    · exact h
  · exact h

theorem emitterGrant {s : State} (h : P s) : P s.emitterGrant := by
  unfold State.emitterGrant
  split
  next rest _ =>
    split
    · split
      next hr => exact K.owe .emitter (by omega) rfl h
      next => exact K.resume _ (K.emitterWaiting rest (K.rival (s.rival - 1) (Nat.sub_le ..) h))
    · exact h
  next => exact h

end ActsKeep

end Sys2Proof.Machine
end

section
/-! PROOFS. What the effects of commands keep, for a predicate that does not look at the line, the queue,
the gestures, the indicators and the counters: it is enough that the actions and a few updates of single
records keep it. -/

namespace Sys2Proof.Machine

/-! ### Trackers and keys -/

/-- Trackers may change, and gestures be delivered. -/
structure GestureKeep (P : State → Prop) : Prop where
  trackers : ∀ {s : State} (ts : List Tracker), P s → P (s.setTrackers ts)
  gesture : ∀ {s : State} (src : Source) (tr : Trigger), P s → P (s.gesture src tr)

namespace GestureKeep

variable {P : State → Prop} (K : GestureKeep P)
include K

theorem trackDown {s : State} (src : Source) (h : P s) : P (s.trackDown src) :=
  K.gesture _ _ (K.trackers _ h)

theorem trackUp {s : State} (src : Source) (h : P s) : P (s.trackUp src) := by
  unfold State.trackUp
  split
  · exact h
  · dsimp only
    split
    · exact K.gesture _ _ (K.gesture _ _ (K.trackers _ h))
    · exact K.gesture _ _ (K.trackers _ h)

theorem holdExpiry (w : TrackerSel) {s : State} (h : P s) : P (s.holdExpiry w) := by
  unfold State.holdExpiry
  split
  · split
    · split
      · exact K.gesture _ _ (K.trackers _ h)
      · exact h
    · exact h
  · exact h

theorem repeatExpiry (w : TrackerSel) {s : State} (h : P s) : P (s.repeatExpiry w) := by
  unfold State.repeatExpiry
  split
  · split
    · split
      · exact K.gesture _ _ (K.trackers _ h)
      · exact h
    · exact h
  · exact h

end GestureKeep

section FreeScanner

variable {P : State → Prop} (K : GestureKeep P)
  (free : ∀ {s : State} (k : KeyScanner), P s → P { s with scanner := k })
include K free

theorem GestureKeep.keyPress {s : State} (k : Key) (h : P s) : P (s.keyPress k) := by
  unfold State.keyPress
  dsimp only
  split
  · exact K.trackDown _ (free _ (free _ h))
  · exact free _ h

theorem GestureKeep.keyRelease {s : State} (k : Key) (h : P s) : P (s.keyRelease k) := by
  unfold State.keyRelease
  dsimp only
  split
  · exact K.trackUp _ (free _ (free _ h))
  · exact free _ h

theorem GestureKeep.scan {s : State} (down : BitVec 48) (h : P s) : P (s.scan down) := by
  unfold State.scan
  split
  · have released := ActsKeep.foldl (fun _ k => K.keyRelease free k) (s.changes down false)
      (free (s.scanner.count down) h)
    exact free _ (ActsKeep.foldl (fun _ k => K.keyPress free k) (s.changes down true) released)
  · exact h

theorem GestureKeep.stuckExpiry {s : State} (h : P s) : P s.stuckExpiry := by
  unfold State.stuckExpiry
  split
  next => exact h
  next p _ => exact free _ (K.trackUp (.key p.key) (s := s.setKey p.key .stuck) (free _ h))

end FreeScanner

theorem Content.kind_eq_fetch (c : Content) : c.kind = kindFetch ↔ ∃ cs, c = .fetch cs := by
  cases c <;> simp [Content.kind, kindAnnounce, kindChange, kindRequest, kindFetch, kindState,
    kindRecall, kindRecallReply, kindReply]

/-- No content of a list made by a constructor other than that of a FETCH is a FETCH. -/
theorem kind_ne_fetch_of_map {α : Type} {g : α → Content} (hg : ∀ a cs, g a ≠ .fetch cs) (l : List α) :
    ∀ c ∈ l.map g, c.kind ≠ kindFetch := by
  intro c hc e
  obtain ⟨a, -, rfl⟩ := List.mem_map.1 hc
  obtain ⟨cs, h⟩ := (Content.kind_eq_fetch _).1 e
  exact hg a cs h

/-- What frames are handed to and producers are told of keeps the predicate: offers and FETCH decisions,
ends of requests, operations of other stations, and updates of single records. -/
structure HandKeep (P : State → Prop) : Prop where
  owe : ∀ {s : State} (o : Owing), s.rival ≠ 0 → o.ofFrame = false → P s → P (s.owe o)
  draws : ∀ {s : State} (n : Nat), P s → P { s with draws := n }
  bump : ∀ {s : State} (c : Counter), P s → P (s.bump c)
  offer : ∀ {s : State} (c : Content) (dest : Addr), c.kind ≠ kindFetch → P s →
    P (s.offer c dest).2
  fetchDecision : ∀ {s : State} (a : Addr), P s → P (s.fetchDecision a)
  endRequest : ∀ {s : State} (t : Byte) (o : ReqOutcome), P s → P (s.endRequest t o)
  apply : ∀ {s : State} {c : Chan} {r : HomeRec} {op : Op} {x : Byte} (o : Addr) (ps : List Pair),
    s.chan c = .home r → opValid r.kind op x = true → P s → P (s.apply c r op x o ps)
  dirty : ∀ {s : State} {c : Chan} {h : HomeRec} (d : Bool), s.chan c = .home h → P s →
    P (s.setChan c (.home { h with dirty := d }))
  cursor : ∀ {s : State} (c : Chan), P s → P { s with channels := { s.channels with cursor := c } }
  requestSent : ∀ {s : State} (t : Byte), P s → P (s.requestSent t)
  announceAt : ∀ {s : State} (t : Option Time), P s →
    P { s with peers := { s.peers with announceAt := t } }
  recalls : ∀ {s : State} (n : Nat) (t : Option Time), P s →
    P { s with start := { s.start with recallsOut := n, recallAt := t } }

namespace HandKeep

variable {P : State → Prop} (K : HandKeep P)
include K

/-! ### Parts owed, offers -/

theorem thenDo {part : State → State} (hp : ∀ s, P s → P (part s)) {s : State} {o : Owing}
    (ho : o.ofFrame = false) (h : P s) : P (s.thenDo o part) := by
  unfold State.thenDo
  split
  next hb => exact K.owe o (s.behind_iff.1 hb).1 ho h
  next => exact hp s h

theorem offerAll {s : State} (dest : Addr) {cs : List Content} (hc : ∀ c ∈ cs, c.kind ≠ kindFetch)
    (h : P s) : P (s.offerAll dest cs) := by
  unfold State.offerAll
  induction cs generalizing s with
  | nil => exact h
  | cons c cs ih =>
    exact ih (fun d hd => hc d (List.mem_cons_of_mem _ hd))
      (K.offer c dest (hc c (List.mem_cons_self ..)) h)

theorem offerAnnounce {s : State} (h : P s) : P s.offerAnnounce :=
  K.announceAt _ (K.offer _ 0 (by decide) h)

theorem announceExpiry {s : State} (h : P s) : P s.announceExpiry := by
  unfold State.announceExpiry
  split
  · exact K.offerAnnounce h
  · exact h

/-! ### The ends of requests -/

theorem cancelTags (n : Nat) (ts : List Byte) : ∀ {s : State}, P s → P (State.cancelTags n ts s) := by
  induction n generalizing ts with
  | zero => cases ts <;> exact fun h => h
  | succ n ih =>
    intro s h
    match ts with
    | [] => exact h
    | [t] => exact K.endRequest t _ h
    | t :: u :: ts =>
      simp only [State.cancelTags]
      exact K.thenDo (fun _ => ih _) rfl (K.endRequest _ _ (K.draws _ h))

theorem cancelRequests {s : State} (a : Addr) (h : P s) : P (s.cancelRequests a) :=
  K.cancelTags _ _ h

theorem matchPair {s : State} (a : Addr) (c : Chan) (p : Pair) (h : P s) :
    P (s.matchPair a c p) := by
  unfold State.matchPair
  split
  · split
    · split
      · exact K.endRequest _ _ h
      · exact h
    · exact h
  · exact h

theorem matchPairs {s : State} (a : Addr) (c : Chan) (ps : List Pair) (h : P s) :
    P (s.matchPairs a c ps) :=
  ActsKeep.foldl (fun _ p hs => K.thenDo (fun _ => K.matchPair a c p) rfl hs) ps h

theorem confirmExpiry (tag : Byte) {s : State} (h : P s) : P (s.confirmExpiry tag) := by
  unfold State.confirmExpiry
  split
  · split
    · split
      · exact K.endRequest tag _ h
      · exact h
    · exact h
  · exact h

/-! ### Producers -/

theorem clearDirty {s : State} (t : Triple) (h : P s) : P (s.clearDirty t) := by
  unfold State.clearDirty State.modifyHome
  split
  next r hc =>
    unfold HomeRec.delivered
    dsimp only
    split
    · exact K.dirty false hc h
    · exact K.dirty r.dirty hc h
  next => exact h

theorem clearDirtyAll {s : State} (ts : List Triple) (h : P s) : P (s.clearDirtyAll ts) :=
  ActsKeep.foldl (fun _ t hs => K.clearDirty t hs) ts h

theorem changeFailed {s : State} (c : Chan) (h : P s) : P (s.changeFailed c) := by
  unfold State.changeFailed State.modifyHome
  split
  next hc => exact K.dirty true hc h
  next => exact h

theorem announceDelivered {s : State} (c : Carried) (h : P s) : P (s.announceDelivered c) := by
  unfold State.announceDelivered
  dsimp only
  split
  · exact K.cursor _ (K.clearDirtyAll _ h)
  · exact K.clearDirtyAll _ h

/-- A producer but for that of a FETCH is told. -/
theorem tellProducer {s : State} {e : Entry} (o : Outcome) (he : e.content.kind ≠ kindFetch) (h : P s) :
    P (s.tellProducer e o) := by
  unfold State.tellProducer
  split
  · exact K.announceDelivered _ h
  · exact K.clearDirtyAll _ h
  · exact K.changeFailed _ h
  · exact K.clearDirtyAll _ h
  · exact K.requestSent _ h
  · exact K.endRequest _ _ h
  · exact K.endRequest _ _ h
  next hc => exact absurd (by rw [hc]; rfl) he
  · exact K.recalls _ _ h
  · exact h

/-! ### Taken frames -/

theorem requested {s : State} (a : Addr) (t : Byte) (c : Chan) (op x : Byte) (h : P s) :
    P (s.requested a t c op x).2 := by
  unfold State.requested
  split
  · exact h
  · split
    next hc _ =>
      split
      next hv => exact K.apply a _ hc hv.2.1 h
      next => exact h
    next => exact h

theorem fetched {s : State} (a : Addr) (cs : List Chan) (h : P s) : P (s.fetched a cs).2 := by
  unfold State.fetched
  split
  · exact h
  · dsimp only
    split
    · exact h
    · exact K.offerAll _ (kind_ne_fetch_of_map (fun _ _ => by simp) _) h

theorem recalled {s : State} (a : Addr) (cs : List Chan) (h : P s) : P (s.recalled a cs) := by
  unfold State.recalled
  dsimp only
  split
  · refine K.offerAll _ ?_ h
    unfold State.recallAnswers
    dsimp only
    split
    · exact kind_ne_fetch_of_map (g := fun l => .recallReply (s.peer a).incarnation l)
        (fun _ _ => by simp) [[]]
    · exact kind_ne_fetch_of_map (fun _ _ => by simp) _
  · exact h

theorem queried {s : State} (a : Addr) (item index : Byte) (h : P s) :
    P (s.queried a item index).2 := by
  unfold State.queried
  split
  · exact h
  · split
    · exact h
    · exact K.offer _ _ (fun e => by simpa using (Content.kind_eq_fetch _).1 e) h

end HandKeep

/-- A frame that is taken may also ask for a restart. -/
structure TakeKeep (P : State → Prop) : Prop extends HandKeep P where
  restart : ∀ {s : State} (r : PendingRestart), P s →
    P { s with service := { s.service with restart := r } }

theorem TakeKeep.restartAsked {P : State → Prop} (K : TakeKeep P) {s : State} (b : Byte) (h : P s) :
    P (s.restartAsked b).2 := by
  unfold State.restartAsked
  split
  · exact K.restart _ h
  · exact h

/-- The shared operations and the updates of single records that effects are made of keep the predicate,
which does not look at the Line Unit, the Transmit Queue, the Gesture Unit, the indicators and the
Service Responder. -/
structure BaseKeep (P : State → Prop) : Prop where
  free : ∀ {s : State} (dr : Nat) (l : LineUnit) (q : TxQueue) (g : GestureUnit)
    (fl : IndicatorUnit) (sv : ServiceResponder), P s →
    P { s with draws := dr, line := l, queue := q, gestures := g, indicators := fl, service := sv }
  owe : ∀ {s : State} (o : Owing), s.rival ≠ 0 → o.ofFrame = false → P s → P (s.owe o)
  gesture : ∀ {s : State} (src : Source) (tr : Trigger), P s → P (s.gesture src tr)
  endRequest : ∀ {s : State} (t : Byte) (o : ReqOutcome), P s → P (s.endRequest t o)
  grantOccasion : ∀ {s : State}, P s → P s.grantOccasion
  emitterGrant : ∀ {s : State}, P s → P s.emitterGrant
  waitExpiry : ∀ {s : State} (i : SlotId), P s → P (s.waitExpiry i)
  apply : ∀ {s : State} {c : Chan} {r : HomeRec} {op : Op} {x : Byte} (o : Addr) (ps : List Pair),
    s.chan c = .home r → opValid r.kind op x = true → P s → P (s.apply c r op x o ps)
  dirty : ∀ {s : State} {c : Chan} {h : HomeRec} (d : Bool), s.chan c = .home h → P s →
    P (s.setChan c (.home { h with dirty := d }))
  cursor : ∀ {s : State} (c : Chan), P s → P { s with channels := { s.channels with cursor := c } }
  requestSent : ∀ {s : State} (t : Byte), P s → P (s.requestSent t)
  fetchOut : ∀ {s : State} (a : Addr) (b : Bool), P s →
    P (s.setPeer a { s.peer a with fetchOut := b })
  announceAt : ∀ {s : State} (t : Option Time), P s →
    P { s with peers := { s.peers with announceAt := t } }
  recalls : ∀ {s : State} (n : Nat) (t : Option Time), P s →
    P { s with start := { s.start with recallsOut := n, recallAt := t } }

/-- A predicate that actions keep, and that looks at none of the free blocks. -/
theorem ActsKeep.base {P : State → Prop} (K : ActsKeep P)
    (free : ∀ {s : State} (dr : Nat) (l : LineUnit) (q : TxQueue) (g : GestureUnit)
      (fl : IndicatorUnit) (sv : ServiceResponder), P s →
      P { s with draws := dr, line := l, queue := q, gestures := g, indicators := fl, service := sv })
    (cursor : ∀ {s : State} (c : Chan), P s →
      P { s with channels := { s.channels with cursor := c } })
    (requestSent : ∀ {s : State} (t : Byte), P s → P (s.requestSent t))
    (fetchOut : ∀ {s : State} (a : Addr) (b : Bool), P s →
      P (s.setPeer a { s.peer a with fetchOut := b }))
    (announceAt : ∀ {s : State} (t : Option Time), P s →
      P { s with peers := { s.peers with announceAt := t } })
    (recalls : ∀ {s : State} (n : Nat) (t : Option Time), P s →
      P { s with start := { s.start with recallsOut := n, recallAt := t } }) : BaseKeep P where
  free := free
  owe := K.owe
  gesture := K.gesture
  endRequest := K.endRequest
  grantOccasion := K.grantOccasion
  emitterGrant := K.emitterGrant
  waitExpiry := fun i => K.waitExpiry i
  apply := K.apply
  dirty := K.dirty
  cursor := cursor
  requestSent := requestSent
  fetchOut := fetchOut
  announceAt := announceAt
  recalls := recalls

namespace BaseKeep

variable {P : State → Prop} (K : BaseKeep P)
include K

/-! ### Free updates, parts owed, offers -/

theorem setLine {s : State} (l : LineUnit) (h : P s) : P (s.setLine l) :=
  K.free s.draws l s.queue s.gestures s.indicators s.service h

theorem setQueue {s : State} (q : TxQueue) (h : P s) : P { s with queue := q } :=
  K.free s.draws s.line q s.gestures s.indicators s.service h

theorem setDraws {s : State} (n : Nat) (h : P s) : P { s with draws := n } :=
  K.free n s.line s.queue s.gestures s.indicators s.service h

theorem setTrackers {s : State} (ts : List Tracker) (h : P s) : P (s.setTrackers ts) :=
  K.free s.draws s.line s.queue _ s.indicators s.service h

theorem setService {s : State} (v : ServiceResponder) (h : P s) : P { s with service := v } :=
  K.free s.draws s.line s.queue s.gestures s.indicators v h

theorem bump {s : State} (c : Counter) (h : P s) : P (s.bump c) := K.setService _ h

theorem offer {s : State} (c : Content) (dest : Addr) (h : P s) : P (s.offer c dest).2 := by
  obtain ⟨_, q, l, e, _⟩ := s.offer_eq c dest
  rw [e]
  exact K.free s.draws l q s.gestures s.indicators s.service h

theorem fetchDecision {s : State} (a : Addr) (h : P s) : P (s.fetchDecision a) := by
  unfold State.fetchDecision
  split
  · dsimp only
    split
    · exact K.fetchOut a true (K.offer _ a h)
    · exact K.offer _ a h
  · exact h

theorem hand : TakeKeep P where
  owe := K.owe
  draws := K.setDraws
  bump := K.bump
  offer := fun c dest _ => K.offer c dest
  fetchDecision := K.fetchDecision
  endRequest := K.endRequest
  apply := K.apply
  dirty := K.dirty
  cursor := K.cursor
  requestSent := K.requestSent
  announceAt := K.announceAt
  recalls := K.recalls
  restart := fun _ h => K.setService _ h

theorem thenDo {part : State → State} (hp : ∀ s, P s → P (part s)) {s : State} {o : Owing}
    (ho : o.ofFrame = false) (h : P s) : P (s.thenDo o part) := K.hand.thenDo hp ho h

theorem settle {s : State} (h : P s) : P s.settle := by
  unfold State.settle
  split
  · exact K.setQueue _ (K.grantOccasion (K.setQueue _ h))
  · exact h

theorem placeFreed {s : State} (h : P s) : P s.placeFreed :=
  K.thenDo (fun _ => K.emitterGrant) rfl h

/-! ### Gestures -/

theorem gestures : GestureKeep P where
  trackers := K.setTrackers
  gesture := K.gesture

theorem trackDown {s : State} (src : Source) (h : P s) : P (s.trackDown src) :=
  K.gestures.trackDown src h

theorem trackUp {s : State} (src : Source) (h : P s) : P (s.trackUp src) := K.gestures.trackUp src h

/-! ### The endings of an attempt -/

theorem tellProducer {s : State} (e : Entry) (o : Outcome) (h : P s) : P (s.tellProducer e o) := by
  by_cases he : e.content.kind = kindFetch
  · obtain ⟨cs, hc⟩ := (Content.kind_eq_fetch _).1 he
    unfold State.tellProducer
    rw [hc]
    exact K.fetchOut _ _ h
  · exact K.hand.tellProducer o he h

theorem handBack {s : State} (e : Ending) (h : P s) : P (s.handBack e) := by
  have leaves : ∀ e o, P (s.leaveWith e o) := fun e o =>
    K.grantOccasion (K.tellProducer e o (K.setQueue _ h))
  unfold State.handBack
  split
  · exact h
  · split
    · exact K.grantOccasion (K.setQueue _ h)
    · split
      · exact K.setQueue _ h
      · split
        · exact K.setQueue _ h
        · exact leaves _ _
      · exact leaves _ _

theorem endAttempt {s : State} (a : Activity) (r : Option Reception) (w : Wire) (e : Ending)
    (h : P s) : P (s.endAttempt a r w e) :=
  K.handBack e (K.setLine _ h)

theorem arbitrationLost (bit : Fin 7) (low : Time) {s : State} (h : P s) :
    P (s.arbitrationLost bit low) := by
  unfold State.arbitrationLost
  split
  · split
    · exact K.endAttempt _ _ _ _ (K.bump _ h)
    · exact h
  · exact h

theorem bitErred (low : Time) {s : State} (h : P s) : P (s.bitErred low) := by
  unfold State.bitErred
  split
  · split
    · exact K.endAttempt _ _ _ _ (K.bump _ h)
    · exact h
  · exact h

theorem countOutcome {s : State} (o : Outcome) (h : P s) : P (s.countOutcome o) := by
  cases o with
  | declined => exact h
  | _ => exact K.bump _ h

theorem windowRead (t d g : Time) {s : State} (h : P s) : P (s.windowRead t d g) := by
  unfold State.windowRead
  split
  · split
    · exact K.endAttempt _ _ _ _ (K.countOutcome _ h)
    · exact h
  · exact h

/-! ### The line -/

theorem idleDeclared {s : State} (h : P s) : P s.idleDeclared := by
  unfold State.idleDeclared State.bumpIf
  split
  · split
    · exact K.setLine _ (K.bump _ h)
    · exact K.setLine _ h
  · exact h

theorem lineStuck {s : State} (h : P s) : P s.lineStuck := by
  unfold State.lineStuck
  split
  · have stuck := K.setService
      { (s.bump .lineStuckEvents).service with restart := s.service.restart.stuck s.now }
      (K.setLine (s.line.stuck s.now) (K.bump .lineStuckEvents h))
    dsimp only
    split
    · exact stuck
    · exact K.endAttempt _ _ _ _ (K.bump _ stuck)
  · exact h

theorem beginWith {s : State} (i : Nat) (e : Entry) (h : P s) : P (s.beginWith i e) :=
  K.free s.draws _ _ s.gestures s.indicators s.service h

theorem attemptBegin {s : State} (h : P s) : P s.attemptBegin := by
  unfold State.attemptBegin
  split
  · split
    · exact K.beginWith _ _ h
    · exact h
  · exact h

theorem holdBackExpiry (p : Fin 12) {s : State} (h : P s) : P (s.holdBackExpiry p) := by
  unfold State.holdBackExpiry
  split
  · split
    · rcases State.beginAt_cases
        { s with
          queue :=
            { s.queue with
              entries := modifyAt (fun e => { e with holdBack := none }) p.val s.queue.entries } }
        p.val with e | ⟨_, _, _, e⟩
      · rw [e]
        exact K.setQueue _ h
      · rw [e]
        exact K.beginWith _ _ (K.setQueue _ h)
    · exact h
  · exact h

theorem dominantEdge (low : Time) {s : State} (h : P s) : P (s.dominantEdge low) :=
  K.setLine _ h

theorem headerFailure {s : State} (h : P s) : P s.headerFailure := K.bump _ (K.setLine _ h)

theorem headerFailed {s : State} (h : P s) : P s.headerFailed := by
  unfold State.headerFailed
  split
  · split
    · exact K.headerFailure h
    · exact h
  · exact h

theorem answering {s : State} (f : Frame) (j : Judgement) (h : P s) : P (s.answering f j) :=
  K.setLine _ h

theorem garbledFrame {s : State} (f : Frame) (h : P s) : P (s.garbledFrame f) :=
  K.answering _ _ (K.bump _ h)

theorem malformedHeard (f : Frame) (n : Bool) {s : State} (h : P s) : P (s.malformedHeard f n) := by
  unfold State.malformedHeard
  split
  · exact K.answering _ _ (K.fetchDecision _ h)
  · exact K.answering _ _ h

theorem endFlash (i : OutId) {s : State} (h : P s) : P (s.endFlash i) := by
  unfold State.endFlash
  dsimp only
  split
  · exact K.free s.draws s.line s.queue s.gestures _ s.service h
  · exact h

end BaseKeep

/-- A FETCH decision leaves the Start Controller. -/
theorem State.fetchDecision_start (s : State) (a : Addr) : (s.fetchDecision a).start = s.start := by
  unfold State.fetchDecision
  dsimp only
  split
  · split
    · exact (s.offer_acts _ a).start
    · exact (s.offer_acts _ a).start
  · rfl

/-- What the triples and the collection of a frame need, to keep the predicate. -/
structure FrameKeep (P : State → Prop) (f : Frame) : Prop where
  judged : ∀ {s : State} {t : Triple} {m : MirrorRec}, s.start.state.hearsPeers = true →
    kindJudged f.kind.toNat = true → t ∈ triplesOf f.kind f.body → s.chan t.chan = .mirror m → m.owner = f.source → P s →
    P (s.setChan t.chan (.mirror (m.take t f.incarnation)))
  collected : ∀ {s : State} {c : Collection}, s.start.collection = some c →
    s.start.state = .joining → P s →
    P { s with
        start :=
          { s.start with
            collection :=
              some (c.merge s.homeChans (byteAt f.body 0) (triplesOf f.kind f.body)) } }

namespace FrameKeep

variable {P : State → Prop} {f : Frame} (K : TakeKeep P) (F : FrameKeep P f)
include K F

theorem judgeAll {s : State} (hears : s.start.state.hearsPeers = true)
    (hk : kindJudged f.kind.toNat = true) (h : P s) :
    P (s.judgeAll f.source f.incarnation (triplesOf f.kind f.body)) := by
  have judge : ∀ (s : State) (t : Triple), s.start.state.hearsPeers = true →
      t ∈ triplesOf f.kind f.body → P s → P (State.judge f.source f.incarnation s t) := by
    intro s t hears ht h
    unfold State.judge
    split
    · exact h
    · exact K.bump _ h
    next m hc =>
      split
      · exact K.bump _ h
      next ho =>
        split
        · exact F.judged hears hk ht hc (not_not.1 ho) h
        · exact h
  have all : ∀ (ts : List Triple), (∀ t ∈ ts, t ∈ triplesOf f.kind f.body) →
      ∀ s : State, s.start.state.hearsPeers = true → P s →
      P (ts.foldl (State.judge f.source f.incarnation) s) := by
    intro ts
    induction ts with
    | nil => exact fun _ s _ h => h
    | cons t ts ih =>
      intro ht s hears h
      have kept : (State.judge f.source f.incarnation s t).start = s.start := by
        obtain ⟨v, ct, e⟩ := State.judge_eq f.source f.incarnation s t
        rw [e]
      exact ih (fun u hu => ht u (List.mem_cons_of_mem _ hu)) _ (by rw [kept]; exact hears)
        (judge s t hears (ht t (List.mem_cons_self ..)) h)
  exact all _ (fun _ ht => ht) s hears h

theorem handByKind {s : State}
    (hears : s.start.state.hearsPeers = true ∨ f.kind = kindQuery ∨ f.kind = kindRestart) (h : P s) :
    P (s.handByKind f).2 := by
  have judged (hk : kindJudged f.kind.toNat = true) :
      P (s.judgeAll f.source f.incarnation (triplesOf f.kind f.body)) := by
    refine F.judgeAll K (hears.resolve_right ?_) hk h
    rintro (e | e) <;> simp [e, kindQuery, kindRestart, kindJudged] at hk
  unfold State.handByKind
  dsimp only
  split
  next e => exact judged (by rw [e]; rfl)
  next e =>
    split
    · exact K.matchPairs _ _ _ (judged (by rw [e]; rfl))
    · exact judged (by rw [e]; rfl)
  · split
    · exact K.requested _ _ _ _ _ h
    · exact h
  · split
    · exact K.fetched _ _ h
    · exact h
  next e => exact judged (by rw [e]; rfl)
  · exact K.recalled _ _ h
  · split
    · unfold State.recallReplied
      split
      next hc =>
        split
        next hj => exact F.collected hc hj h
        next => exact K.bump _ h
      next => exact K.bump _ h
    · exact h
  · split
    · exact K.queried _ _ _ h
    · exact h
  · split
    · exact K.restartAsked _ h
    · exact h
  · exact h

theorem handOver {s : State} (n : Bool) (hears : s.start.state.hearsPeers = true) (h : P s) :
    P (s.handOver f n).2 := by
  have decided : (s.fetchDecision f.source).start = s.start := State.fetchDecision_start s f.source
  unfold State.handOver
  split
  · have handed := F.handByKind K (.inl hears) h
    dsimp only
    split
    · exact K.thenDo (fun _ => K.fetchDecision _) rfl handed
    · exact handed
  · split
    · split
      · exact F.handByKind K (.inl (decided ▸ hears)) (K.fetchDecision _ h)
      · exact F.handByKind K (.inl hears) h
    · split
      · have drawn : P s.draw.2 := K.draws _ h
        dsimp only
        split
        · exact F.handByKind K (.inl (by rw [State.fetchDecision_start]; exact hears))
            (K.fetchDecision _ drawn)
        · exact K.fetchDecision _ (F.handByKind K (s := s.draw.2) (.inl hears) drawn)
      · exact F.handByKind K (.inl hears) h

theorem handFrame {s : State} (n : Bool) (h : P s) : P (s.handFrame f n).2 := by
  unfold State.handFrame
  split
  next e => exact F.handOver K n (by rw [e]; rfl) h
  next e => exact F.handOver K n (by rw [e]; rfl) h
  next e => exact F.handOver K n (by rw [e]; rfl) h
  · split
    next hk =>
      simp only [Bool.and_eq_true, Bool.or_eq_true, beq_iff_eq] at hk
      exact F.handByKind K (.inr hk.2) h
    next => exact h
  · exact h
  · exact h

omit K in
theorem takenHeard (K : BaseKeep P) {s : State} (n : Bool) (h : P s) : P (State.takenHeard f n s) :=
  K.answering _ _ (F.handFrame K.hand n h)

end FrameKeep

end Sys2Proof.Machine
end

section
/-! PROOFS. What every effect and every event keeps. A predicate over the parts that an event owes and a state is kept by a
step when the parts of every effect keep it, with the parts owed carried along (log entry 37): an event
goes up to a grant, its rivals come, and then the parts owed are done. -/

namespace Sys2Proof.Machine

/-- The predicate holds of a state whose event owes some parts besides those the state holds. -/
def Debts (N : List Owing → State → Prop) (D : List Owing) (s : State) : Prop := N (D ++ s.owed) s

/-- The receiver may read, and hold codes, whose release deadlines run where it is not blanked. -/
structure InfraredKeep (P : State → Prop) : Prop extends GestureKeep P where
  read : ∀ {s : State} (l : Bool) (t : Option Time) (d : Decoder), P s →
    P (s.setIr { s.ir with level := l, since := t, decoder := d })
  held : ∀ {s : State} (c : Option HeldCode),
    (∀ h ∈ c, h.release.runs = decide (s.ir.blanking = .off)) → P s →
    P (s.setIr { s.ir with held := c })

namespace InfraredKeep

variable {P : State → Prop} (K : InfraredKeep P)
include K

theorem decoded {s : State} (d : Decoded) (off : s.ir.blanking = .off)
    (h : P s) : P (s.decoded d) := by
  have hold : ∀ (s : State) (set : SetId) (v : CodeValue), P s →
      P (s.holdCode set v) := by
    intro s set v h
    refine K.toGestureKeep.trackDown _ (K.held _ ?_ h)
    intro _ hc
    obtain rfl := Option.some.inj hc
    by_cases hb : s.ir.blanking = .off <;>
      simp [IrReceiver.deadline, hb, Release.runs, Release.suspend]
  have refresh : ∀ c : HeldCode, P (s.refreshHeld c) := by
    intro c
    refine K.held _ ?_ h
    intro _ hc
    obtain rfl := Option.some.inj hc
    simp [Release.runs, off]
  have drop : ∀ c : HeldCode, P (s.dropHeld c) :=
    fun c => K.toGestureKeep.trackUp _ (K.held none (by simp) h)
  unfold State.decoded
  split
  · exact hold _ _ _ h
  · split
    · exact refresh _
    · exact hold _ _ _ (drop _)
  · exact h
  · split
    · exact refresh _
    · exact h

theorem markEnd {s : State} (h : P s) : P s.markEnd := by
  unfold State.markEnd
  split
  · exact K.read _ _ _ h
  next off =>
    split
    next t _ =>
      have read := K.read false (some s.now) (s.ir.markEnd (s.now - t)).1 h
      dsimp only
      split
      · exact K.decoded _ (not_not.1 off) read
      · exact read
    next => exact K.read _ _ _ h

theorem irEdge {s : State} (mark : Bool) (h : P s) :
    P (s.irEdge mark) := by
  unfold State.irEdge
  split
  · exact h
  · split
    · unfold State.markStart
      split
      · exact K.read _ _ _ h
      · split
        · exact K.read _ _ _ h
        · exact K.read _ _ _ h
    · exact K.markEnd h

theorem completeCode {s : State} (h : P s) :
    P s.completeCode := by
  unfold State.completeCode
  split
  · exact K.markEnd h
  · exact h

theorem holdMarker {s : State} (h : P s) : P s.holdMarker := by
  unfold State.holdMarker
  split
  · exact K.markEnd h
  · exact h

theorem limitExpiry {s : State} (h : P s) : P s.limitExpiry := by
  unfold State.limitExpiry
  split
  · exact h
  · split
    · split
      · exact K.read _ _ _ h
      · exact h
    · exact h

theorem releaseExpiry {s : State} (h : P s) :
    P s.releaseExpiry := by
  unfold State.releaseExpiry
  split
  · split
    · split
      · exact K.toGestureKeep.trackUp _ (K.held none (by simp) h)
      · exact h
    · exact h
  · exact h

end InfraredKeep

/-- What the effects of the commands are made of keeps the predicate, but for the frames. A start, and
the end of LOADING, which leave the station outside ACTIVE, are asked for only where the event stands alone
(log entry 37). -/
structure EffectKeep (P : State → Prop) (alone : Prop) : Prop extends BaseKeep P where
  silent : ∀ {s : State} (a : Addr), s.start.state.hearsPeers = true →
    due s.now (s.peer a).silentAt = true → P s →
    P ((s.setPeer a { s.peer a with presence := .silent, silentAt := none }).staleClaim a none)
  imageRead : ∀ {s : State} (answer : Option Byte), alone → s.owed = [] → s.start.state = .loading →
    P s →
    P (s.imageRead answer)
  lineRestart : ∀ {s : State}, alone → s.owed = [] →
    s.start.state = .joining ∨ s.start.state = .active → P s →
    P s.lineRestart
  fresh : alone → ∀ (s : State) (c : StartController) (t : Option Time), c.collection = none →
    c.state = .loading ∨ c.state = .configFault → P s →
    P { s.resetBlocks with start := c, scanner := { KeyScanner.reset with scanAt := t } }
  joining : ∀ {s : State} (n : Nat), s.start.state = .listening → P s →
    P
      { s with
        start :=
          { s.start with
            state := .joining, listenAt := none, recallsOut := n
            collection := some { latest := 0, triples := [] } } }
  joined : ∀ {s : State}, s.start.state = .joining → P s →
    ∀ c, c = s.start.collection.getD { latest := 0, triples := [] } →
    P
      (s.homeChans.foldl (State.joinChan c (nextIncarnation c.latest))
        (s.becomesActive (nextIncarnation c.latest)))
  scan : ∀ {s : State} (down : BitVec 48), P s → P (s.scan down)
  stuck : ∀ {s : State}, P s → P s.stuckExpiry
  irRead : ∀ {s : State} (l : Bool) (t : Option Time) (d : Decoder), P s →
    P (s.setIr { s.ir with level := l, since := t, decoder := d })
  irHeld : ∀ {s : State} (c : Option HeldCode),
    (∀ h ∈ c, h.release.runs = decide (s.ir.blanking = .off)) → P s →
    P (s.setIr { s.ir with held := c })
  emissionFrame : ∀ {s : State}, P s → P s.emissionFrame
  nextEmission : ∀ {s : State} {next : Emission} {rest : List Emission},
    s.emitter.current.isSome = true → s.emitter.queue = next :: rest → P s →
    P
      (({ s with emitter := { s.emitter with queue := rest } } : State).beginEmission next)
  lastEmission : ∀ {s : State}, s.emitter.current.isSome = true →
    s.emitter.queue = [] → P s →
    P
      { s with
        emitter := { s.emitter with current := none }
        ir := { s.ir with blanking := .ending (s.now + blankingTail) } }
  blankingEnd : ∀ {s : State}, P s → P s.blankingEnd
  stepOutput : ∀ {s : State} (i : OutId), P s → P (s.stepOutput i)


namespace EffectKeep

variable {P : State → Prop} {alone : Prop} (K : EffectKeep P alone)
include K

theorem silenceExpiry {s : State} (a : Addr) (h : P s) :
    P (s.silenceExpiry a) := by
  unfold State.silenceExpiry
  dsimp only
  split
  next hs => exact K.silent a hs.1 hs.2 h
  next => exact h

theorem newStart (a : alone) {s : State} (straps : Addr) (h : P s) :
    P ((s.resetBlocks.startBy .line).beginLoading straps) := by
  refine K.fresh a s _ (some s.now) rfl ?_ h
  dsimp only
  split
  · exact .inr rfl
  · exact .inl rfl

theorem pendingRestart {s : State} (straps : Addr)
    (alive : (alone ∧ s.owed = []) ∨ (s.pendingRestart straps).start.state = .active) (h : P s) :
    P (s.pendingRestart straps) := by
  have restarted (hs : s.start.state = .joining ∨ s.start.state = .active)
      (alive : (alone ∧ s.owed = []) ∨ s.clearRestart.lineRestart.start.state = .active) :
      P s.clearRestart.lineRestart := by
    rcases alive with a | e
    · exact K.lineRestart a.1 a.2 hs (K.toBaseKeep.setService _ h)
    · cases e
  unfold State.pendingRestart at alive ⊢
  split
  next hd =>
    rw [if_pos hd] at alive
    split
    next e =>
      rw [e] at alive
      rcases alive with a | alive
      · exact K.newStart a.1 straps h
      · exfalso
        revert alive
        simp only [State.beginLoading]
        split <;> simp
    next e => rw [e] at alive; exact restarted (.inl e) alive
    next e => rw [e] at alive; exact restarted (.inr e) alive
    next => exact h
  next => exact h

theorem imageReading {s : State} (answer : Option Byte)
    (alive : (alone ∧ s.owed = []) ∨ (s.imageRead answer).start.state = .active) (h : P s) :
    P (s.imageRead answer) := by
  by_cases hs : s.start.state = .loading
  · rcases alive with a | alive
    · exact K.imageRead answer a.1 a.2 hs h
    · exfalso
      rcases s.imageRead_cases answer hs with ⟨_, _, e⟩ | ⟨_, _, e⟩ | ⟨_, _, _, _, e⟩ <;>
        rw [e] at alive
      · cases alive
      · exact absurd (alive.symm.trans hs) (by simp)
      · rw [State.loadSucceeds_eq] at alive
        cases alive
  · rwa [State.imageRead_of_not answer hs]

theorem listenExpiry {s : State} (h : P s) :
    P s.listenExpiry := by
  unfold State.listenExpiry
  split
  next hs => exact K.toBaseKeep.hand.offerAll _ (kind_ne_fetch_of_map (fun _ _ => by simp) _) (K.joining _ hs.1 h)
  next => exact h

theorem recallExpiry {s : State} (h : P s) :
    P s.recallExpiry := by
  have fetch : ∀ (s : State) (a : Addr), P s → P (s.fetchFrom a) := by
    intro s a h
    unfold State.fetchFrom
    split
    · exact K.toBaseKeep.fetchDecision a h
    · exact h
  unfold State.recallExpiry
  split
  next hs =>
    exact ActsKeep.foldl fetch _
      (K.toBaseKeep.hand.offerAnnounce (K.toBaseKeep.cursor _ (K.joined hs.1 h _ rfl)))
  next => exact h

/-! ### Infrared -/

theorem infrared : InfraredKeep P where
  toGestureKeep := K.toBaseKeep.gestures
  read := K.irRead
  held := K.irHeld

theorem emissionEnd {s : State} (h : P s) : P s.emissionEnd := by
  unfold State.emissionEnd
  split
  next hc =>
    split
    · split
      next hq => exact K.toBaseKeep.placeFreed (K.nextEmission (by simp [hc]) hq h)
      next hq => exact K.lastEmission (by simp [hc]) hq h
    · exact h
  · exact h

/-- Every effect of a command that is no reset, where it leaves the station ACTIVE or no part is owed: but for
the frames, which bring their own evidence. -/
theorem effect {s : State} {c : Instr} (hc : isReset c = false)
    (alive : (alone ∧ s.owed = []) ∨ (effectOf c s).start.state = .active)
    (receive : ∀ kind rx, fromLine c = true → P s → P (s.receive kind rx)) (h : P s) :
    P (effectOf c s) := by
  cases c with
  | powerOn | resetPinAsserted | resetPinReleased => cases hc
  | imageRead _ answer => exact K.imageReading answer alive h
  | idleDeclaration => exact K.toBaseKeep.idleDeclared h
  | lineStuck => exact K.toBaseKeep.lineStuck h
  | attemptBegin => exact K.toBaseKeep.attemptBegin h
  | arbitrationLoss read bit => exact K.toBaseKeep.arbitrationLost _ _ h
  | bitError => exact K.toBaseKeep.bitErred _ h
  | answerWindowRead => exact K.toBaseKeep.windowRead _ _ _ h
  | holdBackExpiry => exact K.toBaseKeep.holdBackExpiry _ h
  | pendingRestart _ straps => exact K.pendingRestart straps alive h
  | silenceDeadlineExpiry _ a => exact K.silenceExpiry a h
  | announceTimerExpiry => exact K.toBaseKeep.hand.announceExpiry h
  | listenWindowExpiry => exact K.listenExpiry h
  | recallWindowExpiry => exact K.recallExpiry h
  | confirmDeadlineExpiry => exact K.toBaseKeep.hand.confirmExpiry _ h
  | scan => exact K.scan _ h
  | stuckDeadlineExpiry => exact K.stuck h
  | holdDeadlineExpiry => exact K.toBaseKeep.gestures.holdExpiry _ h
  | repeatDeadlineExpiry => exact K.toBaseKeep.gestures.repeatExpiry _ h
  | waitDeadlineExpiry => exact K.toBaseKeep.waitExpiry _ h
  | completeCode => exact K.infrared.completeCode h
  | holdMarker => exact K.infrared.holdMarker h
  | limitPassed => exact K.infrared.limitExpiry h
  | releaseDeadlineExpiry => exact K.infrared.releaseExpiry h
  | emissionFrame => exact K.emissionFrame h
  | emissionEnd => exact K.emissionEnd h
  | blankingEnd => exact K.blankingEnd h
  | stepDeadlineExpiry _ i => exact K.stepOutput i h
  | flashEnd => exact K.toBaseKeep.endFlash _ h
  | dominantEdge => exact K.toBaseKeep.dominantEdge _ h
  | headerFailed => exact K.toBaseKeep.headerFailed h
  | irInputEdge => exact K.infrared.irEdge _ h
  -- The rows of the frames.
  | _ => exact receive _ _ rfl h

end EffectKeep

/-! ### Without a rival nothing is owed -/

/-- No rival is to come in the event, and nothing is owed behind one. -/
def State.Quiet (s : State) : Prop := s.rival = 0 ∧ s.owed = []

theorem State.Quiet.of_eq {s t : State} (h : s.Quiet) (hr : t.rival = s.rival)
    (ho : t.owed = s.owed) : t.Quiet :=
  ⟨hr.trans h.1, ho.trans h.2⟩

theorem State.Acts.quiet {s t : State} (h : s.Acts t) (q : s.Quiet) : t.Quiet :=
  ⟨Nat.le_zero.1 (q.1 ▸ h.rival), (h.owed q.1).trans q.2⟩

theorem State.joinChan_rival_owed (c : Collection) (i : Byte) (s : State) (ch : Chan) :
    (State.joinChan c i s ch).rival = s.rival ∧ (State.joinChan c i s ch).owed = s.owed := by
  unfold State.joinChan
  split <;> exact ⟨rfl, rfl⟩

/-- An event without rivals owes nothing, in each of its parts. -/
theorem quietBase : BaseKeep State.Quiet where
  free := fun _ _ _ _ _ _ h => h.of_eq rfl rfl
  owe := fun _ hr _ h => absurd h.1 hr
  gesture := fun _ _ h => (State.gesture_acts _ _ _).quiet h
  endRequest := fun _ _ h => (State.endRequest_acts _ _ _).quiet h
  grantOccasion := fun h => (State.grantOccasion_acts _).quiet h
  emitterGrant := fun h => (State.emitterGrant_acts _).quiet h
  waitExpiry := fun i h => by
    unfold State.waitExpiry
    split
    · split
      · exact (State.resumeNext_acts _ _).quiet h
      · exact h
    · exact h
  apply := fun _ _ hc _ h => (State.apply_acts hc _ _ _ _).quiet h
  dirty := fun _ _ h => h.of_eq rfl rfl
  cursor := fun _ h => h.of_eq rfl rfl
  requestSent := fun _ h => h.of_eq rfl rfl
  fetchOut := fun _ _ h => h.of_eq rfl rfl
  announceAt := fun _ h => h.of_eq rfl rfl
  recalls := fun _ _ h => h.of_eq rfl rfl

theorem quietParts : EffectKeep State.Quiet True where
  toBaseKeep := quietBase
  silent := fun _ _ _ h => h.of_eq rfl rfl
  imageRead := fun {s} answer _ _ hs h => by
    rcases s.imageRead_cases answer hs with ⟨_, _, e⟩ | ⟨_, _, e⟩ | ⟨_, _, _, _, e⟩ <;> rw [e]
    · exact h.of_eq rfl rfl
    · exact h.of_eq rfl rfl
    · rw [State.loadSucceeds_eq]
      exact h.of_eq rfl rfl
  lineRestart := fun _ _ _ h => by
    rw [State.lineRestart_eq]
    exact h.of_eq rfl rfl
  fresh := fun _ _ _ _ _ _ _ => ⟨rfl, rfl⟩
  joining := fun _ _ h => h.of_eq rfl rfl
  joined := fun _ h _ _ => ActsKeep.foldl
    (fun s ch (hs : s.Quiet) => by
      obtain ⟨hr, ho⟩ := State.joinChan_rival_owed _ _ s ch
      exact hs.of_eq hr ho) _ h
  scan := fun {s} down h => by
    have release : ∀ (s : State) (k : Key), s.Quiet → (s.keyRelease k).Quiet := by
      intro s k h
      unfold State.keyRelease
      dsimp only
      split
      · exact quietBase.trackUp _ (h.of_eq rfl rfl)
      · exact h.of_eq rfl rfl
    have press : ∀ (s : State) (k : Key), s.Quiet → (s.keyPress k).Quiet := by
      intro s k h
      unfold State.keyPress
      dsimp only
      split
      · exact quietBase.trackDown _ (h.of_eq rfl rfl)
      · exact h.of_eq rfl rfl
    unfold State.scan
    split
    · have counted : State.Quiet { s with scanner := s.scanner.count down } :=
        h.of_eq rfl rfl
      have released := ActsKeep.foldl release (s.changes down false) counted
      have scanned := ActsKeep.foldl press (s.changes down true) released
      exact scanned.of_eq rfl rfl
    · exact h
  stuck := fun {s} h => by
    unfold State.stuckExpiry
    split
    next => exact h
    next p _ =>
      have told : State.Quiet _ := quietBase.trackUp (.key p.key) (s := s.setKey p.key .stuck)
        (h.of_eq rfl rfl)
      exact told.of_eq rfl rfl
  irRead := fun _ _ _ h => h.of_eq rfl rfl
  irHeld := fun _ _ h => h.of_eq rfl rfl
  emissionFrame := fun h => by
    unfold State.emissionFrame
    split
    · split <;> exact h.of_eq rfl rfl
    · exact h
  nextEmission := fun _ _ h => h.of_eq rfl rfl
  lastEmission := fun _ _ h => h.of_eq rfl rfl
  blankingEnd := fun h => by
    unfold State.blankingEnd
    split
    · split <;> exact h.of_eq rfl rfl
    · exact h
  stepOutput := fun _ h => h.of_eq rfl rfl

theorem quietFrame (f : Frame) : FrameKeep State.Quiet f where
  judged := fun _ _ _ _ _ h => h.of_eq rfl rfl
  collected := fun _ _ h => h.of_eq rfl rfl

theorem State.evidence_quiet {s : State} (src : Addr) (i : Byte) (p : Option Byte) (h : s.Quiet) :
    (s.evidence src i p).2.Quiet := by
  unfold State.evidence State.peerClaims
  split
  · exact h
  · split
    · rw [State.enterConflict_eq]
      exact h.of_eq rfl rfl
    · dsimp only
      split
      · exact quietBase.hand.cancelRequests _ (h.of_eq rfl rfl)
      · split
        · exact quietBase.hand.cancelRequests _ (h.of_eq rfl rfl)
        · exact h.of_eq rfl rfl

theorem State.receive_quiet {s : State} (kind : BitVec 4) (rx : Rx) (h : s.Quiet) :
    (s.receive kind rx).Quiet := by
  have taken (f : Frame) : (s.takenFrame f).Quiet := by
    have heard := State.evidence_quiet (s := s.bump .framesTaken) f.source f.incarnation f.period?
      (h.of_eq rfl rfl)
    unfold State.takenFrame
    dsimp only
    rw [State.thenDo_of_no_rival heard.1]
    exact (quietFrame f).takenHeard quietBase _ heard
  have malformed (f : Frame) : (s.malformedFrame f).Quiet := by
    have heard := State.evidence_quiet (s := s.bump .framesMalformed) f.source f.incarnation none
      (h.of_eq rfl rfl)
    unfold State.malformedFrame
    dsimp only
    split
    · exact h.of_eq rfl rfl
    · rw [State.thenDo_of_no_rival heard.1]
      exact quietBase.malformedHeard f _ heard
  unfold State.receive
  split
  · split
    · exact h.of_eq rfl rfl
    · split
      · exact h.of_eq rfl rfl
      · split
        · exact taken _
        · exact malformed _
  · exact h

/-- An event in which no rival comes owes nothing. -/
theorem happens_quiet {s : State} {c : Instr} (dt : Moment) (hc : isReset c = false)
    (h : s.Quiet) : (s.happens dt (effectOf c)).Quiet :=
  (State.settle_acts _).quiet
    (quietParts.effect hc (.inl ⟨trivial, h.2⟩) (fun kind rx _ => State.receive_quiet kind rx)
      (s := s.advance dt) (h.of_eq rfl rfl))

theorem State.pay_quiet {s : State} (o : Owing) (h : s.Quiet) : (s.pay o).Quiet := by
  by_cases hf : o.ofFrame = true ∨ ∃ a, o = .fetch a
  · cases o with
    | fetch a => exact quietBase.fetchDecision a h
    | handing f n =>
      simp only [State.pay]
      split
      · exact (quietFrame f).takenHeard quietBase n h
      · exact h
    | malformed f n =>
      simp only [State.pay]
      split
      · exact quietBase.malformedHeard f n h
      · exact h
    | _ => simp [Owing.ofFrame] at hf
  · push Not at hf
    exact (s.pay_acts (by simpa using hf.1) hf.2).quiet h

/-- Behind the last rival all that is owed is done. -/
theorem State.goOn_quiet (s : State) : (s.goOn 0).Quiet := by
  have pays : ∀ (l : List Owing) (v : State), v.Quiet →
      (l.foldl (fun s o => s.thenDo o fun s => s.pay o) v).Quiet := by
    intro l
    induction l with
    | nil => exact fun v hv => hv
    | cons o l ih =>
      intro v hv
      refine ih _ ?_
      show (v.thenDo o fun s => s.pay o).Quiet
      rw [State.thenDo_of_no_rival hv.1]
      exact v.pay_quiet o hv
  exact (State.settle_acts _).quiet (pays _ _ ⟨rfl, rfl⟩)

theorem State.meet_quiet (l : List Instr) (s : State) : (s.meet l).2.Quiet := by
  induction l generalizing s with
  | nil => exact s.goOn_quiet
  | cons c l ih =>
    simp only [State.meet]
    split
    · exact ih _
    · exact s.goOn_quiet

theorem State.meet_owed (l : List Instr) (s : State) : ((s.meet l).2).owed = [] := (s.meet_quiet l).2

theorem happens_owed {s : State} {c : Instr} {dt : Moment} (hc : isReset c = false) :
    ((s.calm 0).happens dt (effectOf c)).owed = [] :=
  (happens_quiet dt hc (s := s.calm 0) ⟨rfl, rfl⟩).2

/-! ### Commands -/

/-- A command that is carried out is a reset, which leaves the values of a reset; or time passes; or an edge
changes the level of the line of a held part; or it is an event (R99, R100). -/
theorem exec_cases {s t : State} {c : Instr} (ht : exec c s = .next t) :
    (∃ ctl at', ctl.collection = none ∧ (ctl.state = .loading ∨ ctl.state = .configFault)
        ∧ t =
          { (s.advance (moment c)).resetBlocks with
            start := ctl, scanner := { KeyScanner.reset with scanAt := at' } })
      ∨ t = s.advance (moment c)
      ∨ (∃ low, t = (s.advance (moment c)).wireEdge low)
      ∨ isReset c = false ∧ event (moment c) s (effectOf c) = .next t := by
  have loading (dt : Moment) (ctl : StartController) (a : Addr) (hc : ctl.collection = none) :
      ∃ ctl' at', ctl'.collection = none ∧ (ctl'.state = .loading ∨ ctl'.state = .configFault)
        ∧ ({ (s.advance dt).resetBlocks with start := ctl } : State).beginLoading a =
          { (s.advance dt).resetBlocks with
            start := ctl', scanner := { KeyScanner.reset with scanAt := at' } } := by
    refine ⟨_, _, ?_, ?_, rfl⟩
    · exact hc
    · show (if a = 0 then StationState.configFault else .loading) = .loading
        ∨ (if a = 0 then StationState.configFault else .loading) = .configFault
      split
      · exact .inr rfl
      · exact .inl rfl
  by_cases hc : isReset c = true
  · cases c with
    | powerOn dt a =>
      obtain rfl := Host.Outcome.next.inj ht
      unfold State.powerOn
      dsimp only
      split
      · exact .inl ⟨_, none, rfl, .inl rfl, rfl⟩
      · exact .inl (loading dt _ a rfl)
    | resetPinAsserted dt =>
      obtain rfl := Host.Outcome.next.inj ht
      exact .inl ⟨_, none, rfl, .inl rfl, rfl⟩
    | resetPinReleased dt a =>
      obtain rfl := Host.Outcome.next.inj ht
      unfold State.pinReleased
      split
      · exact .inl (loading dt _ a rfl)
      · exact .inr (.inl rfl)
    | _ => cases hc
  · have hc' : isReset c = false := by simpa using hc
    by_cases hd : s.start.hold = .none ∨ ∀ dt low, c ≠ .dominantEdge ⟨dt, low⟩
    · rw [exec_eq_event _ hc' hd] at ht
      exact .inr (.inr (.inr ⟨hc', ht⟩))
    · push Not at hd
      obtain ⟨held, dt, low, rfl⟩ := hd
      have wired : exec (.dominantEdge ⟨dt, low⟩) s = .next ((s.advance dt).wireEdge low) :=
        if_neg held
      exact .inr (.inr (.inl ⟨low, Host.Outcome.next.inj (ht.symm.trans wired)⟩))

/-- A step carries out the front command, or changes nothing. -/
theorem step_cases {s t : State} (ht : Machine.step s = .next t) :
    t = s ∨ ∃ c rest, exec c { s with pending := rest } = .next t := by
  unfold Machine.step at ht
  split at ht
  next => exact .inl (Host.Outcome.next.inj ht).symm
  next c rest _ => exact .inr ⟨c, rest, ht⟩

/-! ### Events -/
/-- What the parts of every event keep while no time passes: a predicate over the parts still owed and a
state. It does not look at the model's own fields. -/
structure InstantKeeper (N : List Owing → State → Prop) : Prop where
  perm : ∀ {D D' : List Owing} {s : State}, D.Perm D' → N D s → N D' s
  own : ∀ {D : List Owing} {s : State} (r : Nat) (o : List Owing) (k : Nat), N D s →
    N D { s with rival := r, owed := o, taken := k }
  instant : ∀ {D : List Owing} {s : State} {dt : Moment}, dt.after = 0 → N D s → N D (s.advance dt)
  less : ∀ {D : List Owing} {s : State} {o : Owing}, (∀ e r, o ≠ .conclusion e r) → N (o :: D) s → N D s
  parts : ∀ D, EffectKeep (Debts N D) (D = [])
  frame : ∀ D f n, FrameKeep (Debts N (.handing f n :: D)) f
  finish : ∀ {D : List Owing} {s : State} {e : ReqEntry} (o : ReqOutcome), s.requestOf e.tag = some e →
    Debts N D s → Debts N D (State.finish e o s)
  conclude : ∀ {D : List Owing} {s : State} (e : ReqEntry) (o : ReqOutcome),
    Debts N (.conclusion e o :: D) s → Debts N D (s.conclude e o)
  heard : ∀ {D : List Owing} {s : State} {f : Frame} (n : Bool), (∀ o ∈ D, o.ofFrame = false) →
    s.owed = [] → s.line.activity = .receiving → wellFormed s.channels.records f = true →
    Debts N D s →
    Debts N (.handing f n :: D) (s.evidence f.source f.incarnation f.period?).2
  noticed : ∀ {D : List Owing} {s : State} {f : Frame} (n : Bool), (∀ o ∈ D, o.ofFrame = false) →
    s.owed = [] → s.line.activity = .receiving → Debts N D s →
    Debts N (.malformed f n :: D) (s.evidence f.source f.incarnation none).2

/-- What the parts of every event keep, and the passage of time. -/
structure Keeper (N : List Owing → State → Prop) : Prop extends InstantKeeper N where
  pending : ∀ {s : State} (p : List Instr), N [] s → N [] { s with pending := p }
  time : ∀ {s : State} (dt : Moment), N [] s → N [] (s.advance dt)

namespace InstantKeeper

variable {N : List Owing → State → Prop} (K : InstantKeeper N)
include K

theorem base (D : List Owing) : BaseKeep (Debts N D) := (K.parts D).toBaseKeep

/-! ### Parts owed -/

/-- A part that is owed anyway is owed by the state. -/
theorem owed {D : List Owing} {s : State} (o : Owing) (h : Debts N (o :: D) s) :
    Debts N D (s.owe o) := by
  have moved : (o :: D ++ s.owed).Perm (D ++ (s.owed ++ [o])) := by
    rw [← List.append_assoc]
    exact (List.perm_append_comm (l₁ := [o]) (l₂ := D ++ s.owed))
  exact K.own s.rival (s.owed ++ [o]) s.taken (K.perm moved h)

/-- A part that is owed is done now, or owed by the state. -/
theorem doOwed {D : List Owing} {s : State} {o : Owing} {part : State → State}
    (hp : Debts N (o :: D) s → Debts N D (part s)) (h : Debts N (o :: D) s) :
    Debts N D (s.thenDo o part) := by
  unfold State.thenDo
  split
  · exact K.owed o h
  · exact hp h

theorem pay {D : List Owing} {s : State} {o : Owing} (h : Debts N (o :: D) s) :
    Debts N D (s.pay o) := by
  have less (hc : ∀ e r, o ≠ .conclusion e r) : Debts N D s := K.less hc h
  cases o with
  | table => exact (K.base D).grantOccasion (less (by simp))
  | emitter => exact (K.base D).emitterGrant (less (by simp))
  | removal e r =>
    simp only [State.pay]
    split
    next he => exact K.finish r he (less (by simp))
    next => exact less (by simp)
  | conclusion e r => exact K.conclude e r h
  | cancels tags => exact (K.base D).hand.cancelTags _ _ (less (by simp))
  | pair a c p => exact (K.base D).hand.matchPair a c p (less (by simp))
  | fetch a => exact (K.base D).fetchDecision a (less (by simp))
  | handing f n =>
    simp only [State.pay]
    split
    next => exact K.less (by simp) ((K.frame D f n).takenHeard (K.base _) n h)
    next => exact less (by simp)
  | malformed f n =>
    simp only [State.pay]
    split
    next => exact (K.base D).malformedHeard f n (less (by simp))
    next => exact less (by simp)

/-! ### Effects -/

theorem receive {D : List Owing} {s : State} (kind : BitVec 4) (rx : Rx)
    (hD : ∀ o ∈ D, o.ofFrame = false) (ho : s.owed = []) (h : Debts N D s) :
    Debts N D (s.receive kind rx) := by
  have taken (f : Frame) (hr : s.line.activity = .receiving)
      (hw : wellFormed s.channels.records f = true) : Debts N D (s.takenFrame f) :=
    K.doOwed
      (fun hf => K.less (by simp) ((K.frame D f _).takenHeard (K.base _) _ hf))
      (K.heard (s := s.bump .framesTaken) _ hD ho hr hw ((K.base D).bump _ h))
  have malformed (f : Frame) (hr : s.line.activity = .receiving) : Debts N D (s.malformedFrame f) := by
    unfold State.malformedFrame
    dsimp only
    split
    · exact (K.base D).answering _ _ ((K.base D).bump _ h)
    · exact K.doOwed (fun hf => (K.base D).malformedHeard f _ (K.less (by simp) hf))
        (K.noticed (s := s.bump .framesMalformed) _ hD ho hr ((K.base D).bump _ h))
  unfold State.receive
  split
  next hr =>
    split
    · exact (K.base D).headerFailure h
    · split
      · exact (K.base D).garbledFrame _ h
      · split
        next hw => exact taken _ hr.1 hw
        next => exact malformed _ hr.1
  next => exact h

/-! ### Events -/

theorem calm {s : State} (r : Nat) (h : N [] s) : Debts N [] (s.calm r) := K.own r [] s.taken h

theorem happens {D : List Owing} {s : State} {c : Instr} (hc : isReset c = false)
    (hD : fromLine c = true → ∀ o ∈ D, o.ofFrame = false)
    (alive : D = [] ∨ (s.happens (moment c) (effectOf c)).start.state = .active)
    (ho : s.owed = []) (h : Debts N D (s.advance (moment c))) : Debts N D (s.happens (moment c) (effectOf c)) := by
  refine (K.base D).settle
    ((K.parts D).effect hc (alive.imp (⟨·, ho⟩) fun e => ?_) (fun kind rx hl => K.receive kind rx (hD hl) ho) h)
  rwa [State.happens, (State.settle_acts _).start] at e

theorem goOn {s : State} (r : Nat) (h : Debts N [] s) : Debts N [] (s.goOn r) := by
  have pays : ∀ (l : List Owing) (v : State), Debts N l v →
      Debts N [] (l.foldl (fun s o => s.thenDo o fun s => s.pay o) v) := by
    intro l
    induction l with
    | nil => exact fun v hv => hv
    | cons o l ih => exact fun v hv => ih _ (K.doOwed K.pay hv)
  refine (K.base []).settle (pays s.owed _ ?_)
  have all : N (s.owed ++ []) s := by simpa [Debts] using h
  exact K.own r [] s.taken all

theorem metBy {s t : State} {c : Instr} (hc : isRival c = true) (h : Debts N [] s)
    (hm : s.metBy c = some t) : Debts N [] t := by
  simp only [isRival, Bool.and_eq_true, bne_iff_ne, beq_iff_eq, Bool.not_eq_true'] at hc
  obtain ⟨⟨-, now⟩, noReset⟩ := hc
  obtain ⟨e, -, active⟩ := State.metBy_eq_some hm
  have notBoth : fromLine c = true → ∀ o ∈ s.owed, o.ofFrame = false := by
    intro hl o ho
    unfold State.metBy at hm
    dsimp only at hm
    split at hm
    · cases hm
    next hn =>
      by_contra hf
      exact hn (.inr ⟨hl, List.any_eq_true.2 ⟨o, ho, by simpa using hf⟩⟩)
  have before : Debts N s.owed ((s.calm s.rival).advance (moment c)) := by
    have all : N (s.owed ++ []) s := by simpa [Debts] using h
    exact K.instant now (K.own s.rival [] s.taken all)
  rw [e] at active ⊢
  have behind := K.happens noReset notBoth (.inr active) rfl before
  exact K.own _ _ _ behind

theorem meet : ∀ (l : List Instr) {s : State}, (∀ c ∈ l, isRival c = true) → Debts N [] s →
    Debts N [] (s.meet l).2 := by
  intro l
  induction l with
  | nil => exact fun _ h => K.goOn 0 h
  | cons c l ih =>
    intro s hl h
    simp only [State.meet]
    split
    next t ht =>
      exact ih (fun d hd => hl d (List.mem_cons_of_mem _ hd))
        (K.metBy (hl c (List.mem_cons_self ..)) (K.goOn _ h) ht)
    next => exact K.goOn 0 h

omit K in
theorem debts_nil {s : State} : Debts N [] s ↔ N s.owed s := Iff.rfl

theorem event {s t : State} {c : Instr} (hc : isReset c = false)
    (h : N [] (s.advance (moment c))) (ht : event (moment c) s (effectOf c) = .next t) : N [] t := by
  have first (r : Nat) : Debts N [] ((s.calm r).happens (moment c) (effectOf c)) :=
    K.happens hc (by simp) (.inl rfl) rfl (K.own r [] s.taken h)
  rcases event_cases (moment c) s (effectOf c) with ⟨e, _⟩ | ⟨e, _⟩ | e | ⟨d, ds, u, hr, hu, e⟩ <;>
    rw [e] at ht <;> obtain rfl := Host.Outcome.next.inj ht
  · exact h
  · exact K.own s.rival s.owed (s.taken - 1) h
  · have kept := first 0
    rw [debts_nil, happens_owed hc] at kept
    exact kept
  · have rivals : ∀ c' ∈ d :: ds, isRival c' = true :=
      fun c' hc' => List.mem_takeWhile_imp (hr ▸ hc' : c' ∈ s.rivals)
    have kept := K.meet ds (fun c' hc' => rivals c' (List.mem_cons_of_mem _ hc'))
      (K.metBy (rivals d (List.mem_cons_self ..)) (first _) hu)
    rw [debts_nil, State.meet_owed] at kept
    exact K.own _ _ _ kept

theorem wireEdge {s : State} (low : Time) (h : N [] s) : N [] (s.wireEdge low) := by
  have wired := (K.base []).setLine { s.line with wire := s.wirePulled low } (K.own s.rival [] s.taken h)
  exact K.own s.rival s.owed s.taken wired

/-- A command keeps the predicate where its time does: a reset leaves the values of a reset, and every other
command is an event. -/
theorem exec {s t : State} {c : Instr} (h : N [] (s.advance (moment c))) (ht : Machine.exec c s = .next t) :
    N [] t := by
  rcases exec_cases ht with ⟨ctl, at', hc, hs, rfl⟩ | rfl | ⟨low, rfl⟩ | ⟨hc, ht⟩
  · exact (K.parts []).fresh rfl ((s.advance (moment c)).calm 0) ctl at' hc hs (K.calm 0 h)
  · exact h
  · exact K.wireEdge low h
  · exact K.event hc h ht

end InstantKeeper

theorem Keeper.step {N : List Owing → State → Prop} (K : Keeper N) {s t : State} (h : N [] s)
    (ht : Machine.step s = .next t) : N [] t := by
  rcases step_cases ht with rfl | ⟨c, rest, ht⟩
  · exact h
  · exact K.exec (K.time _ (K.pending rest h)) ht

end Sys2Proof.Machine
end

section
/-! PROOFS. Ways to a predicate that every step keeps: one that actions keep because of what they leave,
one that looks only at the Peer Table, the Channel Table and the Start Controller, and one that no owed
part bears on. -/

namespace Sys2Proof.Machine

/-- Rivals may have come. -/
theorem State.rival_acts (s : State) {n : Nat} (h : n ≤ s.rival) :
    s.Acts { s with rival := n } where
  now := rfl
  pending := rfl
  taken := rfl
  rival := h
  owed := fun _ => rfl
  line := .inr rfl
  peers := rfl
  start := rfl
  scanner := rfl
  gestures := rfl
  bindings := rfl
  cursor := rfl
  records := fun _ => Record.Acted.refl _
  table := rfl
  restart := rfl
  emitMap := rfl
  pulsePhase := rfl
  codeSets := rfl
  clockStart := rfl

/-- What every state after actions keeps, the primitive updates of actions keep. -/
theorem ActsKeep.of_acts {P : State → Prop} (h : ∀ {s t : State}, s.Acts t → P s → P t) :
    ActsKeep P where
  draws := fun {s} n hs => h (State.Acts.of_blocks s n s.queue s.requests s.emitter s.macros.slots
    s.outputs.loads s.indicators.indicators s.service.counters) hs
  rival := fun _ hn hs => h (State.rival_acts _ hn) hs
  owe := fun o hr _ hs => h (State.owe_acts hr o) hs
  bump := fun c hs => h (State.bump_acts _ c) hs
  flash := fun p hs => h (State.flash_acts _ p) hs
  setSlot := fun i r hs => h (State.setSlot_acts _ i r) hs
  tellOutputs := fun c v hs => h (State.tellOutputs_acts _ c v) hs
  offerEmission := fun e hs => h (State.offerEmission_acts _ e) hs
  emitterWaiting := fun _ hs => h (State.emitter_acts _ _) hs
  waiting := fun _ hs => h (State.requests_acts _ _) hs
  offer := fun c d _ hs => h (State.offer_acts _ c d) hs
  marked := fun _ _ _ _ hs => h (State.queue_acts _ _) hs
  dropped := fun _ _ _ _ hs => h (State.queue_acts _ _) hs
  settled := fun hs => h (State.queue_acts _ _) hs
  applied := fun {_ _ r op x} o hc _ hs =>
    h (State.setHome_acts hc (h' := r.applied op x o) rfl rfl rfl rfl) hs
  dirty := fun {_ _ r} d hc hs =>
    h (State.setHome_acts hc (h' := { r with dirty := d }) rfl rfl rfl rfl) hs
  made := fun _ _ _ _ _ hs => h (State.requests_acts _ _) hs
  removed := fun t hs => h (State.removeRequest_acts _ t) hs

/-- The peer record after evidence, and the records that the claims of it make STALE (R39 to R42, R62). -/
def State.noted (s : State) (src : Addr) (i : Byte) (p : Option Byte) : State :=
  let t := s.setPeer src ((s.peer src).heard i p s.now)
  if i = 0 then t.staleClaim src none
  else if (s.peer src).rejoins i then t.staleClaim src (some i)
  else t

/-- Evidence is nothing, an address conflict, or noted with perhaps the requests to its source cancelled. -/
theorem State.evidence_cases (s : State) (src : Addr) (i : Byte) (p : Option Byte) :
    ((s.evidence src i p).2 = s ∧ s.start.state.hearsPeers = false)
      ∨ s.start.state.hearsPeers = true ∧
        (((s.evidence src i p).2 = s.enterConflict ∧ src = s.start.ownAddress)
          ∨ (src ≠ s.start.ownAddress
              ∧ ((s.evidence src i p).2 = s.noted src i p
                ∨ (s.evidence src i p).2 = (s.noted src i p).cancelRequests src))) := by
  unfold State.evidence
  split
  next h => exact .inl ⟨rfl, h⟩
  next h =>
    refine .inr ⟨by simpa using h, ?_⟩
    split
    next e => exact .inl ⟨rfl, e⟩
    next e =>
      refine .inr ⟨e, ?_⟩
      unfold State.peerClaims State.noted
      dsimp only
      split
      · exact .inr rfl
      · split
        · exact .inr rfl
        · exact .inl rfl

/-- What a note of evidence keeps, in the parts of it. -/
theorem State.noted_keeps {P : State → Prop} {s : State} {src : Addr} {i : Byte} {p : Option Byte}
    (peer : P (s.setPeer src ((s.peer src).heard i p s.now)))
    (stale : ∀ {s : State} (e : Option Byte), P s → P (s.staleClaim src e)) : P (s.noted src i p) := by
  unfold State.noted
  dsimp only
  split
  · exact stale _ peer
  · split
    · exact stale _ peer
    · exact peer

/-- What the evidence of a frame keeps, in the parts of it. -/
theorem HandKeep.evidence {P : State → Prop} (K : HandKeep P) {s : State} {src : Addr} {i : Byte}
    {p : Option Byte} (conflict : s.start.state.hearsPeers = true → P s.enterConflict)
    (noted : s.start.state.hearsPeers = true → src ≠ s.start.ownAddress → P (s.noted src i p))
    (h : P s) : P (s.evidence src i p).2 := by
  rcases s.evidence_cases src i p with ⟨e, _⟩ | ⟨hears, ⟨e, _⟩ | ⟨other, e | e⟩⟩ <;> rw [e]
  · exact h
  · exact conflict hears
  · exact noted hears other
  · exact K.cancelRequests _ (noted hears other)

/-- A predicate that bears on no owed part. -/
theorem Keeper.plain {P : State → Prop} (A : ActsKeep P)
    (parts : ∀ alone, EffectKeep P alone)
    (own : ∀ {s : State} (r : Nat) (o : List Owing) (k : Nat), P s →
      P { s with rival := r, owed := o, taken := k })
    (pending : ∀ {s : State} (p : List Instr), P s → P { s with pending := p })
    (time : ∀ {s : State} (dt : Moment), P s → P (s.advance dt))
    (frame : ∀ f, FrameKeep P f)
    (heard : ∀ {s : State} {f : Frame}, s.line.activity = .receiving →
      wellFormed s.channels.records f = true → P s →
      P (s.evidence f.source f.incarnation f.period?).2)
    (noticed : ∀ {s : State} {f : Frame}, s.line.activity = .receiving → P s →
      P (s.evidence f.source f.incarnation none).2) : Keeper fun _ s => P s where
  perm := fun _ h => h
  own := own
  pending := pending
  time := time
  instant := fun {_ _ dt} _ => time dt
  less := fun _ h => h
  parts := fun _ => parts _
  frame := fun _ f _ => frame f
  finish := fun {_ _ e} o _ => A.finish e o
  conclude := fun e o => A.conclude e o
  heard := fun _ _ _ => heard
  noticed := fun _ _ _ => noticed

/-! ### Predicates over the Peer Table, the Channel Table and the Start Controller -/

/-- A predicate over the three tables and the clock, with what the moves that write them keep. -/
structure TablesKeep (P : State → Prop) (alone : Prop) : Prop extends ActsKeep P where
  tables : ∀ {s t : State}, P s → t.now = s.now → t.peers = s.peers → t.channels = s.channels →
    t.start = s.start → t.owed = s.owed → P t
  cursor : ∀ {s : State} (c : Chan), P s → P { s with channels := { s.channels with cursor := c } }
  fetchOut : ∀ {s : State} (a : Addr) (b : Bool), P s →
    P (s.setPeer a { s.peer a with fetchOut := b })
  announceAt : ∀ {s : State} (t : Option Time), P s →
    P { s with peers := { s.peers with announceAt := t } }
  recalls : ∀ {s : State} (n : Nat) (t : Option Time), P s →
    P { s with start := { s.start with recallsOut := n, recallAt := t } }
  silent : ∀ {s : State} (a : Addr), s.start.state.hearsPeers = true →
    due s.now (s.peer a).silentAt = true → P s →
    P ((s.setPeer a { s.peer a with presence := .silent, silentAt := none }).staleClaim a none)
  imageRead : ∀ {s : State} (answer : Option Byte), alone → s.owed = [] → s.start.state = .loading →
    P s →
    P (s.imageRead answer)
  lineRestart : ∀ {s : State}, alone → s.owed = [] →
    s.start.state = .joining ∨ s.start.state = .active → P s →
    P s.lineRestart
  fresh : alone → ∀ (s : State) (c : StartController) (t : Option Time), c.collection = none →
    c.state = .loading ∨ c.state = .configFault → P s →
    P { s.resetBlocks with start := c, scanner := { KeyScanner.reset with scanAt := t } }
  joining : ∀ {s : State} (n : Nat), s.start.state = .listening → P s →
    P { s with
        start :=
          { s.start with
            state := .joining, listenAt := none, recallsOut := n
            collection := some { latest := 0, triples := [] } } }
  joined : ∀ {s : State}, s.start.state = .joining → P s →
    ∀ c, c = s.start.collection.getD { latest := 0, triples := [] } →
    P (s.homeChans.foldl (State.joinChan c (nextIncarnation c.latest))
        (s.becomesActive (nextIncarnation c.latest)))

namespace TablesKeep

variable {P : State → Prop} {alone : Prop} (K : TablesKeep P alone)
include K

theorem base : BaseKeep P :=
  K.toActsKeep.base (fun _ _ _ _ _ _ h => K.tables h rfl rfl rfl rfl rfl) K.cursor
    (fun _ h => K.tables h rfl rfl rfl rfl rfl) K.fetchOut K.announceAt K.recalls

/-- The blocks outside the tables are free. -/
theorem parts : EffectKeep P alone where
  toBaseKeep := K.base
  silent := K.silent
  imageRead := K.imageRead
  lineRestart := K.lineRestart
  fresh := K.fresh
  joining := K.joining
  joined := K.joined
  scan := K.base.gestures.scan fun _ h => K.tables h rfl rfl rfl rfl rfl
  stuck := K.base.gestures.stuckExpiry fun _ h => K.tables h rfl rfl rfl rfl rfl
  irRead := fun _ _ _ h => K.tables h rfl rfl rfl rfl rfl
  irHeld := fun _ _ h => K.tables h rfl rfl rfl rfl rfl
  emissionFrame := fun h => by
    unfold State.emissionFrame
    split
    · split
      · exact K.tables h rfl rfl rfl rfl rfl
      · exact h
    · exact h
  nextEmission := fun _ _ h => K.tables h rfl rfl rfl rfl rfl
  lastEmission := fun _ _ h => K.tables h rfl rfl rfl rfl rfl
  blankingEnd := fun h => by
    unfold State.blankingEnd
    split
    · split
      · exact K.tables h rfl rfl rfl rfl rfl
      · exact h
    · exact h
  stepOutput := fun _ h => K.tables h rfl rfl rfl rfl rfl

end TablesKeep

end Sys2Proof.Machine
end

section
/-! PROOFS. What the moves of the Start Controller do to the channel and peer records, and three
invariants over those tables: the HOME states, the silence deadlines and the own incarnation. -/

namespace Sys2Proof.Machine

/-! ### Records after the moves that write them all -/

theorem State.chan_congr {s t : State} (h : t.channels = s.channels) (c : Chan) :
    t.chan c = s.chan c := by
  rw [State.chan, h, State.chan]

theorem State.peer_congr {s t : State} (h : t.peers = s.peers) (a : Addr) : t.peer a = s.peer a := by
  simp only [State.peer, h]

@[simp] theorem State.chan_staleClaim (s : State) (a : Addr) (e : Option Byte) (c : Chan) :
    (s.staleClaim a e).chan c = (s.chan c).staleClaim a e :=
  s.chan_mapChans _ c

@[simp] theorem State.chan_enterConflict (s : State) (c : Chan) :
    s.enterConflict.chan c = (s.chan c).freeze := by
  rw [State.enterConflict_eq]
  exact getElem_mapV _ _ _ c.isLt

@[simp] theorem State.peer_enterConflict (s : State) (a : Addr) :
    s.enterConflict.peer a = { s.peer a with silentAt := none, fetchOut := false } := by
  rw [State.enterConflict_eq]
  exact getElem_mapV _ _ _ a.isLt

@[simp] theorem State.chan_startChannels (s : State) (c : Chan) :
    s.startChannels.chan c = (s.chan c).startValues :=
  s.chan_mapChans _ c

@[simp] theorem State.chan_lineRestart (s : State) (c : Chan) :
    s.lineRestart.chan c = (s.chan c).startValues := by
  rw [State.lineRestart_eq]
  exact s.chan_startChannels c

@[simp] theorem State.peer_lineRestart (s : State) (a : Addr) :
    s.lineRestart.peer a = (s.peer a).restart := by
  rw [State.lineRestart_eq]
  exact getElem_mapV _ _ _ a.isLt

@[simp] theorem State.chan_loadSucceeds (s : State) (m : Image) (c : Chan) :
    (s.loadSucceeds m).chan c = (m.records[c]).startValues := by
  rw [State.loadSucceeds_eq]
  exact State.chan_startChannels
    { s with channels := { s.channels with records := m.records } } c

@[simp] theorem State.peer_loadSucceeds (s : State) (m : Image) (a : Addr) :
    (s.loadSucceeds m).peer a = s.peer a := by
  rw [State.loadSucceeds_eq]
  rfl

theorem State.chan_resetBlocks (s : State) (c : Chan) : s.resetBlocks.chan c = .unused := by
  simp [State.chan, State.resetBlocks, State.reset, ChannelTable.reset]

theorem State.peer_resetBlocks (s : State) (a : Addr) : s.resetBlocks.peer a = PeerRec.reset := by
  simp [State.peer, State.resetBlocks, State.reset, PeerTable.reset]

/-! ### The HOME channels and join completion (R57, R114) -/

theorem State.mem_homeChans (s : State) (c : Chan) : c ∈ s.homeChans ↔ (s.chan c).isHome = true :=
  mem_indicesV _ _ _

theorem State.nodup_homeChans (s : State) : s.homeChans.Nodup :=
  (List.nodup_finRange 64).filter fun c => (s.chan c).isHome

/-- A record at join completion (R57). -/
def Record.join (c : Collection) (i : Byte) (ch : Chan) : Record → Record
  | .home h => .home (h.join (c.valueOf ch) i)
  | r => r

/-- One channel at join completion touches its record and the load outputs. -/
theorem State.joinChan_eq (c : Collection) (i : Byte) (s : State) (ch : Chan) :
    ∃ v ld, State.joinChan c i s ch =
      { s with
        channels := { s.channels with records := v }
        outputs := { s.outputs with loads := ld } } := by
  unfold State.joinChan
  split <;> exact ⟨_, _, rfl⟩

/-- The channels at join completion touch the records and the load outputs. -/
theorem State.joinChans_eq (c : Collection) (i : Byte) (l : List Chan) (s : State) :
    ∃ v ld, l.foldl (State.joinChan c i) s =
      { s with
        channels := { s.channels with records := v }
        outputs := { s.outputs with loads := ld } } := by
  induction l generalizing s with
  | nil => exact ⟨_, _, rfl⟩
  | cons ch l ih =>
    obtain ⟨v, ld, e⟩ := State.joinChan_eq c i s ch
    obtain ⟨v', ld', e'⟩ := ih (State.joinChan c i s ch)
    exact ⟨v', ld', by rw [List.foldl_cons, e', e]⟩

theorem State.chan_joinChan (c : Collection) (i : Byte) (s : State) (ch d : Chan) :
    (State.joinChan c i s ch).chan d = if d = ch then (s.chan d).join c i d else s.chan d := by
  unfold State.joinChan
  split
  next h hc =>
    show ((s.setChan ch (.home (h.join (c.valueOf ch) i)))).chan d = _
    split
    next e => rw [e, State.chan_setChan_self, hc, Record.join]
    next e => rw [State.chan_setChan_ne s _ e]
  next hn =>
    split
    next e =>
      subst e
      cases hr : s.chan d with
      | home h => exact absurd hr (hn h)
      | _ => rfl
    next => rfl

theorem State.chan_joinChans (c : Collection) (i : Byte) {l : List Chan} (hl : l.Nodup) (s : State)
    (d : Chan) :
    (l.foldl (State.joinChan c i) s).chan d =
      if d ∈ l then (s.chan d).join c i d else s.chan d := by
  induction l generalizing s with
  | nil => simp
  | cons ch l ih =>
    obtain ⟨hn, hl⟩ := List.nodup_cons.1 hl
    rw [List.foldl_cons, ih hl, State.chan_joinChan]
    by_cases e : d = ch
    · subst e
      simp [hn]
    · simp [e]

/-- Join completion sets every HOME record (R57). -/
theorem State.chan_joinHomes (c : Collection) (i : Byte) (s u : State)
    (hu : u.channels = s.channels) (d : Chan) :
    (s.homeChans.foldl (State.joinChan c i) u).chan d = (s.chan d).join c i d := by
  rw [State.chan_joinChans c i s.nodup_homeChans, State.chan_congr hu]
  split
  · rfl
  next hd =>
    rw [State.mem_homeChans] at hd
    cases hr : s.chan d with
    | home h => simp [hr, Record.isHome] at hd
    | _ => rfl

/-! ### The states of the HOME records (R54) -/

theorem Record.follows_of_acted {st : StationState} {r r' : Record} (h : r.Acted r')
    (hr : r.follows st) : r'.follows st := by
  cases r with
  | home =>
    obtain ⟨h', rfl, -, -, hs, -⟩ := h
    exact hr.trans (congrArg some hs.symm)
  | unused =>
    obtain rfl : r' = _ := h
    exact hr
  | mirror =>
    obtain rfl : r' = _ := h
    exact hr

theorem Record.startValues_follows (r : Record) : r.startValues.follows .listening := by
  cases r <;> simp [Record.startValues, Record.follows, homeStateIn]

/-- A MIRROR record has no state of a HOME record. -/
theorem HomesFollowStation.setMirror {s : State} (h : HomesFollowStation s) (c : Chan)
    (m : MirrorRec) : HomesFollowStation (s.setChan c (.mirror m)) := by
  intro d
  by_cases e : d = c
  · rw [e, State.chan_setChan_self]
    trivial
  · rw [State.chan_setChan_ne s _ e]
    exact h d

theorem HomesFollowStation.staleClaim {s : State} (h : HomesFollowStation s) (a : Addr)
    (e : Option Byte) : HomesFollowStation (s.staleClaim a e) := by
  intro c
  have follows := h c
  rw [State.chan_staleClaim]
  cases hr : s.chan c with
  | mirror m =>
    simp only [Record.staleClaim]
    split <;> trivial
  | home r => rw [hr] at follows; exact follows
  | unused => trivial

theorem homesActs : ActsKeep HomesFollowStation := ActsKeep.of_acts fun acts h c => by
  rw [acts.start]
  exact Record.follows_of_acted (acts.records c) (h c)

theorem homesTables (alone : Prop) : TablesKeep HomesFollowStation alone where
  toActsKeep := homesActs
  tables := fun h _ _ hc hs _ c => by
    rw [State.chan_congr hc, hs]
    exact h c
  cursor := fun _ h => h
  fetchOut := fun _ _ h => h
  announceAt := fun _ h => h
  recalls := fun _ _ h => h
  silent := fun a _ _ h => HomesFollowStation.staleClaim (s := State.setPeer _ _ _) h a none
  imageRead := fun {s} answer _ _ hs h => by
    rcases s.imageRead_cases answer hs with ⟨_, _, e⟩ | ⟨_, _, e⟩ | ⟨_, _, _, _, e⟩ <;> rw [e]
    · intro c
      have follows := h c
      rw [hs] at follows
      exact follows
    · exact h
    · intro c
      rw [State.chan_loadSucceeds, State.loadSucceeds_eq]
      exact Record.startValues_follows _
  lineRestart := fun {s} _ _ _ _ c => by
    rw [State.chan_lineRestart, State.lineRestart_eq]
    exact Record.startValues_follows _
  fresh := fun _ s _ _ _ _ _ c => by
    have unused := s.chan_resetBlocks c
    show (s.resetBlocks.chan c).follows _
    rw [unused]
    trivial
  joining := fun _ hs h c => by
    have follows := h c
    rw [hs] at follows
    exact follows
  joined := fun {s} hs h col _ c => by
    have follows := h c
    rw [hs] at follows
    obtain ⟨v, ld, e⟩ := State.joinChans_eq col (nextIncarnation col.latest) s.homeChans
      (s.becomesActive (nextIncarnation col.latest))
    rw [State.chan_joinHomes _ _ s (s.becomesActive _) rfl, e]
    show (Record.join _ _ _ _).follows .active
    cases hr : s.chan c <;> simp [Record.join, Record.follows, homeStateIn, HomeRec.join]

theorem homes_evidence {s : State} (src : Addr) (i : Byte) (p : Option Byte)
    (h : HomesFollowStation s) : HomesFollowStation (s.evidence src i p).2 := by
  refine (homesTables True).base.hand.evidence (fun _ c => ?_) (fun _ _ => ?_) h
  · rw [State.chan_enterConflict, State.enterConflict_eq]
    cases s.chan c <;> simp [Record.freeze, Record.follows, homeStateIn]
  · exact State.noted_keeps h fun e hs => hs.staleClaim src e

theorem homesKeeper : Keeper fun _ s => HomesFollowStation s :=
  Keeper.plain homesActs (fun alone => (homesTables alone).parts) (fun _ _ _ h => h) (fun _ h => h)
    (fun _ h => h)
    (fun _ =>
      { judged := fun _ _ _ _ _ h => h.setMirror _ _
        collected := fun _ _ h => h })
    (fun _ _ h => homes_evidence _ _ _ h) (fun _ h => homes_evidence _ _ _ h)

/-! ### Silence deadlines (R43, R44) -/

theorem silenceActs : ActsKeep SilenceSound := ActsKeep.of_acts fun acts h hs a => by
  rw [State.peer_congr acts.peers]
  exact h (acts.start ▸ hs) a

/-- A peer record whose deadline is true to its presence may be written. -/
theorem SilenceSound.setPeer {s : State} (h : SilenceSound s) (a : Addr) {r : PeerRec}
    (hr : r.silentAt.isSome = decide (r.presence = .present ∨ r.presence = .joining)) :
    SilenceSound (s.setPeer a r) := by
  intro hs b
  by_cases e : b = a
  · rw [e, State.peer_setPeer_self, hr]
  · rw [State.peer_setPeer_ne s r e]
    exact h hs b

theorem silenceTables (alone : Prop) : TablesKeep SilenceSound alone where
  toActsKeep := silenceActs
  tables := fun h _ hp _ hs _ hn a => by
    rw [State.peer_congr hp]
    exact h (hs ▸ hn) a
  cursor := fun _ h => h
  fetchOut := fun {s} a b h hs c => by
    by_cases e : c = a
    · rw [e, State.peer_setPeer_self]
      exact h hs a
    · rw [State.peer_setPeer_ne s _ e]
      exact h hs c
  announceAt := fun _ h => h
  recalls := fun _ _ h => h
  silent := fun {s} a _ _ h => h.setPeer a rfl
  imageRead := fun {s} answer _ _ hs h => by
    have h : ∀ a, _ := h (by rw [hs]; simp)
    rcases s.imageRead_cases answer hs with ⟨_, _, e⟩ | ⟨_, _, e⟩ | ⟨_, _, _, _, e⟩ <;> rw [e]
    · exact fun _ => h
    · exact fun _ => h
    · intro _ a
      rw [State.peer_loadSucceeds]
      exact h a
  lineRestart := fun {s} _ _ _ _ _ a => by
    rw [State.peer_lineRestart]
    rfl
  fresh := fun _ s _ _ _ _ _ _ a => by
    show (s.resetBlocks.peer a).silentAt.isSome = _
    rw [s.peer_resetBlocks a]
    show _ = decide ((s.resetBlocks.peer a).presence = _ ∨ (s.resetBlocks.peer a).presence = _)
    rw [s.peer_resetBlocks a]
    rfl
  joining := fun _ hs h _ => h (by rw [hs]; simp)
  joined := fun {s} hs h col _ => by
    obtain ⟨v, ld, e⟩ := State.joinChans_eq col (nextIncarnation col.latest) s.homeChans
      (s.becomesActive (nextIncarnation col.latest))
    rw [e]
    exact fun _ => h (by rw [hs]; simp)

theorem silence_evidence {s : State} (src : Addr) (i : Byte) (p : Option Byte)
    (h : SilenceSound s) : SilenceSound (s.evidence src i p).2 := by
  refine (silenceTables True).base.hand.evidence (fun _ hs => ?_) (fun _ _ => ?_) h
  · rw [State.enterConflict_eq] at hs
    exact absurd rfl hs
  · refine State.noted_keeps (h.setPeer src ?_) fun e hs => hs
    simp only [PeerRec.heard]
    split <;> rfl

theorem silenceKeeper : Keeper fun _ s => SilenceSound s :=
  Keeper.plain silenceActs (fun alone => (silenceTables alone).parts) (fun _ _ _ h => h)
    (fun _ h => h) (fun _ h => h)
    (fun _ =>
      { judged := fun _ _ _ _ _ h => h
        collected := fun _ _ h => h })
    (fun _ _ h => silence_evidence _ _ _ h) (fun _ h => silence_evidence _ _ _ h)

/-! ### The own incarnation (R98, R114) -/

/-- The invariant looks at the station state and the own incarnation alone. -/
theorem IncarnationSound.congr {s t : State} (h : IncarnationSound s)
    (hs : t.start.state = s.start.state)
    (hi : t.peers.ownIncarnation = s.peers.ownIncarnation) : IncarnationSound t := by
  unfold IncarnationSound
  rw [hs, hi]
  exact h

theorem nextIncarnation_ne_zero (i : Byte) : nextIncarnation i ≠ 0 := by
  unfold nextIncarnation
  split
  · decide
  next h =>
    intro h0
    exact h (by bv_omega)

theorem incarnationActs : ActsKeep IncarnationSound := ActsKeep.of_acts fun acts h =>
  h.congr (by rw [acts.start]) (by rw [acts.peers])

theorem incarnationTables (alone : Prop) : TablesKeep IncarnationSound alone where
  toActsKeep := incarnationActs
  tables := fun h _ hp _ hs _ => h.congr (by rw [hs]) (by rw [hp])
  cursor := fun _ h => h
  fetchOut := fun _ _ h => h
  announceAt := fun _ h => h
  recalls := fun _ _ h => h
  silent := fun _ _ _ h => h
  imageRead := fun {s} answer _ _ hs h => by
    have own : s.peers.ownIncarnation = 0 := by
      unfold IncarnationSound at h
      rwa [hs] at h
    rcases s.imageRead_cases answer hs with ⟨_, _, e⟩ | ⟨_, _, e⟩ | ⟨_, _, _, _, e⟩ <;> rw [e]
    · exact own
    · exact h
    · rw [State.loadSucceeds_eq]
      exact own
  lineRestart := fun {s} _ _ _ _ => by
    rw [State.lineRestart_eq]
    exact rfl
  fresh := fun _ s c _ _ hc _ => by
    unfold IncarnationSound
    rcases hc with e | e <;> rw [e] <;> rfl
  joining := fun {s} _ hs h => by
    unfold IncarnationSound at h
    rw [hs] at h
    exact h
  joined := fun {s} _ _ col _ => by
    obtain ⟨v, ld, e⟩ := State.joinChans_eq col (nextIncarnation col.latest) s.homeChans
      (s.becomesActive (nextIncarnation col.latest))
    rw [e]
    exact nextIncarnation_ne_zero _

theorem incarnation_evidence {s : State} (src : Addr) (i : Byte) (p : Option Byte)
    (h : IncarnationSound s) : IncarnationSound (s.evidence src i p).2 := by
  refine (incarnationTables True).base.hand.evidence (fun _ => ?_) (fun _ _ => ?_) h
  · rw [State.enterConflict_eq]
    trivial
  · exact State.noted_keeps h fun e hs => hs

theorem incarnationKeeper : Keeper fun _ s => IncarnationSound s :=
  Keeper.plain incarnationActs (fun alone => (incarnationTables alone).parts) (fun _ _ _ h => h)
    (fun _ h => h) (fun _ h => h)
    (fun _ =>
      { judged := fun _ _ _ _ _ h => h
        collected := fun _ _ h => h })
    (fun _ _ h => incarnation_evidence _ _ _ h) (fun _ h => incarnation_evidence _ _ _ h)

end Sys2Proof.Machine
end

section
/-! PROOFS. Channel values within the range of their kind (R52), with the frames still to be handed on:
their triples were judged by the records' kinds, which no event of theirs changes. -/

namespace Sys2Proof.Machine

/-- An emission offer touches the emitter and the receiver. -/
theorem State.offerEmission_eq (s : State) (e : Emission) :
    ∃ em r, (s.offerEmission e).2 = { s with emitter := em, ir := r } := by
  unfold State.offerEmission
  split
  · exact ⟨_, _, rfl⟩
  · split
    · exact ⟨_, _, rfl⟩
    · split <;> exact ⟨_, _, rfl⟩

/-- A predicate over the three tables is kept by actions if their operations on channels keep it. -/
theorem ActsKeep.of_tables {P : State → Prop}
    (tables : ∀ {s t : State}, P s → t.now = s.now → t.peers = s.peers → t.channels = s.channels →
      t.start = s.start → t.owed = s.owed → P t)
    (owe : ∀ {s : State} (o : Owing), s.rival ≠ 0 → o.ofFrame = false → P s → P (s.owe o))
    (applied : ∀ {s : State} {c : Chan} {h : HomeRec} {op : Op} {x : Byte} (o : Addr),
      s.chan c = .home h → opValid h.kind op x = true → P s →
      P (s.setChan c (.home (h.applied op x o))))
    (dirty : ∀ {s : State} {c : Chan} {h : HomeRec} (d : Bool), s.chan c = .home h → P s →
      P (s.setChan c (.home { h with dirty := d }))) : ActsKeep P where
  draws := fun _ h => tables h rfl rfl rfl rfl rfl
  rival := fun _ _ h => tables h rfl rfl rfl rfl rfl
  owe := owe
  bump := fun _ h => tables h rfl rfl rfl rfl rfl
  flash := fun _ h => tables h rfl rfl rfl rfl rfl
  setSlot := fun _ _ h => tables h rfl rfl rfl rfl rfl
  tellOutputs := fun _ _ h => tables h rfl rfl rfl rfl rfl
  offerEmission := fun {s} e h => by
    obtain ⟨em, r, eq⟩ := s.offerEmission_eq e
    rw [eq]
    exact tables h rfl rfl rfl rfl rfl
  emitterWaiting := fun _ h => tables h rfl rfl rfl rfl rfl
  waiting := fun _ h => tables h rfl rfl rfl rfl rfl
  offer := fun {s} c d _ h => by
    obtain ⟨_, q, l, eq, _⟩ := s.offer_eq c d
    rw [eq]
    exact tables h rfl rfl rfl rfl rfl
  marked := fun _ _ _ _ h => tables h rfl rfl rfl rfl rfl
  dropped := fun _ _ _ _ h => tables h rfl rfl rfl rfl rfl
  settled := fun h => tables h rfl rfl rfl rfl rfl
  applied := applied
  dirty := dirty
  made := fun _ _ _ _ _ h => tables h rfl rfl rfl rfl rfl
  removed := fun _ h => tables h rfl rfl rfl rfl rfl

/-! ### Ranges -/

/-- The result of a valid operation lies in the range of the kind (R52, R64). -/
theorem opResult_holds {k : ChanKind} {op : Op} {x value : Byte} (memory : Byte)
    (hv : k.holds value = true) (hx : opValid k op x = true) :
    k.holds (opResult k op x value memory) = true := by
  cases k with
  | level => rfl
  | switch =>
    cases op with
    | set => exact hx
    | toggle =>
      simp only [ChanKind.holds, opResult, decide_eq_true_eq] at hv ⊢
      have bit : value = 0#8 ∨ value = 1#8 := by bv_omega
      rcases bit with rfl | rfl <;> rfl
    | stepUp => cases hx
    | stepDown => cases hx
  | select =>
    cases op with
    | set => exact hx
    | toggle => cases hx
    | stepUp =>
      simp only [ChanKind.holds, opResult, decide_eq_true_eq, BitVec.toNat_ofNat]
      omega
    | stepDown =>
      simp only [ChanKind.holds, opResult, decide_eq_true_eq, BitVec.toNat_ofNat]
      omega

theorem ChanKind.holds_zero (k : ChanKind) : k.holds 0 = true := by
  cases k <;> rfl

/-- The tests on a frame see of the records their kinds alone. -/
theorem wellFormed_congr {r r' : Vector Record 64} (h : ∀ c : Chan, r'[c].kind? = r[c].kind?)
    (f : Frame) : wellFormed r' f = wellFormed r f := by
  have admits : ∀ (c : Chan) (v : Byte), r'[c].admits v = r[c].admits v := by
    intro c v
    rw [Record.admits, h c, Record.admits]
  unfold wellFormed
  simp only [admits]

/-- A triple of a well-formed frame lies in the range of the channel's kind (R15). -/
theorem admits_of_wellFormed {r : Vector Record 64} {f : Frame} (h : wellFormed r f = true)
    {t : Triple} (ht : t ∈ triplesOf f.kind f.body) : r[t.chan].admits t.value = true := by
  unfold wellFormed at h
  simp only [Bool.and_eq_true, List.all_eq_true] at h
  obtain ⟨-, admitted⟩ := h
  obtain ⟨raw, hr, rfl⟩ := List.mem_map.1 ht
  exact admitted raw hr

theorem Record.inRange_admits {r : Record} {k : ChanKind} {v : Byte} (hk : r.kind? = some k)
    (h : r.admits v = true) : k.holds v = true := by
  rwa [Record.admits, hk] at h

theorem Record.kind?_of_acted {r r' : Record} (h : r.Acted r') : r'.kind? = r.kind? := by
  cases r with
  | home r =>
    obtain ⟨h', rfl, hk, -⟩ := h
    exact congrArg some hk
  | unused =>
    obtain rfl : r' = _ := h
    rfl
  | mirror =>
    obtain rfl : r' = _ := h
    rfl

theorem Record.startValues_kind? (r : Record) : r.startValues.kind? = r.kind? := by
  cases r <;> rfl

theorem Record.startValues_inRange {r : Record} (h : r.inRange) : r.startValues.inRange := by
  cases r with
  | unused => trivial
  | home r => exact ⟨h.2, h.2⟩
  | mirror m => exact m.kind.holds_zero

theorem Record.staleClaim_kind? (a : Addr) (e : Option Byte) (r : Record) :
    (r.staleClaim a e).kind? = r.kind? := by
  unfold Record.staleClaim
  split
  · split <;> rfl
  · rfl

theorem Record.staleClaim_inRange (a : Addr) (e : Option Byte) {r : Record} (h : r.inRange) :
    (r.staleClaim a e).inRange := by
  unfold Record.staleClaim
  split
  · split <;> exact h
  · exact h

/-! ### The triples of a recall collection -/

/-- Every triple of the collection is one of a list, or of another collection. -/
theorem Collection.keep_subset {homes : List Chan} {c : Collection} {t u : Triple}
    (h : u ∈ (c.keep homes t).triples) : u = t ∨ u ∈ c.triples := by
  unfold Collection.keep at h
  split at h
  · split at h
    · rw [List.mem_append, List.mem_singleton] at h
      exact h.symm
    · split at h
      · have first : ∀ l : List Triple,
            u ∈ modifyFirst (fun v => v.chan == t.chan) (fun _ => t) l → u = t ∨ u ∈ l := by
          intro l
          induction l with
          | nil => exact fun h => .inr h
          | cons a l ih =>
            intro h
            simp only [modifyFirst] at h
            split at h
            · rcases List.mem_cons.1 h with e | h
              · exact .inl e
              · exact .inr (List.mem_cons_of_mem _ h)
            · rcases List.mem_cons.1 h with rfl | h
              · exact .inr (List.mem_cons_self ..)
              · exact (ih h).imp_right (List.mem_cons_of_mem _)
        exact first _ h
      · exact .inr h
  · exact .inr h

theorem Collection.keeps_subset {homes : List Chan} {u : Triple} (ts : List Triple) :
    ∀ {c : Collection}, u ∈ (ts.foldl (Collection.keep homes) c).triples → u ∈ ts ∨ u ∈ c.triples := by
  induction ts with
  | nil => exact fun h => .inr h
  | cons t ts ih =>
    intro c h
    rcases ih h with h | h
    · exact .inl (List.mem_cons_of_mem _ h)
    · rcases Collection.keep_subset h with rfl | h
      · exact .inl (List.mem_cons_self ..)
      · exact .inr h

theorem Collection.merge_subset {c : Collection} {homes : List Chan} {j : Byte} {ts : List Triple}
    {u : Triple} (h : u ∈ (c.merge homes j ts).triples) : u ∈ ts ∨ u ∈ c.triples := by
  unfold Collection.merge at h
  split at h
  · exact (Collection.keeps_subset ts h).imp_right fun h => absurd h (by simp)
  · split at h
    · exact Collection.keeps_subset ts h
    · exact .inr h

/-! ### The image's records -/

theorem allSome_mem {α : Type} {l : List (Option α)} {m : List α} (h : allSome l = some m) {a : α}
    (ha : a ∈ m) : some a ∈ l := by
  induction l generalizing m with
  | nil =>
    obtain rfl : [] = m := Option.some.inj h
    cases ha
  | cons o l ih =>
    cases o with
    | none => cases h
    | some b =>
      rw [allSome] at h
      obtain ⟨m', hm, rfl⟩ := Option.map_eq_some_iff.1 h
      rcases List.mem_cons.1 ha with rfl | ha
      · exact List.mem_cons_self ..
      · exact List.mem_cons_of_mem _ (ih hm ha)

theorem allSome_length {α : Type} {l : List (Option α)} {m : List α} (h : allSome l = some m) :
    m.length = l.length := by
  induction l generalizing m with
  | nil =>
    obtain rfl : [] = m := Option.some.inj h
    rfl
  | cons o l ih =>
    cases o with
    | none => cases h
    | some b =>
      rw [allSome] at h
      obtain ⟨m', hm, rfl⟩ := Option.map_eq_some_iff.1 h
      rw [List.length_cons, List.length_cons, ih hm]

theorem parseSection_mem {α : Type} {size most : Nat} {parse : List Byte → Option α} {l : List Byte}
    {m : List α} (h : parseSection size most parse l = some m) {a : α} (ha : a ∈ m) :
    ∃ b, parse b = some a := by
  unfold parseSection at h
  split at h
  · cases h
  · split at h
    · obtain ⟨b, -, hb⟩ := List.mem_map.1 (allSome_mem h ha)
      exact ⟨b, hb⟩
    · cases h

theorem onlyIf_eq_some {α : Type} {b : Bool} {a c : α} : onlyIf b a = some c ↔ b = true ∧ a = c := by
  unfold onlyIf
  split
  next h => simp [h]
  next h => simp [h]

/-- A declared record lies in its range (R103). -/
theorem parseChannel_inRange {own : Addr} {l : List Byte} {x : Chan × Record}
    (h : parseChannel own l = some x) : x.2.inRange := by
  unfold parseChannel at h
  dsimp only at h
  split at h
  · cases h
  next k _ =>
    split at h
    · split at h
      · obtain ⟨hv, rfl⟩ := onlyIf_eq_some.1 h
        exact ⟨hv, hv⟩
      · obtain ⟨-, rfl⟩ := onlyIf_eq_some.1 h
        exact k.holds_zero
      · cases h
    · cases h

theorem declaredRecords_inRange {rs : List (Chan × Record)} (h : ∀ x ∈ rs, x.2.inRange) (c : Chan) :
    ((declaredRecords rs)[c]).inRange := by
  have fold : ∀ (rs : List (Chan × Record)) (v : Vector Record 64), (∀ x ∈ rs, x.2.inRange) →
      (∀ c : Chan, (v[c]).inRange) →
      ∀ c : Chan, ((rs.foldl (fun v r => v.set r.1 r.2) v)[c]).inRange := by
    intro rs
    induction rs with
    | nil => exact fun v _ hv => hv
    | cons x rs ih =>
      intro v hx hv
      refine ih _ (fun y hy => hx y (List.mem_cons_of_mem _ hy)) fun d => ?_
      simp only [Fin.getElem_fin, Vector.getElem_set]
      split
      · exact hx x (List.mem_cons_self ..)
      · exact hv d
  refine fold rs _ h (fun d => ?_) c
  simp only [Fin.getElem_fin, Vector.getElem_replicate]
  trivial

/-- A check of an image that has not failed has found its part. -/
theorem orFault_bind_eq_ok {α β : Type} {c : FaultCode} {o : Option α} {f : α → Except FaultCode β}
    {b : β} (h : orFault c o >>= f = .ok b) : ∃ a, o = some a ∧ f a = .ok b := by
  cases o with
  | none => cases h
  | some a => exact ⟨a, rfl, h⟩

/-- The records and the macros of a validated image are those of its sections. -/
theorem validate_parts {own : Addr} {l : List Byte} {m : Image} (h : validate own l = .ok m) :
    (∃ rs, parseChannels own (sectionBytes l 1) = some rs ∧ m.records = declaredRecords rs)
      ∧ ∃ d, parseMacroSection d (sectionBytes l 7) = some m.macros := by
  unfold validate at h
  obtain ⟨_, -, h⟩ := orFault_bind_eq_ok h
  obtain ⟨rs, channels, h⟩ := orFault_bind_eq_ok h
  obtain ⟨_, -, h⟩ := orFault_bind_eq_ok h
  obtain ⟨_, -, h⟩ := orFault_bind_eq_ok h
  obtain ⟨_, -, h⟩ := orFault_bind_eq_ok h
  obtain ⟨_, -, h⟩ := orFault_bind_eq_ok h
  obtain ⟨_, -, h⟩ := orFault_bind_eq_ok h
  obtain ⟨_, macros, h⟩ := orFault_bind_eq_ok h
  obtain rfl := Except.ok.inj h
  exact ⟨⟨rs, channels, rfl⟩, _, macros⟩

/-- The records of a validated image lie in their ranges. -/
theorem validate_inRange {own : Addr} {l : List Byte} {m : Image} (h : validate own l = .ok m)
    (c : Chan) : (m.records[c]).inRange := by
  obtain ⟨rs, hrs, hm⟩ := (validate_parts h).1
  rw [hm]
  refine declaredRecords_inRange (fun x hx => ?_) c
  unfold parseChannels at hrs
  split at hrs
  · cases hrs
  next hp =>
    obtain ⟨-, rfl⟩ := onlyIf_eq_some.1 hrs
    obtain ⟨b, hb⟩ := parseSection_mem hp hx
    exact parseChannel_inRange hb

/-! ### The invariant -/

/-- Every value lies in its range, and every frame still to be handed on is well-formed for the records. -/
def ValuesKept (D : List Owing) (s : State) : Prop :=
  ValuesInRange s ∧ ∀ f n, .handing f n ∈ D → wellFormed s.channels.records f = true

namespace ValuesKept

/-- What keeps the kinds of the records and the collection keeps the invariant, where the values of the
records stay in range. -/
theorem of_kinds {D D' : List Owing} {s t : State} (h : ValuesKept D s)
    (kinds : ∀ c, (t.chan c).kind? = (s.chan c).kind?)
    (ranges : ∀ c, (s.chan c).inRange → (t.chan c).inRange)
    (collection : t.start.collection = none ∨ t.start.collection = s.start.collection)
    (loading : t.start.state = .loading → s.start.state = .loading)
    (debts : ∀ f n, .handing f n ∈ D' → .handing f n ∈ D) : ValuesKept D' t := by
  obtain ⟨⟨values, collected, none⟩, frames⟩ := h
  refine ⟨⟨fun c => ranges c (values c), fun k hk u hu => ?_, fun hl => ?_⟩, fun f n hf => ?_⟩
  · rcases collection with e | e
    · rw [e] at hk
      cases hk
    · rw [Record.admits, kinds]
      exact collected k (e ▸ hk) u hu
  · rcases collection with e | e
    · exact e
    · rw [e]
      exact none (loading hl)
  · rw [wellFormed_congr (r := s.channels.records) kinds]
    exact frames f n (debts f n hf)

/-- One record replaced by one of its kind, in range. -/
theorem setChan {D : List Owing} {s : State} (h : Debts ValuesKept D s) {c : Chan} {r : Record}
    (kind : r.kind? = (s.chan c).kind?) (range : (s.chan c).inRange → r.inRange) :
    Debts ValuesKept D (s.setChan c r) := by
  refine of_kinds h (fun d => ?_) (fun d hr => ?_) (.inr rfl) (fun hl => hl) (fun _ _ hf => hf)
  · by_cases e : d = c
    · rw [e, State.chan_setChan_self, kind]
    · rw [State.chan_setChan_ne s r e]
  · by_cases e : d = c
    · rw [e, State.chan_setChan_self]
      exact range (e ▸ hr)
    · rw [State.chan_setChan_ne s r e]
      exact hr

theorem tables {D : List Owing} {s t : State} (h : Debts ValuesKept D s)
    (hc : t.channels = s.channels) (hs : t.start = s.start) (ho : t.owed = s.owed) :
    Debts ValuesKept D t := by
  refine of_kinds h (fun c => ?_) (fun c => ?_) (.inr (by rw [hs])) (fun hl => by rwa [hs] at hl)
    (fun f n hf => by rwa [ho] at hf)
  · rw [State.chan_congr hc]
  · rw [State.chan_congr hc]
    exact fun hr => hr

/-- More that is owed, no part of a frame. -/
theorem owe {D : List Owing} {s : State} (o : Owing) (ho : o.ofFrame = false)
    (h : Debts ValuesKept D s) : Debts ValuesKept D (s.owe o) := by
  refine of_kinds h (fun _ => rfl) (fun _ hr => hr) (.inr rfl) (fun hl => hl) fun f n hf => ?_
  rw [State.owe, ← List.append_assoc, List.mem_append, List.mem_singleton] at hf
  rcases hf with hf | rfl
  · exact hf
  · cases ho

theorem acts (D : List Owing) : ActsKeep (Debts ValuesKept D) :=
  ActsKeep.of_tables (fun h _ _ hc hs ho => tables h hc hs ho) (fun o _ ho h => owe o ho h)
    (fun o hc hv h => setChan h (by rw [hc]; rfl) (by
      rw [hc]
      exact fun hr => ⟨opResult_holds _ hr.1 hv, hr.2⟩))
    (fun _ hc h => setChan h (by rw [hc]; rfl) (by rw [hc]; exact fun hr => hr))

theorem staleClaim {D : List Owing} {s : State} (a : Addr) (e : Option Byte)
    (h : Debts ValuesKept D s) : Debts ValuesKept D (s.staleClaim a e) := by
  refine of_kinds h (fun c => ?_) (fun c hr => ?_) (.inr rfl) (fun hl => hl) (fun _ _ hf => hf)
  · rw [State.chan_staleClaim, Record.staleClaim_kind?]
  · rw [State.chan_staleClaim]
    exact Record.staleClaim_inRange a e hr

theorem collect {D : List Owing} {s : State} {c : Collection} {j : Byte} {f : Frame} {n : Bool}
    (hc : s.start.collection = some c) (hs : s.start.state = .joining)
    (h : Debts ValuesKept (.handing f n :: D) s) :
    Debts ValuesKept (.handing f n :: D)
      { s with
        start :=
          { s.start with
            collection := some (c.merge s.homeChans j (triplesOf f.kind f.body)) } } := by
  obtain ⟨⟨values, collected, none⟩, frames⟩ := h
  refine ⟨⟨values, fun k hk u hu => ?_, fun hl => ?_⟩, frames⟩
  · obtain rfl := Option.some.inj hk
    rcases Collection.merge_subset hu with hu | hu
    · exact admits_of_wellFormed (frames f n (List.mem_cons_self ..)) hu
    · exact collected c hc u hu
  · exact absurd (hl.symm.trans hs) (by simp)

theorem parts (D : List Owing) (alone : Prop) (hD : alone → D = []) :
    TablesKeep (Debts ValuesKept D) alone where
  toActsKeep := acts D
  tables := fun h _ _ hc hs ho => tables h hc hs ho
  cursor := fun _ h => of_kinds h (fun _ => rfl) (fun _ hr => hr) (.inr rfl) (fun hl => hl)
    (fun _ _ hf => hf)
  fetchOut := fun _ _ h => tables h rfl rfl rfl
  announceAt := fun _ h => tables h rfl rfl rfl
  recalls := fun _ _ h => of_kinds h (fun _ => rfl) (fun _ hr => hr) (.inr rfl) (fun hl => hl)
    (fun _ _ hf => hf)
  silent := fun a _ _ h => staleClaim a none (tables h rfl rfl rfl)
  imageRead := fun {s} answer ha ho hs h => by
    obtain rfl := hD ha
    rcases s.imageRead_cases answer hs with ⟨_, _, e⟩ | ⟨_, _, e⟩ | ⟨_, _, m, hm, e⟩ <;> rw [e]
    · exact of_kinds h (fun _ => rfl) (fun _ hr => hr) (.inr rfl) (fun hl => nomatch hl)
        (fun _ _ hf => hf)
    · exact of_kinds h (fun _ => rfl) (fun _ hr => hr) (.inr rfl) (fun hl => hl) (fun _ _ hf => hf)
    · refine ⟨⟨fun c => ?_, ?_, ?_⟩, ?_⟩
      · rw [State.chan_loadSucceeds]
        exact Record.startValues_inRange (validate_inRange hm c)
      · rw [State.loadSucceeds_eq]
        show ∀ k ∈ s.start.collection, _
        rw [h.1.2.2 hs]
        exact fun _ hk => nomatch hk
      · rw [State.loadSucceeds_eq]
        exact fun hl => nomatch hl
      · rw [State.loadSucceeds_eq]
        show ∀ f n, .handing f n ∈ s.owed → _
        rw [ho]
        exact fun _ _ hf => nomatch hf
  lineRestart := fun {s} _ _ _ h => by
    refine of_kinds h (fun c => ?_) (fun c hr => ?_) (.inl ?_) (fun hl => ?_) (fun f n hf => ?_)
    · rw [State.chan_lineRestart, Record.startValues_kind?]
    · rw [State.chan_lineRestart]
      exact Record.startValues_inRange hr
    · rw [State.lineRestart_eq]
      rfl
    · rw [State.lineRestart_eq] at hl
      cases hl
    · rwa [State.lineRestart_eq] at hf
  fresh := fun ha s c _ hc _ _ => by
    obtain rfl := hD ha
    refine ⟨⟨fun d => ?_, fun k hk => ?_, fun _ => hc⟩, fun _ _ hf => nomatch hf⟩
    · show (s.resetBlocks.chan d).inRange
      rw [s.chan_resetBlocks d]
      trivial
    · exact absurd (hc ▸ hk : k ∈ none) (by simp)
  joining := fun {s} _ hs h => by
    obtain ⟨⟨values, -, -⟩, frames⟩ := h
    refine ⟨⟨values, fun k hk u hu => ?_, fun hl => nomatch hl⟩, frames⟩
    obtain rfl := Option.some.inj hk
    cases hu
  joined := fun {s} _ h col hcol => by
    obtain ⟨v, ld, e⟩ := State.joinChans_eq col (nextIncarnation col.latest) s.homeChans
      (s.becomesActive (nextIncarnation col.latest))
    have recalled : ∀ t ∈ col.triples, (s.chan t.chan).admits t.value = true := by
      intro t ht
      cases hk : s.start.collection with
      | none =>
        rw [hk] at hcol
        subst hcol
        cases ht
      | some k =>
        rw [hk] at hcol
        obtain rfl : col = k := hcol
        exact h.1.2.1 col hk t ht
    refine of_kinds h (fun c => ?_) (fun c hr => ?_) (.inl ?_) (fun hl => ?_) (fun f n hf => ?_)
    · rw [State.chan_joinHomes _ _ s (s.becomesActive _) rfl]
      cases s.chan c <;> rfl
    · rw [State.chan_joinHomes _ _ s (s.becomesActive _) rfl]
      cases hc : s.chan c with
      | unused => trivial
      | mirror m =>
        rw [hc] at hr
        exact hr
      | home r =>
        rw [hc] at hr
        refine ⟨?_, hr.2⟩
        show r.kind.holds ((col.valueOf c).getD r.default) = true
        unfold Collection.valueOf
        cases ht : col.triples.find? (fun t => t.chan == c) with
        | none => exact hr.2
        | some t =>
          have at_c : t.chan = c := by simpa using List.find?_some ht
          have admitted := recalled t (List.mem_of_find?_eq_some ht)
          rw [at_c, hc] at admitted
          exact admitted
    · rw [e]
      rfl
    · rw [e] at hl
      cases hl
    · rwa [e] at hf

theorem enterConflict {D : List Owing} {s : State} (h : Debts ValuesKept D s) :
    Debts ValuesKept D s.enterConflict := by
  refine of_kinds h (fun c => ?_) (fun c hr => ?_) (.inl ?_) (fun hl => ?_) (fun f n hf => ?_)
  · rw [State.chan_enterConflict]
    cases s.chan c <;> rfl
  · rw [State.chan_enterConflict]
    cases hc : s.chan c with
    | unused => trivial
    | mirror m => rw [hc] at hr; exact hr
    | home r => rw [hc] at hr; exact hr
  · rw [State.enterConflict_eq]
  · rw [State.enterConflict_eq] at hl
    cases hl
  · rwa [State.enterConflict_eq] at hf

theorem evidence {D : List Owing} {s : State} (src : Addr) (i : Byte) (p : Option Byte)
    (h : Debts ValuesKept D s) : Debts ValuesKept D (s.evidence src i p).2 :=
  (parts D False (fun e => e.elim)).base.hand.evidence (fun _ => enterConflict h)
    (fun _ _ => State.noted_keeps (tables h rfl rfl rfl) fun e hs => staleClaim src e hs) h

/-- One part more is owed. -/
theorem cons {D : List Owing} {s : State} {o : Owing} (h : ValuesKept D s)
    (ho : ∀ f n, o = .handing f n → wellFormed s.channels.records f = true) :
    ValuesKept (o :: D) s := by
  refine ⟨h.1, fun f n hf => ?_⟩
  rcases List.mem_cons.1 hf with e | hf
  · exact ho f n e.symm
  · exact h.2 f n hf

theorem keeper : Keeper ValuesKept where
  perm := fun hp h => ⟨h.1, fun f n hf => h.2 f n (hp.mem_iff.2 hf)⟩
  own := fun _ _ _ h => h
  pending := fun _ h => h
  time := fun _ h => h
  instant := fun _ h => h
  less := fun _ h => ⟨h.1, fun f n hf => h.2 f n (List.mem_cons_of_mem _ hf)⟩
  parts := fun D => (parts D _ id).parts
  frame := fun D f n =>
    { judged := fun {s t m} _ _ ht hc _ h => setChan h (by rw [hc]; rfl) fun _ => by
        have admitted := admits_of_wellFormed (h.2 f n (List.mem_cons_self ..)) ht
        exact Record.inRange_admits (show (s.chan t.chan).kind? = some m.kind by rw [hc]; rfl) admitted
      collected := fun hc hs h => collect hc hs h }
  finish := fun o _ h => (acts _).finish _ o h
  conclude := fun e o h => (acts _).conclude e o
    ⟨h.1, fun f n hf => h.2 f n (List.mem_cons_of_mem _ hf)⟩
  heard := fun _ _ _ _ hw h => evidence _ _ _ (cons h fun _ _ e => by cases e; exact hw)
  noticed := fun _ _ _ _ h => evidence _ _ _ (cons h fun _ _ e => nomatch e)

end ValuesKept

/-- Settles O55: the values are kept with the kinds of the records, the HOME states with the station
state. -/
theorem recordsStaySound : Obligations.RecordsStaySound := by
  unfold Obligations.RecordsStaySound
  intro s t ht
  exact ⟨fun h => (ValuesKept.keeper.step ⟨h, fun _ _ hf => nomatch hf⟩ ht).1,
    fun h => homesKeeper.step h ht⟩

end Sys2Proof.Machine
end

section
/-! PROOFS. FRESH mirrors stand only under PRESENT owners (R55), and recorded periods are absent or 5 to 40
(R42). A frame still to be handed on keeps its sender PRESENT under its incarnation: nothing in its
instant can end that, since its evidence has set a silence deadline that lies ahead (R43). -/

namespace Sys2Proof.Machine

/-! ### Recorded periods -/

theorem periodsActs : ActsKeep PeriodsSound := ActsKeep.of_acts fun acts h a => by
  rw [State.peer_congr acts.peers]
  exact h a

/-- A peer record with a period that is absent or allowed may be written. -/
theorem PeriodsSound.setPeer {s : State} (h : PeriodsSound s) (a : Addr) {r : PeerRec}
    (hr : ∀ p ∈ r.period, 5 ≤ p.toNat ∧ p.toNat ≤ 40) : PeriodsSound (s.setPeer a r) := by
  intro b
  by_cases e : b = a
  · rw [e, State.peer_setPeer_self]
    exact hr
  · rw [State.peer_setPeer_ne s r e]
    exact h b

theorem periodsTables (alone : Prop) : TablesKeep PeriodsSound alone where
  toActsKeep := periodsActs
  tables := fun h _ hp _ _ _ a => by
    rw [State.peer_congr hp]
    exact h a
  cursor := fun _ h => h
  fetchOut := fun a _ h => h.setPeer a (h a)
  announceAt := fun _ h => h
  recalls := fun _ _ h => h
  silent := fun a _ _ h => h.setPeer a (h a)
  imageRead := fun {s} answer _ _ hs h => by
    rcases s.imageRead_cases answer hs with ⟨_, _, e⟩ | ⟨_, _, e⟩ | ⟨_, _, _, _, e⟩ <;> rw [e]
    · exact h
    · exact h
    · rw [State.loadSucceeds_eq]
      exact h
  lineRestart := fun {s} _ _ _ _ a => by
    rw [State.peer_lineRestart]
    exact fun _ hp => nomatch hp
  fresh := fun _ s _ _ _ _ _ a => by
    show ∀ p ∈ (s.resetBlocks.peer a).period, _
    rw [s.peer_resetBlocks a]
    exact fun _ hp => nomatch hp
  joining := fun _ _ h => h
  joined := fun {s} _ h col _ => by
    obtain ⟨v, ld, e⟩ := State.joinChans_eq col (nextIncarnation col.latest) s.homeChans
      (s.becomesActive (nextIncarnation col.latest))
    rw [e]
    exact h

theorem periods_evidence {s : State} (src : Addr) (i : Byte) {p : Option Byte}
    (hp : ∀ b ∈ p, 5 ≤ b.toNat ∧ b.toNat ≤ 40) (h : PeriodsSound s) :
    PeriodsSound (s.evidence src i p).2 := by
  refine (periodsTables True).base.hand.evidence (fun _ a => ?_) (fun _ _ => ?_) h
  · rw [State.peer_enterConflict]
    exact h a
  · refine State.noted_keeps (h.setPeer src ?_) fun e hs => hs
    cases p with
    | none => exact h src
    | some b => exact hp

/-- An ANNOUNCE that is taken carries a period of 5 to 40 (R15). -/
theorem period?_of_wellFormed {r : Vector Record 64} {f : Frame} (h : wellFormed r f = true) :
    ∀ p ∈ f.period?, 5 ≤ p.toNat ∧ p.toNat ≤ 40 := by
  intro p hp
  unfold Frame.period? at hp
  split at hp
  next hk =>
    obtain rfl := Option.some.inj hp
    unfold wellFormed at h
    simp only [Bool.and_eq_true, Bool.or_eq_true, bne_iff_ne, decide_eq_true_eq] at h
    obtain ⟨⟨-, period⟩, -⟩ := h
    exact period.resolve_left (not_not.2 hk)
  next => cases hp

theorem periodsKeeper : Keeper fun _ s => PeriodsSound s :=
  Keeper.plain periodsActs (fun alone => (periodsTables alone).parts) (fun _ _ _ h => h)
    (fun _ h => h) (fun _ h => h)
    (fun _ =>
      { judged := fun _ _ _ _ _ h => h
        collected := fun _ _ h => h })
    (fun _ hw h => periods_evidence _ _ (period?_of_wellFormed hw) h)
    (fun _ h => periods_evidence _ _ (fun _ hb => nomatch hb) h)

/-! ### FRESH mirrors -/

/-- A frame still to be handed on whose triples are judged: its sender is PRESENT under its incarnation,
with a silence deadline ahead. -/
def Frame.Backed (f : Frame) (s : State) : Prop :=
  s.start.state.hearsPeers = true → kindJudged f.kind.toNat = true →
    f.incarnation ≠ 0 ∧ (s.peer f.source).presence = .present
      ∧ (s.peer f.source).incarnation = f.incarnation
      ∧ ∃ t, (s.peer f.source).silentAt = some t ∧ s.now < t

/-- FRESH mirrors are backed, periods sound, and frames still to be handed on backed. -/
def FreshKept (D : List Owing) (s : State) : Prop :=
  PeriodsSound s ∧ FreshIsPresent s ∧ ∀ f n, .handing f n ∈ D → f.Backed s

namespace FreshKept

/-- The peers of a state keep the presence, the incarnation, the period and the deadline. -/
def SamePeers (s t : State) : Prop :=
  ∀ a, (t.peer a).presence = (s.peer a).presence ∧ (t.peer a).incarnation = (s.peer a).incarnation
    ∧ (t.peer a).period = (s.peer a).period ∧ (t.peer a).silentAt = (s.peer a).silentAt

/-- A mirror that stands under the same peers, or is not FRESH, is backed. -/
theorem backed_of_peers {s t : State} (hp : SamePeers s t) {r : Record} (h : r.backed s) :
    r.backed t := by
  cases r with
  | mirror m =>
    intro hf
    obtain ⟨h1, h2, h3⟩ := h hf
    obtain ⟨p1, p2, -, -⟩ := hp m.owner
    exact ⟨p1.trans h1, p2.trans h2, h3⟩
  | home => trivial
  | unused => trivial

/-- What keeps the peers, and no mirror unbacked, keeps the invariant. -/
theorem of_peers {D D' : List Owing} {s t : State} (h : FreshKept D s) (hp : SamePeers s t)
    (hr : ∀ c, (s.chan c).backed s → (t.chan c).backed s)
    (hs : t.start.state.hearsPeers = true → s.start.state.hearsPeers = true) (hn : t.now = s.now)
    (hD : ∀ f n, .handing f n ∈ D' → .handing f n ∈ D) : FreshKept D' t := by
  obtain ⟨periods, fresh, frames⟩ := h
  refine ⟨fun a => ?_, fun c => backed_of_peers hp (hr c (fresh c)), fun f n hf hears hk => ?_⟩
  · rw [(hp a).2.2.1]
    exact periods a
  · obtain ⟨h1, h2, h3, t', h4, h5⟩ := frames f n (hD f n hf) (hs hears) hk
    obtain ⟨p1, p2, -, p4⟩ := hp f.source
    exact ⟨h1, p1.trans h2, p2.trans h3, t', p4.trans h4, hn ▸ h5⟩

theorem samePeers_of_eq {s t : State} (h : t.peers = s.peers) : SamePeers s t := fun a => by
  rw [State.peer_congr h]
  exact ⟨rfl, rfl, rfl, rfl⟩

theorem tables {D : List Owing} {s t : State} (h : Debts FreshKept D s) (hn : t.now = s.now)
    (hp : t.peers = s.peers) (hc : t.channels = s.channels) (hs : t.start = s.start)
    (ho : t.owed = s.owed) : Debts FreshKept D t :=
  of_peers h (samePeers_of_eq hp) (fun c hb => by rwa [State.chan_congr hc])
    (fun hh => by rwa [hs] at hh) hn (fun f n hf => by rwa [ho] at hf)

/-- A record of a HOME channel replaced. -/
theorem setHome {D : List Owing} {s : State} (h : Debts FreshKept D s) (c : Chan) (r : HomeRec) :
    Debts FreshKept D (s.setChan c (.home r)) := by
  refine of_peers h (samePeers_of_eq rfl) (fun d hb => ?_) (fun hh => hh) rfl (fun _ _ hf => hf)
  by_cases e : d = c
  · rw [e, State.chan_setChan_self]
    trivial
  · rwa [State.chan_setChan_ne s _ e]

theorem owe {D : List Owing} {s : State} (o : Owing) (ho : o.ofFrame = false)
    (h : Debts FreshKept D s) : Debts FreshKept D (s.owe o) := by
  refine of_peers h (samePeers_of_eq rfl) (fun _ hb => hb) (fun hh => hh) rfl fun f n hf => ?_
  rw [State.owe, ← List.append_assoc, List.mem_append, List.mem_singleton] at hf
  rcases hf with hf | rfl
  · exact hf
  · cases ho

theorem acts (D : List Owing) : ActsKeep (Debts FreshKept D) :=
  ActsKeep.of_tables tables (fun o _ ho h => owe o ho h) (fun _ _ _ h => setHome h _ _)
    (fun _ _ h => setHome h _ _)

theorem backed_of_ne {s t : State} {r : Record} (a : Addr) (hp : ∀ b, b ≠ a → t.peer b = s.peer b)
    (hr : ∀ m, r = .mirror m → m.owner = a → m.state ≠ .fresh) (h : r.backed s) : r.backed t := by
  cases r with
  | mirror m =>
    intro hf
    by_cases e : m.owner = a
    · exact absurd hf (hr m rfl e)
    · rw [hp m.owner e]
      exact h hf
  | home => trivial
  | unused => trivial

/-- A STALE claim leaves no FRESH mirror of the owner, but for those held under the incarnation given. -/
theorem staleClaim_fresh {a : Addr} {e : Option Byte} {r : Record} {m : MirrorRec}
    (h : r.staleClaim a e = .mirror m) (hf : m.state = .fresh) :
    r = .mirror m ∧ (m.owner = a → e = some m.heldIncarnation) := by
  unfold Record.staleClaim at h
  split at h
  next m' =>
    split at h
    next =>
      obtain rfl := Record.mirror.inj h
      cases hf
    next hn =>
      obtain rfl := Record.mirror.inj h
      exact ⟨rfl, fun ho => by_contra fun he => hn ⟨ho, hf, he⟩⟩
  next hn => exact absurd h (hn m)

/-- The silence of a peer takes its FRESH mirrors (R44). -/
theorem silent {D : List Owing} {s : State} (a : Addr) (hh : s.start.state.hearsPeers = true)
    (due : due s.now (s.peer a).silentAt = true) (h : Debts FreshKept D s) :
    Debts FreshKept D
      ((s.setPeer a { s.peer a with presence := .silent, silentAt := none }).staleClaim a none) := by
  obtain ⟨periods, fresh, frames⟩ := h
  refine ⟨periods.setPeer a (periods a), fun c => ?_, fun f n hf hears hk => ?_⟩
  · rw [State.chan_staleClaim]
    show ((s.chan c).staleClaim a none).backed _
    cases hr : (s.chan c).staleClaim a none with
    | home => trivial
    | unused => trivial
    | mirror m =>
      intro hf
      obtain ⟨same, owner⟩ := staleClaim_fresh hr hf
      have other : m.owner ≠ a := fun e => nomatch owner e
      have backed := fresh c
      rw [same] at backed
      show ((s.setPeer a _).peer m.owner).presence = _ ∧ ((s.setPeer a _).peer m.owner).incarnation = _ ∧ _
      rw [State.peer_setPeer_ne s _ other]
      exact backed hf
  · obtain ⟨h1, h2, h3, t, h4, h5⟩ := frames f n hf hh hk
    have other : f.source ≠ a := by
      rintro rfl
      rw [h4] at due
      have passed : t ≤ s.now := of_decide_eq_true due
      exact absurd h5 (Nat.not_lt.2 passed)
    show _ ∧ ((s.setPeer a _).peer f.source).presence = _
      ∧ ((s.setPeer a _).peer f.source).incarnation = _
      ∧ ∃ t, ((s.setPeer a _).peer f.source).silentAt = _ ∧ _
    rw [State.peer_setPeer_ne s _ other]
    exact ⟨h1, h2, h3, t, h4, h5⟩

theorem parts (D : List Owing) (alone : Prop) (hD : alone → D = []) :
    TablesKeep (Debts FreshKept D) alone where
  toActsKeep := acts D
  tables := tables
  cursor := fun _ h => of_peers h (samePeers_of_eq rfl) (fun _ hb => hb) (fun hh => hh) rfl
    (fun _ _ hf => hf)
  fetchOut := fun {s} a b h => by
    refine of_peers h (fun c => ?_) (fun _ hb => hb) (fun hh => hh) rfl (fun _ _ hf => hf)
    by_cases e : c = a
    · rw [e, State.peer_setPeer_self]
      exact ⟨rfl, rfl, rfl, rfl⟩
    · rw [State.peer_setPeer_ne s _ e]
      exact ⟨rfl, rfl, rfl, rfl⟩
  announceAt := fun _ h => of_peers h (fun _ => ⟨rfl, rfl, rfl, rfl⟩) (fun _ hb => hb)
    (fun hh => hh) rfl (fun _ _ hf => hf)
  recalls := fun _ _ h => of_peers h (samePeers_of_eq rfl) (fun _ hb => hb) (fun hh => hh) rfl
    (fun _ _ hf => hf)
  silent := silent
  imageRead := fun {s} answer ha ho hs h => by
    obtain rfl := hD ha
    rcases s.imageRead_cases answer hs with ⟨_, _, e⟩ | ⟨_, _, e⟩ | ⟨_, _, m, hm, e⟩ <;> rw [e]
    · exact of_peers h (samePeers_of_eq rfl) (fun _ hb => hb) (fun hh => nomatch hh) rfl
        (fun _ _ hf => hf)
    · exact of_peers h (samePeers_of_eq rfl) (fun _ hb => hb) (fun hh => hh) rfl (fun _ _ hf => hf)
    · refine ⟨?_, fun c => ?_, ?_⟩
      · rw [State.loadSucceeds_eq]
        exact h.1
      · rw [State.chan_loadSucceeds]
        cases m.records[c] <;> simp [Record.startValues, Record.backed]
      · rw [State.loadSucceeds_eq]
        show ∀ f n, .handing f n ∈ s.owed → _
        rw [ho]
        exact fun _ _ hf => nomatch hf
  lineRestart := fun {s} ha ho _ h => by
    obtain rfl := hD ha
    refine ⟨fun a => ?_, fun c => ?_, ?_⟩
    · rw [State.peer_lineRestart]
      exact fun _ hp => nomatch hp
    · rw [State.chan_lineRestart]
      cases s.chan c <;> simp [Record.startValues, Record.backed]
    · rw [State.lineRestart_eq]
      show ∀ f n, .handing f n ∈ s.owed → _
      rw [ho]
      exact fun _ _ hf => nomatch hf
  fresh := fun ha s c t hc hs h => by
    obtain rfl := hD ha
    refine ⟨(periodsTables True).fresh trivial s c t hc hs h.1, fun d => ?_, fun _ _ hf => nomatch hf⟩
    show (s.resetBlocks.chan d).backed _
    rw [s.chan_resetBlocks d]
    trivial
  joining := fun _ hs h => of_peers h (samePeers_of_eq rfl) (fun _ hb => hb)
    (fun _ => by rw [hs]; rfl) rfl (fun _ _ hf => hf)
  joined := fun {s} hs h col _ => by
    obtain ⟨v, ld, e⟩ := State.joinChans_eq col (nextIncarnation col.latest) s.homeChans
      (s.becomesActive (nextIncarnation col.latest))
    refine of_peers h (fun a => ?_) (fun c hb => ?_) (fun _ => by rw [hs]; rfl) ?_ fun f n hf => ?_
    · rw [e]
      exact ⟨rfl, rfl, rfl, rfl⟩
    · rw [State.chan_joinHomes _ _ s (s.becomesActive _) rfl]
      cases hc : s.chan c with
      | home => trivial
      | unused => trivial
      | mirror => rwa [hc] at hb
    · rw [e]
      rfl
    · rwa [e] at hf

/-- Evidence of a peer leaves its FRESH mirrors backed: those that its claims do not take are held under
the incarnation that it shows (R40, R41, R62). -/
theorem noted {s : State} {src : Addr} {i : Byte} {p : Option Byte} (h : FreshIsPresent s) :
    FreshIsPresent (s.noted src i p) := by
  have others : ∀ b, b ≠ src → (s.noted src i p).peer b = s.peer b := by
    intro b hb
    have set := State.peer_setPeer_ne s ((s.peer src).heard i p s.now) hb
    unfold State.noted
    dsimp only
    split
    · exact set
    · split <;> exact set
  have self : (s.noted src i p).peer src = (s.peer src).heard i p s.now := by
    have set := State.peer_setPeer_self s src ((s.peer src).heard i p s.now)
    unfold State.noted
    dsimp only
    split
    · exact set
    · split <;> exact set
  have mirror : ∀ c m, (s.noted src i p).chan c = .mirror m → m.state = .fresh →
      s.chan c = .mirror m ∧ (m.owner = src → i ≠ 0 ∧ i = m.heldIncarnation) := by
    intro c m hm hf
    have backed := h c
    unfold State.noted at hm
    dsimp only at hm
    split at hm
    next =>
      rw [State.chan_staleClaim] at hm
      obtain ⟨same, owner⟩ := staleClaim_fresh hm hf
      exact ⟨same, fun e => nomatch owner e⟩
    next hi =>
      split at hm
      next =>
        rw [State.chan_staleClaim] at hm
        obtain ⟨same, owner⟩ := staleClaim_fresh hm hf
        exact ⟨same, fun e => ⟨hi, Option.some.inj (owner e)⟩⟩
      next hj =>
        have same : s.chan c = .mirror m := hm
        rw [same] at backed
        refine ⟨same, fun e => ⟨hi, ?_⟩⟩
        obtain ⟨-, held, nonzero⟩ := backed hf
        rw [e] at held
        simp only [PeerRec.rejoins, Bool.and_eq_true, bne_iff_ne, held] at hj
        by_contra hne
        exact hj ⟨⟨hi, nonzero⟩, fun e => hne e.symm⟩
  intro c
  cases hr : (s.noted src i p).chan c with
  | home => trivial
  | unused => trivial
  | mirror m =>
    intro hf
    obtain ⟨same, owner⟩ := mirror c m hr hf
    have backed := h c
    rw [same] at backed
    obtain ⟨b1, b2, b3⟩ := backed hf
    by_cases e : m.owner = src
    · obtain ⟨hi, held⟩ := owner e
      rw [e, self]
      exact ⟨if_neg hi, (if_neg hi).trans held, b3⟩
    · rw [others _ e]
      exact ⟨b1, b2, b3⟩

/-- What a note of evidence leaves of the peer: PRESENT under its incarnation, with a deadline ahead. -/
theorem noted_peer (s : State) (src : Addr) (i : Byte) (p : Option Byte) :
    (s.noted src i p).peer src = (s.peer src).heard i p s.now
      ∧ (s.noted src i p).now = s.now ∧ (s.noted src i p).start = s.start
      ∧ (s.noted src i p).owed = s.owed := by
  have set := State.peer_setPeer_self s src ((s.peer src).heard i p s.now)
  unfold State.noted
  dsimp only
  split
  · exact ⟨set, rfl, rfl, rfl⟩
  · split <;> exact ⟨set, rfl, rfl, rfl⟩

/-- The silence time of a sound period is not 0 (R43). -/
theorem silenceTime_pos {p : Option Byte} (h : ∀ b ∈ p, 5 ≤ b.toNat ∧ b.toNat ≤ 40) :
    0 < silenceTime p := by
  cases p with
  | none => decide
  | some b =>
    obtain ⟨h5, -⟩ := h b rfl
    exact Nat.mul_pos (Nat.mul_pos (by decide) (by omega)) (by decide)

/-- The evidence of a taken frame backs it (R39 to R43). -/
theorem heard {D : List Owing} {s : State} {o : Owing} {src : Addr} {i : Byte} {p : Option Byte}
    (hD : ∀ o ∈ D, o.ofFrame = false) (ho : s.owed = [])
    (hp : ∀ b ∈ p, 5 ≤ b.toNat ∧ b.toNat ≤ 40)
    (hf : ∀ f n, o = .handing f n →
      f.source = src ∧ f.incarnation = i ∧ (kindJudged f.kind.toNat = true → i ≠ 0))
    (h : Debts FreshKept D s) : Debts FreshKept (o :: D) (s.evidence src i p).2 := by
  obtain ⟨periods, fresh, -⟩ := h
  have frames {f : Frame} {n : Bool} (hm : .handing f n ∈ o :: D ++ s.owed) : o = .handing f n := by
    rw [ho, List.append_nil] at hm
    rcases List.mem_cons.1 hm with e | hm
    · exact e.symm
    · exact nomatch hD _ hm
  have periods' := periods_evidence (s := s) src i hp periods
  have noted' : Debts FreshKept (o :: D) (s.noted src i p) := by
    obtain ⟨self, now, start, owed⟩ := noted_peer s src i p
    refine ⟨State.noted_keeps (periods.setPeer src ?_) fun e hs => hs, noted fresh,
      fun f n hm _ hk => ?_⟩
    · cases p with
      | none => exact periods src
      | some b => exact hp
    · rw [owed] at hm
      obtain ⟨rfl, rfl, hi⟩ := hf f n (frames hm)
      rw [self, now]
      have sound : ∀ b ∈ p.orElse fun _ => (s.peer f.source).period, 5 ≤ b.toNat ∧ b.toNat ≤ 40 := by
        cases p with
        | none => exact periods f.source
        | some b => exact hp
      have ahead := silenceTime_pos sound
      exact ⟨hi hk, if_neg (hi hk), if_neg (hi hk), _, rfl, Nat.lt_add_of_pos_right ahead⟩
  rcases s.evidence_cases src i p with ⟨e, deaf⟩ | ⟨hears, ⟨e, _⟩ | ⟨other, e | e⟩⟩ <;> rw [e]
  · exact ⟨periods, fresh, fun f n _ hh => absurd (deaf ▸ hh) (by simp)⟩
  · refine ⟨e ▸ periods', fun c => ?_, fun f n _ hh => ?_⟩
    · have backed := fresh c
      rw [State.chan_enterConflict]
      cases hc : s.chan c with
      | home => trivial
      | unused => trivial
      | mirror m =>
        intro hf
        rw [State.peer_enterConflict]
        rw [hc] at backed
        exact backed hf
    · rw [State.enterConflict_eq] at hh
      cases hh
  · exact noted'
  · exact ((parts (o :: D) False (fun e => e.elim)).base.hand.cancelRequests src noted')

/-- The triples of a well-formed frame that are judged come under a nonzero incarnation (R15). -/
theorem incarnation_of_wellFormed {r : Vector Record 64} {f : Frame} (h : wellFormed r f = true)
    (hk : kindJudged f.kind.toNat = true) : f.incarnation ≠ 0 := by
  unfold wellFormed at h
  simp only [Bool.and_eq_true, Bool.or_eq_true, Bool.not_eq_true', bne_iff_ne] at h
  obtain ⟨⟨⟨⟨-, nonzero⟩, -⟩, -⟩, -⟩ := h
  refine nonzero.resolve_left fun hn => ?_
  simp only [Bool.or_eq_false_iff, beq_eq_false_iff_ne] at hn
  unfold kindJudged at hk
  split at hk
  next e => exact hn.1.1 (BitVec.eq_of_toNat_eq e)
  next e => exact hn.1.2 (BitVec.eq_of_toNat_eq e)
  next e => exact hn.2 (BitVec.eq_of_toNat_eq e)
  next => cases hk

/-- A judged triple makes a mirror FRESH under its sender (R60). -/
theorem judged {D : List Owing} {s : State} {f : Frame} {n : Bool} {t : Triple} {m : MirrorRec}
    (hears : s.start.state.hearsPeers = true) (hk : kindJudged f.kind.toNat = true)
    (ho : m.owner = f.source) (h : Debts FreshKept (.handing f n :: D) s) :
    Debts FreshKept (.handing f n :: D) (s.setChan t.chan (.mirror (m.take t f.incarnation))) := by
  obtain ⟨h1, h2, h3, -⟩ := h.2.2 f n (List.mem_cons_self ..) hears hk
  refine of_peers h (samePeers_of_eq rfl) (fun c hb => ?_) (fun hh => hh) rfl (fun _ _ hf => hf)
  by_cases e : c = t.chan
  · rw [e, State.chan_setChan_self]
    exact fun _ => ⟨ho ▸ h2, ho ▸ h3, h1⟩
  · rwa [State.chan_setChan_ne s _ e]

theorem keeper : Keeper FreshKept where
  perm := fun hp h => ⟨h.1, h.2.1, fun f n hf => h.2.2 f n (hp.mem_iff.2 hf)⟩
  own := fun _ _ _ h => h
  pending := fun _ h => h
  time := fun _ h => ⟨h.1, h.2.1, fun _ _ hf => nomatch hf⟩
  instant := fun {D s dt} h0 h => by
    refine ⟨h.1, h.2.1, fun f n hf hears hk => ?_⟩
    obtain ⟨h1, h2, h3, t, h4, h5⟩ := h.2.2 f n hf hears hk
    exact ⟨h1, h2, h3, t, h4, by rw [State.advance_now, h0]; exact h5⟩
  less := fun _ h => ⟨h.1, h.2.1, fun f n hf => h.2.2 f n (List.mem_cons_of_mem _ hf)⟩
  parts := fun D => (parts D _ id).parts
  frame := fun D f n =>
    { judged := fun hears hk _ _ ho h => judged hears hk ho h
      collected := fun _ _ h => of_peers h (samePeers_of_eq rfl) (fun _ hb => hb) (fun hh => hh) rfl
        (fun _ _ hf => hf) }
  finish := fun o _ h => (acts _).finish _ o h
  conclude := fun e o h => (acts _).conclude e o
    ⟨h.1, h.2.1, fun f n hf => h.2.2 f n (List.mem_cons_of_mem _ hf)⟩
  heard := fun n hD ho _ hw h => heard hD ho (period?_of_wellFormed hw)
    (fun _ _ e => by cases e; exact ⟨rfl, rfl, incarnation_of_wellFormed hw⟩) h
  noticed := fun n hD ho _ h => heard hD ho (fun _ hb => nomatch hb) (fun _ _ e => nomatch e) h

end FreshKept

/-- Settles O56: a frame still to be handed on keeps its sender PRESENT, by the deadline its evidence
sets. -/
theorem freshStaysPresent : Obligations.FreshStaysPresent := by
  unfold Obligations.FreshStaysPresent
  intro s t periods ht
  exact ⟨periodsKeeper.step periods ht,
    fun h => (FreshKept.keeper.step ⟨periods, h, fun _ _ hf => nomatch hf⟩ ht).2.1⟩

end Sys2Proof.Machine
end

section
/-! PROOFS. The emitter with the blanking of the receiver (R140, R142), the pressed-key list with the LISTED
keys (R121, R122), and the load outputs (R162, R164): each block stays sound on its own. -/

namespace Sys2Proof.Machine

/-! ### The emitter and the blanking of the receiver -/

/-- The invariant looks at the emitter and the receiver alone. -/
theorem EmitterSound.of_eq {s t : State} (h : EmitterSound s) (he : t.emitter = s.emitter)
    (hi : t.ir = s.ir) : EmitterSound t := by
  unfold EmitterSound
  rw [he, hi]
  exact h

theorem Release.suspend_runs (now : Time) (r : Release) : (r.suspend now).runs = false := by
  cases r <;> rfl

theorem Release.resume_runs (now : Time) (r : Release) : (r.resume now).runs = true := by
  cases r <;> rfl

/-- An emission begins: the receiver is blanked, and no release deadline runs (R142). -/
theorem EmitterSound.beginEmission {s : State} (e : Emission) (hq : s.emitter.queue.length ≤ 4)
    (held : ∀ h ∈ s.ir.held, h.release.runs = decide (s.ir.blanking = .off)) :
    EmitterSound (s.beginEmission e) := by
  have blanked : (s.ir.blank s.now).blanking = .on
      ∧ ∀ h ∈ (s.ir.blank s.now).held, h.release.runs = false := by
    unfold IrReceiver.blank
    split
    next =>
      refine ⟨rfl, fun h hh => ?_⟩
      obtain ⟨c, -, rfl⟩ := Option.map_eq_some_iff.1 hh
      exact Release.suspend_runs _ _
    next e =>
      rw [e] at held
      exact ⟨e, held⟩
    next e =>
      rw [e] at held
      exact ⟨rfl, held⟩
  obtain ⟨on, none⟩ := blanked
  refine ⟨hq, (nomatch ·), ⟨fun _ => on, fun _ => rfl⟩, fun h hh => ?_⟩
  rw [none h hh]
  show false = decide ((s.ir.blank s.now).blanking = .off)
  rw [on]
  rfl

theorem EmitterSound.offerEmission {s : State} (h : EmitterSound s) (e : Emission) :
    EmitterSound (s.offerEmission e).2 := by
  obtain ⟨size, none, blank, held⟩ := h
  unfold State.offerEmission
  split
  · exact ⟨size, none, blank, held⟩
  · split
    · exact EmitterSound.beginEmission e size held
    next c hc =>
      split
      next room =>
        refine ⟨?_, fun e => ?_, blank, held⟩
        · rw [List.length_append]
          exact Nat.succ_le_of_lt room
        · exact absurd (hc.symm.trans e) (by simp)
      next => exact ⟨size, none, blank, held⟩

/-- The emitter is cut, and blanking has an end in sight (R145). -/
theorem EmitterSound.stopped {s : State} (h : EmitterSound s) : EmitterSound s.stopEmitter := by
  obtain ⟨-, -, blank, held⟩ := h
  unfold State.stopEmitter
  cases hc : s.emitter.current with
  | some c =>
    have on := blank.1 (by rw [hc]; rfl)
    rw [on] at held
    exact ⟨Nat.zero_le _, fun _ => rfl, ⟨(nomatch ·), (nomatch ·)⟩, held⟩
  | none =>
    rw [hc] at blank
    exact ⟨Nat.zero_le _, fun _ => rfl, blank, held⟩

theorem emitterActs : ActsKeep EmitterSound where
  draws := fun _ h => h
  rival := fun _ _ h => h
  owe := fun _ _ _ h => h
  bump := fun _ h => h
  flash := fun _ h => h
  setSlot := fun _ _ h => h
  tellOutputs := fun _ _ h => h
  offerEmission := fun e h => h.offerEmission e
  emitterWaiting := fun _ h => h
  waiting := fun _ h => h
  offer := fun {s} c d _ h => by
    obtain ⟨_, q, l, e, _⟩ := s.offer_eq c d
    rw [e]
    exact h
  marked := fun _ _ _ _ h => h
  dropped := fun _ _ _ _ h => h
  settled := fun h => h
  applied := fun _ _ _ h => h
  dirty := fun _ _ h => h
  made := fun _ _ _ _ _ h => h
  removed := fun _ h => h

theorem emitterBase : BaseKeep EmitterSound :=
  emitterActs.base (fun _ _ _ _ _ _ h => h) (fun _ h => h) (fun _ h => h) (fun _ _ h => h)
    (fun _ h => h) (fun _ _ h => h)

theorem emitterParts (alone : Prop) : EffectKeep EmitterSound alone where
  toBaseKeep := emitterBase
  silent := fun _ _ _ h => h
  imageRead := fun {s} answer _ _ hs h => by
    rcases s.imageRead_cases answer hs with ⟨_, _, e⟩ | ⟨_, _, e⟩ | ⟨_, _, _, _, e⟩ <;> rw [e]
    · exact h
    · exact h
    · rw [State.loadSucceeds_eq]
      exact h
  lineRestart := fun {s} _ _ _ h => by
    obtain ⟨size, none, blank, _⟩ := h
    rw [State.lineRestart_eq]
    exact EmitterSound.stopped (s := { s with ir := s.ir.restart })
      ⟨size, none, blank, fun _ hh => nomatch hh⟩
  fresh := fun _ s _ _ _ _ _ => by
    refine ⟨Nat.zero_le _, fun _ => rfl, ⟨(nomatch ·), (nomatch ·)⟩, fun _ hh => nomatch hh⟩
  joining := fun _ _ h => h
  joined := fun {s} _ h col _ => by
    obtain ⟨v, ld, e⟩ := State.joinChans_eq col (nextIncarnation col.latest) s.homeChans
      (s.becomesActive (nextIncarnation col.latest))
    rw [e]
    exact h
  scan := emitterBase.gestures.scan fun _ h => h
  stuck := emitterBase.gestures.stuckExpiry fun _ h => h
  irRead := fun _ _ _ h => h
  irHeld := fun _ hc h => ⟨h.1, h.2.1, h.2.2.1, hc⟩
  emissionFrame := fun {s} h => by
    unfold State.emissionFrame
    split
    next e he =>
      split
      · obtain ⟨size, none, blank, held⟩ := h
        refine ⟨size, (nomatch ·), ⟨fun _ => blank.1 (by rw [he]; rfl), fun _ => rfl⟩, held⟩
      · exact h
    · exact h
  nextEmission := fun {s next rest} _ hq h => by
    obtain ⟨size, none, blank, held⟩ := h
    rw [hq] at size
    exact EmitterSound.beginEmission next (by simpa using Nat.le_of_succ_le size) held
  lastEmission := fun {s} hc hq h => by
    obtain ⟨size, none, blank, held⟩ := h
    rw [blank.1 hc] at held
    exact ⟨size, fun _ => hq, ⟨(nomatch ·), (nomatch ·)⟩, held⟩
  blankingEnd := fun {s} h => by
    obtain ⟨size, none, blank, held⟩ := h
    unfold State.blankingEnd
    split
    next t ht =>
      split
      · refine ⟨size, none, ⟨fun e => ?_, (nomatch ·)⟩, fun c hc => ?_⟩
        · have on := blank.1 e
          rw [ht] at on
          cases on
        · obtain ⟨c, -, rfl⟩ := Option.map_eq_some_iff.1 hc
          exact Release.resume_runs _ _
      · exact ⟨size, none, blank, held⟩
    · exact ⟨size, none, blank, held⟩
  stepOutput := fun _ h => h

theorem emitter_evidence {s : State} (src : Addr) (i : Byte) (p : Option Byte)
    (h : EmitterSound s) : EmitterSound (s.evidence src i p).2 := by
  refine emitterBase.hand.evidence (fun _ => ?_) (fun _ _ => ?_) h
  · rw [State.enterConflict_eq]
    exact h.stopped
  · exact State.noted_keeps h fun e hs => hs

theorem emitterKeeper : Keeper fun _ s => EmitterSound s :=
  Keeper.plain emitterActs emitterParts (fun _ _ _ h => h) (fun _ h => h) (fun _ h => h)
    (fun _ =>
      { judged := fun _ _ _ _ _ h => h
        collected := fun _ _ h => h })
    (fun _ _ h => emitter_evidence _ _ _ h) (fun _ h => emitter_evidence _ _ _ h)

end Sys2Proof.Machine
end

section
/-! PROOFS. The pressed-key list with the LISTED keys (R121, R122), and the load outputs (R162, R164). -/

namespace Sys2Proof.Machine

/-! ### The pressed-key list -/

/-- The invariant looks at the scanner alone. -/
theorem KeysSound.of_eq {s t : State} (h : KeysSound s) (hs : t.scanner = s.scanner) :
    KeysSound t := by
  unfold KeysSound State.keyRec
  rw [hs]
  exact h

/-- The keys hold conditions in which none of them is listed. -/
def NoneListed (s : State) (l : List Key) : Prop := ∀ k ∈ l, (s.keyRec k).state ≠ .listed

theorem NoneListed.of_eq {s t : State} {l : List Key} (h : NoneListed s l)
    (hs : t.scanner = s.scanner) : NoneListed t l := by
  unfold NoneListed State.keyRec
  rw [hs]
  exact h

theorem scannerBase (k : KeyScanner) : BaseKeep fun s => s.scanner = k :=
  (ActsKeep.of_acts fun acts h => acts.scanner.trans h).base (fun _ _ _ _ _ _ h => h)
    (fun _ h => h) (fun _ h => h) (fun _ _ h => h) (fun _ h => h) (fun _ _ h => h)

theorem State.trackDown_scanner (s : State) (src : Source) : (s.trackDown src).scanner = s.scanner :=
  (scannerBase s.scanner).trackDown src rfl

theorem State.trackUp_scanner (s : State) (src : Source) : (s.trackUp src).scanner = s.scanner :=
  (scannerBase s.scanner).trackUp src rfl

/-- A key in a state that the list shows. -/
theorem KeysSound.setKey {s : State} (h : KeysSound s) (k : Key) (st : KeyState) (ps : List Pressed)
    (size : ps.length ≤ 4) (nodup : (ps.map Pressed.key).Nodup)
    (self : st = .listed ↔ k ∈ ps.map Pressed.key)
    (others : ∀ j, j ≠ k → (j ∈ ps.map Pressed.key ↔ j ∈ s.scanner.pressed.map Pressed.key)) :
    KeysSound ((s.setKey k st).setPressed ps) := by
  refine ⟨size, nodup, fun j => ?_⟩
  show ((s.setKey k st).keyRec j).state = .listed ↔ j ∈ ps.map Pressed.key
  by_cases e : j = k
  · rw [e, State.keyRec_setKey_self]
    exact self
  · rw [State.keyRec_setKey_ne s st e, others j e]
    exact h.2.2 j

theorem mem_keys_filter {ps : List Pressed} {k j : Key} :
    j ∈ (ps.filter fun p => p.key != k).map Pressed.key ↔ j ≠ k ∧ j ∈ ps.map Pressed.key := by
  simp only [List.mem_map, List.mem_filter, bne_iff_ne]
  constructor
  · rintro ⟨p, ⟨hp, hk⟩, rfl⟩
    exact ⟨hk, p, hp, rfl⟩
  · rintro ⟨hk, p, hp, rfl⟩
    exact ⟨p, ⟨hp, hk⟩, rfl⟩

/-- A key that leaves the list. -/
theorem KeysSound.leave {s : State} (h : KeysSound s) (k : Key) {st : KeyState} (hs : st ≠ .listed) :
    KeysSound ((s.setKey k st).setPressed (s.scanner.pressed.filter fun p => p.key != k)) := by
  obtain ⟨size, nodup, listed⟩ := h
  refine KeysSound.setKey ⟨size, nodup, listed⟩ k st _
    ((List.length_filter_le _ _).trans size)
    (nodup.sublist (List.filter_sublist.map _)) ?_ fun j hj => ?_
  · rw [mem_keys_filter]
    exact ⟨fun e => absurd e hs, fun e => absurd rfl e.1⟩
  · rw [mem_keys_filter]
    exact ⟨fun e => e.2, fun e => ⟨hj, e⟩⟩

/-- A key that is not on the list in a state that is not LISTED. -/
theorem KeysSound.unlisted {s : State} (h : KeysSound s) {k : Key} {st : KeyState}
    (hs : st ≠ .listed) (hk : (s.keyRec k).state ≠ .listed) : KeysSound (s.setKey k st) :=
  h.setKey k st s.scanner.pressed h.1 h.2.1
    ⟨fun e => absurd e hs, fun e => absurd ((h.2.2 k).2 e) hk⟩ fun _ _ => Iff.rfl

theorem KeysSound.keyRelease {s : State} (h : KeysSound s) (k : Key) : KeysSound (s.keyRelease k) := by
  unfold State.keyRelease
  dsimp only
  split
  · exact KeysSound.of_eq (h.leave k (st := .up) (by simp)) (State.trackUp_scanner _ _)
  next hk => exact h.unlisted (by simp) hk

/-- A release lists no key. -/
theorem NoneListed.keyRelease {s : State} {l : List Key} (h : NoneListed s l) (k : Key) :
    NoneListed (s.keyRelease k) l := by
  have up : NoneListed (s.setKey k .up) l := by
    intro j hj
    by_cases e : j = k
    · rw [e, State.keyRec_setKey_self]
      simp
    · rw [State.keyRec_setKey_ne s _ e]
      exact h j hj
  unfold State.keyRelease
  dsimp only
  split
  · have left : NoneListed
        ((s.setKey k .up).setPressed (s.scanner.pressed.filter fun p => p.key != k)) l := up
    exact left.of_eq (State.trackUp_scanner _ _)
  · exact up

theorem KeysSound.keyPress {s : State} (h : KeysSound s) {k : Key}
    (hk : (s.keyRec k).state ≠ .listed) : KeysSound (s.keyPress k) := by
  unfold State.keyPress
  dsimp only
  split
  next hc =>
    have room : s.scanner.pressed.length < 4 := by
      unfold State.pressCondition at hc
      split at hc
      · cases hc
      · split at hc
        · cases hc
        next hn => exact Nat.lt_of_not_le hn
    have new : k ∉ s.scanner.pressed.map Pressed.key := fun e => hk ((h.2.2 k).2 e)
    refine KeysSound.of_eq
      (h.setKey k _ (s.scanner.pressed ++ [{ key := k, stuckAt := s.now + stuckTime }])
        (by rw [List.length_append]; exact Nat.succ_le_of_lt room) ?_ ?_ fun j hj => ?_)
      (State.trackDown_scanner _ _)
    · rw [List.map_append]
      exact List.nodup_append.2 ⟨h.2.1, by simp, by simpa using new⟩
    · simp [hc]
    · simp [hj]
  next hc => exact h.unlisted hc hk

/-- A press lists no other key. -/
theorem NoneListed.keyPress {s : State} {l : List Key} (h : NoneListed s l) {k : Key} (hk : k ∉ l) :
    NoneListed (s.keyPress k) l := by
  have set (st : KeyState) : NoneListed (s.setKey k st) l := by
    intro j hj
    rw [State.keyRec_setKey_ne s _ (by rintro rfl; exact hk hj)]
    exact h j hj
  unfold State.keyPress
  dsimp only
  split
  · have listed (ps : List Pressed) :
        NoneListed ((s.setKey k (s.pressCondition k)).setPressed ps) l := set _
    exact (listed _).of_eq (State.trackDown_scanner _ _)
  · exact set _

theorem KeysSound.presses (l : List Key) : ∀ {s : State}, l.Nodup → NoneListed s l → KeysSound s →
    KeysSound (l.foldl State.keyPress s) := by
  induction l with
  | nil => exact fun _ _ h => h
  | cons k l ih =>
    intro s hl hn h
    obtain ⟨hk, hl⟩ := List.nodup_cons.1 hl
    have rest : NoneListed s l := fun j hj => hn j (List.mem_cons_of_mem _ hj)
    exact ih hl (rest.keyPress hk) (h.keyPress (hn k (List.mem_cons_self ..)))

theorem KeysSound.scan {s : State} (h : KeysSound s) (down : BitVec 48) : KeysSound (s.scan down) := by
  have counted (k : Key) : (({ s with scanner := s.scanner.count down } : State).keyRec k).state
      = (s.keyRec k).state := by
    simp only [State.keyRec, KeyScanner.count, Fin.getElem_fin, getElem_tabV, KeyRec.counted]
    split <;> rfl
  have pressed : NoneListed { s with scanner := s.scanner.count down } (s.changes down true) := by
    intro k hk
    rw [counted]
    simp only [State.changes, List.mem_filter, KeyRec.completes, KeyRec.disagrees] at hk
    intro e
    simp [e] at hk
    grind
  unfold State.scan
  split
  · have count : KeysSound { s with scanner := s.scanner.count down } :=
      ⟨h.1, h.2.1, fun k => by rw [counted]; exact h.2.2 k⟩
    have released := ActsKeep.foldl
      (P := fun s' => KeysSound s' ∧ NoneListed s' (s.changes down true))
      (fun s k h => ⟨h.1.keyRelease k, h.2.keyRelease k⟩) (s.changes down false) ⟨count, pressed⟩
    exact KeysSound.presses (s.changes down true)
      ((List.nodup_finRange 48).filter _) released.2 released.1
  · exact h

theorem keysActs : ActsKeep KeysSound := ActsKeep.of_acts fun acts h => h.of_eq acts.scanner

theorem keysBase : BaseKeep KeysSound :=
  keysActs.base (fun _ _ _ _ _ _ h => h) (fun _ h => h) (fun _ h => h) (fun _ _ h => h)
    (fun _ h => h) (fun _ _ h => h)

theorem keysParts (alone : Prop) : EffectKeep KeysSound alone where
  toBaseKeep := keysBase
  silent := fun _ _ _ h => h
  imageRead := fun {s} answer _ _ hs h => by
    rcases s.imageRead_cases answer hs with ⟨_, _, e⟩ | ⟨_, _, e⟩ | ⟨_, _, _, _, e⟩ <;> rw [e]
    · exact h
    · exact h
    · rw [State.loadSucceeds_eq]
      exact h
  lineRestart := fun {s} _ _ _ h => by
    rw [State.lineRestart_eq]
    refine ⟨Nat.zero_le _, List.nodup_nil, fun k => ?_⟩
    show ((mapV KeyRec.held s.scanner.keys)[k]).state = .listed ↔ k ∈ []
    rw [Fin.getElem_fin, getElem_mapV]
    unfold KeyRec.held
    split
    next e => simp [e]
    next => simp
  fresh := fun _ s c t _ _ _ => by
    refine ⟨Nat.zero_le _, List.nodup_nil, fun k => ?_⟩
    show ((Vector.replicate 48 { state := .up, count := 0 } : Vector KeyRec 48)[k]).state = _ ↔ k ∈ []
    simp
  joining := fun _ _ h => h
  joined := fun {s} _ h col _ => by
    obtain ⟨v, ld, e⟩ := State.joinChans_eq col (nextIncarnation col.latest) s.homeChans
      (s.becomesActive (nextIncarnation col.latest))
    rw [e]
    exact h
  scan := fun down h => h.scan down
  stuck := fun {s} h => by
    unfold State.stuckExpiry
    split
    next => exact h
    next p _ =>
      have left := h.leave p.key (st := .stuck) (by simp)
      dsimp only
      refine left.of_eq ?_
      unfold State.setPressed
      simp only [State.trackUp_scanner]
      rfl
  irRead := fun _ _ _ h => h
  irHeld := fun _ _ h => h
  emissionFrame := fun {s} h => by
    unfold State.emissionFrame
    split
    · split <;> exact h
    · exact h
  nextEmission := fun _ _ h => h
  lastEmission := fun _ _ h => h
  blankingEnd := fun {s} h => by
    unfold State.blankingEnd
    split
    · split <;> exact h
    · exact h
  stepOutput := fun _ h => h

theorem keys_evidence {s : State} (src : Addr) (i : Byte) (p : Option Byte)
    (h : KeysSound s) : KeysSound (s.evidence src i p).2 := by
  refine keysBase.hand.evidence (fun _ => ?_) (fun _ _ => ?_) h
  · rw [State.enterConflict_eq]
    exact h
  · exact State.noted_keeps h fun e hs => hs

theorem keysKeeper : Keeper fun _ s => KeysSound s :=
  Keeper.plain keysActs keysParts (fun _ _ _ h => h) (fun _ h => h) (fun _ h => h)
    (fun _ =>
      { judged := fun _ _ _ _ _ h => h
        collected := fun _ _ h => h })
    (fun _ _ h => keys_evidence _ _ _ h) (fun _ h => keys_evidence _ _ _ h)

/-! ### The load outputs -/

/-- The invariant looks at the load outputs, and at whether the station is in LOADING. -/
theorem OutputsSound.of_eq {s t : State} (h : OutputsSound s) (ho : t.outputs.loads = s.outputs.loads)
    (hs : t.start.state = .loading → s.start.state = .loading) : OutputsSound t := by
  unfold OutputsSound
  rw [ho]
  exact ⟨h.1, fun e => h.2 (hs e)⟩

/-- Every load output changed alike, its map kept. -/
theorem OutputsSound.mapLoads {s t : State} {f : LoadOutput → LoadOutput} (h : OutputsSound s)
    (ho : t.outputs.loads = mapV f s.outputs.loads) (hm : ∀ o, (f o).map = o.map)
    (hf : ∀ o, o.sound → (f o).sound) (hs : t.start.state = .loading → s.start.state = .loading) :
    OutputsSound t := by
  obtain ⟨sound, unmapped⟩ := h
  unfold OutputsSound
  rw [ho]
  refine ⟨fun i => ?_, fun e i => ?_⟩
  · rw [Fin.getElem_fin, getElem_mapV]
    exact hf _ (sound i)
  · rw [Fin.getElem_fin, getElem_mapV, hm]
    exact unmapped (hs e) i

theorem LoadOutput.sound_retarget {o : LoadOutput} (m : OutputMode) (v : Byte) (now : Time)
    (ho : o.map ≠ none) : (o.retarget m v now).sound := by
  unfold LoadOutput.retarget
  dsimp only
  split
  · exact ⟨fun e => absurd e ho, (nomatch ·)⟩
  · split
    · exact ⟨fun e => absurd e ho, (nomatch ·)⟩
    next hn => exact ⟨fun e => absurd e ho, fun _ e => hn e.symm⟩

theorem LoadOutput.map_retarget (o : LoadOutput) (m : OutputMode) (v : Byte) (now : Time) :
    (o.retarget m v now).map = o.map := by
  unfold LoadOutput.retarget
  dsimp only
  split
  · rfl
  · split <;> rfl

theorem OutputsSound.tellOutputs {s : State} (h : OutputsSound s) (c : Chan) (v : Byte) :
    OutputsSound (s.tellOutputs c v) := by
  refine h.mapLoads rfl (fun o => ?_) (fun o ho => ?_) id
  · split
    · split
      · exact LoadOutput.map_retarget _ _ _ _
      · rfl
    · rfl
  · split
    next m hm =>
      split
      · exact LoadOutput.sound_retarget _ _ _ (by rw [hm]; simp)
      · exact ho
    · exact ho

/-- A fade step reaches the target, or does not pass it (R164). -/
theorem LoadOutput.sound_fade {o : LoadOutput} (r : Byte) (now : Time) (ho : o.map ≠ none) :
    (o.fade r now).sound ∧ (o.fade r now).map = o.map := by
  have short (d : Nat) (hd : d < 256) (hn : d ≠ o.target.toNat) : BitVec.ofNat 8 d ≠ o.target := by
    intro e
    have reached := congrArg BitVec.toNat e
    rw [BitVec.toNat_ofNat, Nat.mod_eq_of_lt hd] at reached
    exact hn reached
  have d := o.duty.isLt
  have t := o.target.isLt
  unfold LoadOutput.fade
  dsimp only
  split
  · split
    · exact ⟨⟨fun e => absurd e ho, (nomatch ·)⟩, rfl⟩
    · exact ⟨⟨fun e => absurd e ho, fun _ => short _ (by omega) (by omega)⟩, rfl⟩
  · split
    · exact ⟨⟨fun e => absurd e ho, (nomatch ·)⟩, rfl⟩
    · exact ⟨⟨fun e => absurd e ho, fun _ => short _ (by omega) (by omega)⟩, rfl⟩

theorem LoadOutput.sound_step {o : LoadOutput} (now : Time) (ho : o.sound) :
    (o.step now).sound ∧ (o.step now).map = o.map := by
  unfold LoadOutput.step
  split
  next hd =>
    refine LoadOutput.sound_fade _ _ fun unused => ?_
    obtain ⟨d, t⟩ := ho.1 unused
    have idle : o.stepAt.isSome = true := by
      cases hs : o.stepAt with
      | none => rw [hs] at hd; cases hd
      | some => rfl
    exact ho.2 idle (d.trans t.symm)
  next => exact ⟨ho, rfl⟩

theorem OutputsSound.stepOutput {s : State} (h : OutputsSound s) (i : OutId) :
    OutputsSound (s.stepOutput i) := by
  obtain ⟨sound, unmapped⟩ := h
  have at' (j : OutId) : (s.stepOutput i).outputs.loads[j]
      = if i = j then (s.outputs.loads[i]).step s.now else s.outputs.loads[j] := by
    simp only [State.stepOutput, Fin.getElem_fin, Vector.getElem_set, Fin.val_inj]
  refine ⟨fun j => ?_, fun e j => ?_⟩
  · rw [at']
    split
    · exact (LoadOutput.sound_step _ (sound i)).1
    · exact sound j
  · rw [at']
    split
    next e' => rw [(LoadOutput.sound_step _ (sound i)).2]; exact unmapped e i
    · exact unmapped e j

theorem outputsActs : ActsKeep OutputsSound where
  draws := fun _ h => h
  rival := fun _ _ h => h
  owe := fun _ _ _ h => h
  bump := fun _ h => h
  flash := fun _ h => h
  setSlot := fun _ _ h => h
  tellOutputs := fun c v h => h.tellOutputs c v
  offerEmission := fun {s} e h => by
    obtain ⟨em, r, eq⟩ := s.offerEmission_eq e
    rw [eq]
    exact h
  emitterWaiting := fun _ h => h
  waiting := fun _ h => h
  offer := fun {s} c d _ h => by
    obtain ⟨_, q, l, e, _⟩ := s.offer_eq c d
    rw [e]
    exact h
  marked := fun _ _ _ _ h => h
  dropped := fun _ _ _ _ h => h
  settled := fun h => h
  applied := fun _ _ _ h => h
  dirty := fun _ _ h => h
  made := fun _ _ _ _ _ h => h
  removed := fun _ h => h

theorem outputsBase : BaseKeep OutputsSound :=
  outputsActs.base (fun _ _ _ _ _ _ h => h) (fun _ h => h) (fun _ h => h) (fun _ _ h => h)
    (fun _ h => h) (fun _ _ h => h)

/-- In LOADING every output is at rest, so the image may map it. -/
theorem OutputsSound.loadSucceeds {s : State} (h : OutputsSound s) (hs : s.start.state = .loading)
    (m : Image) : OutputsSound (s.loadSucceeds m) := by
  rw [State.loadSucceeds_eq]
  refine ⟨fun i => ?_, (nomatch ·)⟩
  obtain ⟨unused, step⟩ := h.1 i
  obtain ⟨d, t⟩ := unused (h.2 hs i)
  show (LoadOutput.sound ((tabV fun i : OutId =>
    { s.outputs.loads[i] with map := m.loads.getD i.val none })[i]))
  rw [Fin.getElem_fin, getElem_tabV]
  exact ⟨fun _ => ⟨d, t⟩, step⟩

theorem outputsParts (alone : Prop) : EffectKeep OutputsSound alone where
  toBaseKeep := outputsBase
  silent := fun _ _ _ h => h
  imageRead := fun {s} answer _ _ hs h => by
    rcases s.imageRead_cases answer hs with ⟨_, _, e⟩ | ⟨_, _, e⟩ | ⟨l, i, m, _, e⟩ <;> rw [e]
    · exact h.of_eq rfl (nomatch ·)
    · exact h
    · exact OutputsSound.loadSucceeds
        (s := { s with start := { s.start with loaded := l, imageId := i } }) h hs m
  lineRestart := fun {s} _ _ _ h => by
    rw [State.lineRestart_eq]
    exact h.of_eq rfl (nomatch ·)
  fresh := fun _ s c t _ _ _ => by
    have reset (i : OutId) : (Vector.replicate 8 LoadOutput.reset)[i] = LoadOutput.reset := by simp
    refine ⟨fun i => ?_, fun _ i => ?_⟩
    · show ((Vector.replicate 8 LoadOutput.reset)[i]).sound
      rw [reset]
      exact ⟨fun _ => ⟨rfl, rfl⟩, (nomatch ·)⟩
    · show ((Vector.replicate 8 LoadOutput.reset)[i]).map = none
      rw [reset]
      rfl
  joining := fun _ _ h => h.of_eq rfl (nomatch ·)
  joined := fun {s} _ h col _ =>
    ActsKeep.foldl
      (fun s ch (h : OutputsSound s) => by
        unfold State.joinChan
        split
        · exact OutputsSound.tellOutputs (s := State.setChan _ _ _) h _ _
        · exact h)
      s.homeChans (s := s.becomesActive _) (h.of_eq rfl (nomatch ·))
  scan := outputsBase.gestures.scan fun _ h => h
  stuck := outputsBase.gestures.stuckExpiry fun _ h => h
  irRead := fun _ _ _ h => h
  irHeld := fun _ _ h => h
  emissionFrame := fun {s} h => by
    unfold State.emissionFrame
    split
    · split <;> exact h
    · exact h
  nextEmission := fun _ _ h => h
  lastEmission := fun _ _ h => h
  blankingEnd := fun {s} h => by
    unfold State.blankingEnd
    split
    · split <;> exact h
    · exact h
  stepOutput := fun i h => h.stepOutput i

theorem outputs_evidence {s : State} (src : Addr) (i : Byte) (p : Option Byte)
    (h : OutputsSound s) : OutputsSound (s.evidence src i p).2 := by
  refine outputsBase.hand.evidence (fun _ => ?_) (fun _ _ => ?_) h
  · rw [State.enterConflict_eq]
    exact h.mapLoads rfl (fun _ => rfl) (fun o ho => ⟨ho.1, (nomatch ·)⟩) (nomatch ·)
  · exact State.noted_keeps h fun e hs => hs

theorem outputs_advance {s : State} (dt : Moment) (h : OutputsSound s) :
    OutputsSound (s.advance dt) := by
  refine h.mapLoads rfl (fun o => ?_) (fun o ho => ?_) id
  · unfold LoadOutput.at
    split <;> rfl
  · unfold LoadOutput.at
    split <;> exact ho

theorem outputsKeeper : Keeper fun _ s => OutputsSound s :=
  Keeper.plain outputsActs outputsParts (fun _ _ _ h => h) (fun _ h => h) outputs_advance
    (fun _ =>
      { judged := fun _ _ _ _ _ h => h
        collected := fun _ _ h => h })
    (fun _ _ h => outputs_evidence _ _ _ h) (fun _ h => outputs_evidence _ _ _ h)

/-- Settles O59: each block is kept sound by every update that reaches it. -/
theorem blocksStaySound : Obligations.BlocksStaySound := by
  unfold Obligations.BlocksStaySound
  intro s t ht
  exact ⟨fun h => silenceKeeper.step h ht, fun h => incarnationKeeper.step h ht,
    fun h => emitterKeeper.step h ht, fun h => keysKeeper.step h ht,
    fun h => outputsKeeper.step h ht⟩

end Sys2Proof.Machine
end

section
/-! PROOFS. What the runs and their requests look at: the Request Table, the slots with the Macro table, the
waiting order of the emitter, and the parts owed. What of an action leaves all this, what an issue does to
it, and how many steps a run may still perform in one event. -/

namespace Sys2Proof.Machine

/-- All that the runs and their requests look at is the same. -/
structure State.SameRuns (s t : State) : Prop where
  requests : t.requests = s.requests
  macros   : t.macros = s.macros
  waiting  : t.emitter.waiting = s.emitter.waiting
  owed     : t.owed = s.owed

namespace State.SameRuns

theorem refl (s : State) : s.SameRuns s := ⟨rfl, rfl, rfl, rfl⟩

theorem trans {s t u : State} (h : s.SameRuns t) (k : t.SameRuns u) : s.SameRuns u :=
  ⟨k.requests.trans h.requests, k.macros.trans h.macros, k.waiting.trans h.waiting,
    k.owed.trans h.owed⟩

theorem foldl {α : Type} {f : State → α → State} (hf : ∀ (s : State) a, s.SameRuns (f s a)) (l : List α) :
    ∀ s : State, s.SameRuns (l.foldl f s) := by
  induction l with
  | nil => exact refl
  | cons a l ih => exact fun s => (hf s a).trans (ih _)

theorem slot {s t : State} (h : s.SameRuns t) (i : SlotId) : t.slot i = s.slot i := by
  simp only [State.slot, h.macros]

end State.SameRuns

theorem State.offer_sameRuns (s : State) (c : Content) (dest : Addr) :
    s.SameRuns (s.offer c dest).2 := by
  obtain ⟨_, q, l, e, _⟩ := s.offer_eq c dest
  rw [e]
  exact ⟨rfl, rfl, rfl, rfl⟩

theorem State.offerEmission_sameRuns (s : State) (e : Emission) :
    s.SameRuns (s.offerEmission e).2 := by
  unfold State.offerEmission
  split
  · exact .refl s
  · split
    · exact ⟨rfl, rfl, rfl, rfl⟩
    · split
      · exact ⟨rfl, rfl, rfl, rfl⟩
      · exact .refl s

theorem State.emitEntry_sameRuns (c : Chan) (v : Byte) (s : State) (e : EmitEntry) :
    s.SameRuns (State.emitEntry c v s e) := by
  unfold State.emitEntry State.bumpIf
  split
  · dsimp only
    split
    · exact (s.offerEmission_sameRuns _).trans ⟨rfl, rfl, rfl, rfl⟩
    · exact s.offerEmission_sameRuns _
  · exact .refl s

theorem State.offerChange_sameRuns (s : State) (c : Chan) (h : HomeRec) (ps : List Pair) :
    s.SameRuns (s.offerChange c h ps) := by
  have modified (u : State) (f : HomeRec → HomeRec) : u.SameRuns (u.modifyHome c f) := by
    unfold State.modifyHome
    split
    · exact ⟨rfl, rfl, rfl, rfl⟩
    · exact .refl _
  have offered := s.offer_sameRuns (.change { chan := c, value := h.value, version := h.version } ps) 0
  unfold State.offerChange
  dsimp only
  split
  · exact offered.trans (modified _ _)
  · exact offered

theorem State.apply_sameRuns (s : State) (c : Chan) (h : HomeRec) (op : Op) (x : Byte) (o : Addr)
    (ps : List Pair) : s.SameRuns (s.apply c h op x o ps) := by
  have set : s.SameRuns ((s.setChan c (.home (h.applied op x o))).tellOutputs c (h.applied op x o).value) :=
    ⟨rfl, rfl, rfl, rfl⟩
  exact (set.trans (State.SameRuns.foldl (State.emitEntry_sameRuns c _) _ _)).trans
    (State.offerChange_sameRuns _ _ _ _)

theorem State.localOp_sameRuns (s : State) (c : Chan) (op : Op) (x : Byte) :
    s.SameRuns (s.localOp c op x).2 := by
  unfold State.localOp
  split
  · split
    · exact s.apply_sameRuns _ _ _ _ _ _
    · exact .refl s
  · exact .refl s

/-- An issue makes an entry in a table with room, or leaves the runs (R82). -/
theorem State.issue_cases (s : State) (c : Chan) (owner : Addr) (op : Op) (x : Byte)
    (o : Originator) :
    (∃ u, s.SameRuns u ∧ s.requests.entries.length < 8
        ∧ s.issue c owner op x o =
          (.made s.requests.freshTag, { u with requests := s.requests.make c op x owner o }))
      ∨ ∃ a, (∀ tag, a ≠ .made tag) ∧ ∃ u, s.SameRuns u ∧ s.issue c owner op x o = (a, u) := by
  have failed (s : State) : s.SameRuns (s.requestFailed c) := ⟨rfl, rfl, rfl, rfl⟩
  unfold State.issue
  split
  · exact .inr ⟨.busy, by simp, _, failed s, rfl⟩
  · split
    · exact .inr ⟨.ownerAbsent, by simp, _, failed s, rfl⟩
    · split
      · exact .inr ⟨.busy, by simp, _, failed s, rfl⟩
      next full =>
        have offered := s.offer_sameRuns
          (.request s.requests.freshTag c op (sentOperand op x)) owner
        dsimp only
        split
        · refine .inl ⟨_, offered, Nat.lt_of_not_le full, ?_⟩
          rw [offered.requests]
        · exact .inr ⟨.busy, by simp, _, offered.trans (failed _), rfl⟩

/-- Nine values in a row from the counter on are more than eight tags can take (R81). -/
theorem RequestTable.freshTag_notMem {r : RequestTable} (h : r.entries.length ≤ 8) :
    r.freshTag ∉ r.entries.map ReqEntry.tag := by
  unfold RequestTable.freshTag
  set candidates := (List.range (requestTableSize + 1)).map fun i => r.tagCounter + BitVec.ofNat 8 i
    with hc
  cases hf : candidates.find? fun t => !r.entries.any fun e => e.tag == t with
  | some t =>
    have free := List.find?_some hf
    simpa using free
  | none =>
    exfalso
    have taken : ∀ t ∈ candidates, t ∈ r.entries.map ReqEntry.tag := by
      intro t ht
      have held := List.find?_eq_none.1 hf t ht
      simpa using held
    have nodup : candidates.Nodup := by
      refine List.Nodup.map_on (fun i hi j hj e => ?_) List.nodup_range
      have hi : i < 9 := List.mem_range.1 hi
      have hj : j < 9 := List.mem_range.1 hj
      have e' : BitVec.ofNat 8 i = BitVec.ofNat 8 j := by simpa using e
      have e'' := congrArg BitVec.toNat e'
      rw [BitVec.toNat_ofNat, BitVec.toNat_ofNat] at e''
      omega
    have count := (nodup.subperm taken).length_le
    rw [hc, List.length_map, List.length_range, List.length_map, requestTableSize] at count
    omega

/-! ### The steps that a run may still perform -/

/-- The steps from step k of a Macro of at most 16 steps on, with those of the macros that it calls and
the end of each, with so many records on the call stack. -/
def callCost (depth step : Nat) : Nat :=
  (match depth with
    | 0 => 290
    | 1 => 18
    | _ => 1) * (16 - step) + 1

/-- The steps of a run, those of its current Macro first and then those of its callers. -/
def stackCost : List (MacroId × Nat) → Nat
  | [] => 0
  | (_, k) :: rest => callCost rest.length k + stackCost rest

/-- The steps that a run may still perform in one event. -/
def RunSlot.cost (r : RunSlot) : Nat := stackCost ((r.current, r.step) :: r.stack)

/-- 5000 steps are more than any run performs in one event (R154, R156). -/
theorem RunSlot.cost_lt_fuel {r : RunSlot} (h : r.stack.length ≤ 2) : r.cost < runFuel := by
  unfold RunSlot.cost runFuel
  match hs : r.stack with
  | [] =>
    simp only [stackCost, callCost, List.length_nil]
    omega
  | [(_, k)] =>
    simp only [stackCost, callCost, List.length_nil, List.length_cons]
    omega
  | [(_, k), (_, l)] =>
    simp only [stackCost, callCost, List.length_nil, List.length_cons]
    omega
  | _ :: _ :: _ :: _ =>
    rw [hs] at h
    simp at h

theorem RunSlot.cost_next {r r' : RunSlot} (h : r.step < 16)
    (hs : r'.step = r.step + 1) (hk : r'.stack = r.stack) : r'.cost < r.cost := by
  have less : callCost r.stack.length (r.step + 1) < callCost r.stack.length r.step := by
    unfold callCost
    split <;> omega
  simp only [RunSlot.cost, stackCost, hs, hk]
  omega

theorem RunSlot.cost_call {r : RunSlot} (m : MacroId) (h : r.step < 16) (hk : r.stack.length < 2) :
    ({ r with stack := (r.current, r.step + 1) :: r.stack, current := m, step := 0 } : RunSlot).cost
      < r.cost := by
  have less : callCost (r.stack.length + 1) 0 + callCost r.stack.length (r.step + 1)
      < callCost r.stack.length r.step := by
    unfold callCost
    interval_cases r.stack.length <;> simp only <;> omega
  simp only [RunSlot.cost, stackCost, List.length_cons]
  omega

theorem RunSlot.cost_return {r : RunSlot} {m : MacroId} {k : Nat} {rest : List (MacroId × Nat)}
    (hk : r.stack = (m, k) :: rest) :
    ({ r with current := m, step := k, stack := rest } : RunSlot).cost < r.cost := by
  have more : 0 < callCost r.stack.length r.step := Nat.succ_pos _
  simp only [RunSlot.cost, stackCost, hk] at more ⊢
  omega

/-- A Macro of at most 16 steps has no step 16. -/
theorem State.step_lt_of_stepOf {s : State} {r : RunSlot} {x : Step} (h : MacrosBounded s)
    (hx : s.stepOf r = some x) : r.step < 16 := by
  unfold State.stepOf at hx
  have inside := (List.getElem?_eq_some_iff.1 hx).1
  have short : (s.macros.table.getD r.current.val []).length ≤ 16 := by
    rw [List.getD_eq_getElem?_getD]
    cases hm : s.macros.table[r.current.val]? with
    | none => simp
    | some m => exact h m (List.mem_of_getElem? hm)
  omega

end Sys2Proof.Machine
end

section
/-! PROOFS. The Request Table, the waiting orders and the run slots kept sound by the steps of a run
(R80, R94, R144, R155), with two claims that may be made besides: the runs are at rest (R156), and a run's
outstanding tags are awaited, each from its own request or from an outcome still owed to it. -/

namespace Sys2Proof.Machine

/-- The entry with this tag that a run issued. -/
def ReqEntry.isOf (i : SlotId) (g tag : Byte) (e : ReqEntry) : Bool :=
  e.tag == tag && e.origin == .run i g

/-- The outcome of such an entry is still owed to the run. -/
def Owing.concludes (i : SlotId) (g tag : Byte) : Owing → Bool
  | .conclusion e _ => e.isOf i g tag
  | _ => false

/-- How often a run awaits the outcome for a tag. -/
def awaited (es : List ReqEntry) (D : List Owing) (i : SlotId) (g tag : Byte) : Nat :=
  es.countP (ReqEntry.isOf i g tag) + D.countP (Owing.concludes i g tag)

/-- A slot whose call stack has at most 2 records; and, where that is claimed, whose outstanding tags are
awaited, none when it is IDLE. -/
structure SlotKept (O : Prop) (es : List ReqEntry) (D : List Owing) (i : SlotId) (r : RunSlot) : Prop where
  stack       : r.stack.length ≤ 2
  idle        : O → r.state = .idle → r.outstanding = []
  outstanding : O → ∀ tag, r.outstanding.count tag ≤ awaited es D i r.generation tag

/-- The table, the orders and the slots are sound. -/
structure RunsBase (O : Prop) (D : List Owing) (s : State) : Prop where
  size         : s.requests.entries.length ≤ 8
  tags         : (s.requests.entries.map ReqEntry.tag).Nodup
  tableOrder   : s.requests.waiting.Nodup
  emitterOrder : s.emitter.waiting.Nodup
  table        : ∀ i ∈ s.requests.waiting, ∃ t, (s.slot i).state = .waitTable t
  emitter      : ∀ i ∈ s.emitter.waiting, ∃ t, (s.slot i).state = .waitEmitter t
  slots        : ∀ i, SlotKept O s.requests.entries D i (s.slot i)

/-- The runs between their steps: where that is claimed, the macros are bounded and no run is in the midst
of its steps. -/
structure RunsKept (M O : Prop) (D : List Owing) (s : State) : Prop extends RunsBase O D s where
  bounded : M → MacrosBounded s
  rest    : M → RunsAtRest s

/-- The runs while one of them performs its steps: it waits in no order, and no other performs. -/
structure Free (M O : Prop) (D : List Owing) (i : SlotId) (s : State) : Prop extends RunsBase O D s where
  bounded   : M → MacrosBounded s
  noTable   : i ∉ s.requests.waiting
  noEmitter : i ∉ s.emitter.waiting
  others    : M → ∀ j, j ≠ i → (s.slot j).state ≠ .performing

/-! ### Slots -/

theorem awaited_append (es : List ReqEntry) (D : List Owing) (i : SlotId) (g tag : Byte)
    (e : ReqEntry) :
    awaited (es ++ [e]) D i g tag = awaited es D i g tag + if e.isOf i g tag then 1 else 0 := by
  simp only [awaited, List.countP_append, List.countP_singleton]
  omega

theorem SlotKept.mono {O : Prop} {es es' : List ReqEntry} {D D' : List Owing} {i : SlotId}
    {r : RunSlot} (h : SlotKept O es D i r)
    (ha : ∀ tag, awaited es D i r.generation tag ≤ awaited es' D' i r.generation tag) :
    SlotKept O es' D' i r :=
  ⟨h.stack, h.idle, fun o tag => (h.outstanding o tag).trans (ha tag)⟩

/-- A slot with the same call stack and outstanding tags, IDLE only if none is outstanding. -/
theorem SlotKept.of_eq {O : Prop} {es : List ReqEntry} {D : List Owing} {i : SlotId} {r r' : RunSlot}
    (h : SlotKept O es D i r) (hs : r'.stack.length ≤ 2) (ho : r'.outstanding = r.outstanding)
    (hg : r'.generation = r.generation) (hi : r'.state = .idle → r.state = .idle) :
    SlotKept O es D i r' :=
  ⟨hs, fun o e => ho.trans (h.idle o (hi e)), fun o tag => by
    rw [ho, hg]
    exact h.outstanding o tag⟩

/-- A slot with nothing on its stack and nothing outstanding. -/
theorem SlotKept.of_nil {O : Prop} {es : List ReqEntry} {D : List Owing} {i : SlotId} {r : RunSlot}
    (hs : r.stack = []) (ho : r.outstanding = []) : SlotKept O es D i r :=
  ⟨by simp [hs], fun _ _ => ho, fun _ _ => by simp [ho]⟩

theorem SlotKept.ended {O : Prop} {es : List ReqEntry} {D : List Owing} {i : SlotId} (r : RunSlot) :
    SlotKept O es D i r.ended := .of_nil rfl rfl

/-! ### The rules for moves that leave the runs, and for a slot, an order and an entry -/

section Rules

variable {M O : Prop} {D : List Owing} {i : SlotId} {s t : State}

theorem RunsBase.sameRuns (h : RunsBase O D s) (e : s.SameRuns t) : RunsBase O D t := by
  obtain ⟨size, tags, tableOrder, emitterOrder, table, emitter, slots⟩ := h
  constructor <;> simp only [e.requests, e.waiting, e.slot] <;> assumption

theorem RunsKept.sameRuns (h : RunsKept M O D s) (e : s.SameRuns t) : RunsKept M O D t where
  toRunsBase := h.toRunsBase.sameRuns e
  bounded m := by
    unfold MacrosBounded
    rw [e.macros]
    exact h.bounded m
  rest m j := by
    rw [e.slot]
    exact h.rest m j

theorem Free.sameRuns (h : Free M O D i s) (e : s.SameRuns t) : Free M O D i t where
  toRunsBase := h.toRunsBase.sameRuns e
  bounded m := by
    unfold MacrosBounded
    rw [e.macros]
    exact h.bounded m
  noTable := by
    rw [e.requests]
    exact h.noTable
  noEmitter := by
    rw [e.waiting]
    exact h.noEmitter
  others m j hj := by
    rw [e.slot]
    exact h.others m j hj

theorem Free.setSlot (h : Free M O D i s) {r : RunSlot} (hr : SlotKept O s.requests.entries D i r) :
    Free M O D i (s.setSlot i r) where
  size := h.size
  tags := h.tags
  tableOrder := h.tableOrder
  emitterOrder := h.emitterOrder
  table j hj := by
    rw [State.slot_setSlot_ne s r (by rintro rfl; exact h.noTable hj)]
    exact h.table j hj
  emitter j hj := by
    rw [State.slot_setSlot_ne s r (by rintro rfl; exact h.noEmitter hj)]
    exact h.emitter j hj
  slots j := by
    by_cases e : j = i
    · rw [e, State.slot_setSlot_self]
      exact hr
    · rw [State.slot_setSlot_ne s r e]
      exact h.slots j
  bounded := h.bounded
  noTable := h.noTable
  noEmitter := h.noEmitter
  others m j hj := by
    rw [State.slot_setSlot_ne s r hj]
    exact h.others m j hj

/-- A run that performs no more. -/
theorem Free.kept (h : Free M O D i s) (hi : M → (s.slot i).state ≠ .performing) :
    RunsKept M O D s where
  toRunsBase := h.toRunsBase
  bounded := h.bounded
  rest m j := by
    by_cases e : j = i
    · rw [e]
      exact hi m
    · exact h.others m j e

/-- A run that waits in no order may perform its steps. -/
theorem RunsKept.free (h : RunsKept M O D s) (ht : ∀ t, (s.slot i).state ≠ .waitTable t)
    (he : ∀ t, (s.slot i).state ≠ .waitEmitter t) : Free M O D i s where
  toRunsBase := h.toRunsBase
  bounded := h.bounded
  noTable hi := by
    obtain ⟨t, e⟩ := h.table i hi
    exact ht t e
  noEmitter hi := by
    obtain ⟨t, e⟩ := h.emitter i hi
    exact he t e
  others m j _ := h.rest m j

/-- A slot that waits in no order is written, and does not perform. -/
theorem Free.stops (h : Free M O D i s) {r : RunSlot} (hr : SlotKept O s.requests.entries D i r)
    (hp : r.state ≠ .performing) : RunsKept M O D (s.setSlot i r) :=
  (h.setSlot hr).kept fun _ => by rwa [State.slot_setSlot_self]

/-- A run comes to wait for the Request Table (R94). -/
theorem Free.joinTable (h : Free M O D i s) {r : RunSlot} (hr : SlotKept O s.requests.entries D i r)
    {t : Time} (hs : r.state = .waitTable t) :
    RunsKept M O D
      { s.setSlot i r with requests := { s.requests with waiting := s.requests.waiting ++ [i] } } := by
  have kept := h.stops hr (by rw [hs]; simp)
  refine ⟨⟨kept.size, kept.tags, ?_, kept.emitterOrder, fun j hj => ?_, kept.emitter, kept.slots⟩,
    kept.bounded, kept.rest⟩
  · exact List.nodup_append.2 ⟨h.tableOrder, by simp, by
      rintro a ha b hb rfl
      exact h.noTable (List.mem_singleton.1 hb ▸ ha)⟩
  · rcases List.mem_append.1 hj with hj | hj
    · exact kept.table j hj
    · obtain rfl := List.mem_singleton.1 hj
      exact ⟨t, by
        show ((s.setSlot j r).slot j).state = _
        rw [State.slot_setSlot_self, hs]⟩

/-- A run comes to wait for the emitter (R144). -/
theorem Free.joinEmitter (h : Free M O D i s) {r : RunSlot} (hr : SlotKept O s.requests.entries D i r)
    {t : Time} (hs : r.state = .waitEmitter t) :
    RunsKept M O D
      { s.setSlot i r with emitter := { s.emitter with waiting := s.emitter.waiting ++ [i] } } := by
  have kept := h.stops hr (by rw [hs]; simp)
  refine ⟨⟨kept.size, kept.tags, kept.tableOrder, ?_, kept.table, fun j hj => ?_, kept.slots⟩,
    kept.bounded, kept.rest⟩
  · exact List.nodup_append.2
      ⟨h.emitterOrder, by simp, by
      rintro a ha b hb rfl
      exact h.noEmitter (List.mem_singleton.1 hb ▸ ha)⟩
  · rcases List.mem_append.1 hj with hj | hj
    · exact kept.emitter j hj
    · obtain rfl := List.mem_singleton.1 hj
      exact ⟨t, by
        show ((s.setSlot j r).slot j).state = _
        rw [State.slot_setSlot_self, hs]⟩

/-- An entry is made in a table with room. -/
theorem RunsBase.make (h : RunsBase O D s) (room : s.requests.entries.length < 8) (c : Chan) (op : Op)
    (x : Byte) (owner : Addr) (o : Originator) :
    RunsBase O D { s with requests := s.requests.make c op x owner o } where
  size := by
    show (_ ++ [_]).length ≤ 8
    rw [List.length_append]
    exact room
  tags := by
    show ((s.requests.entries ++ [_]).map ReqEntry.tag).Nodup
    rw [List.map_append]
    have fresh := RequestTable.freshTag_notMem h.size
    refine List.nodup_append.2 ⟨h.tags, by simp, ?_⟩
    rintro a ha b hb rfl
    obtain rfl := List.mem_singleton.1 hb
    exact fresh ha
  tableOrder := h.tableOrder
  emitterOrder := h.emitterOrder
  table := h.table
  emitter := h.emitter
  slots j := (h.slots j).mono fun tag => by
    show _ ≤ awaited (s.requests.entries ++ [_]) D j _ tag
    rw [awaited_append]
    exact Nat.le_add_right _ _

theorem RunsKept.make (h : RunsKept M O D s) (room : s.requests.entries.length < 8) (c : Chan) (op : Op)
    (x : Byte) (owner : Addr) (o : Originator) :
    RunsKept M O D { s with requests := s.requests.make c op x owner o } :=
  ⟨h.toRunsBase.make room c op x owner o, h.bounded, h.rest⟩

theorem Free.make (h : Free M O D i s) (room : s.requests.entries.length < 8) (c : Chan) (op : Op)
    (x : Byte) (owner : Addr) (o : Originator) :
    Free M O D i { s with requests := s.requests.make c op x owner o } :=
  ⟨h.toRunsBase.make room c op x owner o, h.bounded, h.noTable, h.noEmitter, h.others⟩

/-- A run's own new tag is outstanding, and awaited (R157). -/
theorem SlotKept.issued {r r' : RunSlot} (h : SlotKept O s.requests.entries D i r) (c : Chan) (op : Op)
    (x : Byte) (owner : Addr) (hs : r'.stack = r.stack)
    (ho : r'.outstanding = r.outstanding ++ [s.requests.freshTag])
    (hg : r'.generation = r.generation) (hi : r'.state ≠ .idle) :
    SlotKept O (s.requests.make c op x owner (.run i r.generation)).entries D i r' where
  stack := hs ▸ h.stack
  idle _ e := absurd e hi
  outstanding o tag := by
    show _ ≤ awaited (s.requests.entries ++ [_]) D i _ tag
    have before := h.outstanding o tag
    rw [ho, hg, awaited_append, List.count_append]
    refine Nat.add_le_add before ?_
    by_cases e : s.requests.freshTag = tag <;> simp [ReqEntry.isOf, e]

end Rules

/-! ### Run steps -/

/-- The parts owed are the same, and the requests are still there. -/
structure State.Extends (s t : State) : Prop where
  owed    : t.owed = s.owed
  entries : s.requests.entries <+: t.requests.entries

theorem State.Extends.refl (s : State) : s.Extends s := ⟨rfl, List.prefix_rfl⟩

theorem State.Extends.trans {s t u : State} (h : s.Extends t) (k : t.Extends u) : s.Extends u :=
  ⟨k.owed.trans h.owed, h.entries.trans k.entries⟩

theorem State.SameRuns.extends {s t : State} (h : s.SameRuns t) : s.Extends t :=
  ⟨h.owed, h.requests ▸ List.prefix_rfl⟩

section Steps

variable {M O : Prop} {D : List Owing} {i : SlotId} {s : State}

/-- What one step of a run comes to: the run goes on with fewer steps to come, or it has come to a wait or
to its end. -/
structure Went (M O : Prop) (D : List Owing) (i : SlotId) (s : State) (a : Bool × State) : Prop where
  ext : s.Extends a.2
  on  : a.1 = true → Free M O D i a.2 ∧ (M → (a.2.slot i).cost < (s.slot i).cost)
    ∧ (a.2.slot i).state = .performing
  off : a.1 = false → RunsKept M O D a.2

theorem Went.goesOn {t : State} {r : RunSlot} (h : Free M O D i t) (ho : s.Extends t)
    (hr : SlotKept O t.requests.entries D i r) (hc : M → r.cost < (s.slot i).cost)
    (hp : r.state = .performing) : Went M O D i s (true, t.setSlot i r) where
  ext := ⟨ho.owed, ho.entries⟩
  on _ := by
    refine ⟨h.setSlot hr, ?_⟩
    rw [State.slot_setSlot_self]
    exact ⟨hc, hp⟩
  off e := nomatch e

theorem Went.stops {t : State} (h : RunsKept M O D t) (ho : s.Extends t) :
    Went M O D i s (false, t) :=
  ⟨ho, (nomatch ·), fun _ => h⟩

/-- A run ends. -/
theorem Free.ends (h : Free M O D i s) : RunsKept M O D (s.setSlot i (s.slot i).ended) :=
  h.stops (.ended _) (by simp [RunSlot.ended])

theorem Free.failRun (h : Free M O D i s) : RunsKept M O D (s.failRun i) :=
  h.ends.sameRuns ⟨rfl, rfl, rfl, rfl⟩

theorem Free.channelStep (h : Free M O D i s) (hp : (s.slot i).state = .performing)
    (hk : M → (s.slot i).step < 16) (c : Chan) (op : Op) (x : Byte) :
    Went M O D i s (s.channelStep i (s.slot i) c op x) := by
  have slot := h.slots i
  have next : ∀ r : RunSlot, r.step = (s.slot i).step + 1 → r.stack = (s.slot i).stack →
      M → r.cost < (s.slot i).cost := fun r hs hst m => RunSlot.cost_next (hk m) hs hst
  have same {r : RunSlot} (u : State) (e : s.SameRuns u) (hs : r.stack = (s.slot i).stack)
      (ho : r.outstanding = (s.slot i).outstanding) (hg : r.generation = (s.slot i).generation)
      (hi : r.state ≠ .idle) : SlotKept O u.requests.entries D i r := by
    rw [e.requests]
    exact slot.of_eq (hs ▸ slot.stack) ho hg fun e => absurd e hi
  have busy : (s.slot i).state ≠ .idle := by
    rw [hp]
    simp
  unfold State.channelStep
  split
  next m _ =>
    rcases s.issue_cases c m.owner op x (.run i (s.slot i).generation) with
      ⟨u, e, room, eq⟩ | ⟨a, hn, u, e, eq⟩ <;> rw [eq]
    · have made : Free M O D i
          { u with requests := s.requests.make c op x m.owner (.run i (s.slot i).generation) } := by
        have free := (h.sameRuns e).make (by rw [e.requests]; exact room) c op x m.owner
          (.run i (s.slot i).generation)
        rwa [e.requests] at free
      exact .goesOn made ⟨e.owed, List.prefix_append _ _⟩ (slot.issued c op x m.owner rfl rfl rfl busy) (next _ rfl rfl) hp
    · have free := h.sameRuns e
      cases a with
      | made tag => exact absurd rfl (hn tag)
      | ownerAbsent => exact .goesOn free e.extends (same u e rfl rfl rfl busy) (next _ rfl rfl) hp
      | busy => exact .stops (free.joinTable (same u e rfl rfl rfl (by simp)) rfl) ⟨e.owed, e.extends.entries⟩
  next =>
    have e := s.localOp_sameRuns c op x
    exact .goesOn (h.sameRuns e) e.extends (same _ e rfl rfl rfl busy) (next _ rfl rfl) hp

theorem Free.emitStep (h : Free M O D i s) (hp : (s.slot i).state = .performing)
    (hk : M → (s.slot i).step < 16) (e : Emission) :
    Went M O D i s (s.emitStep i (s.slot i) e) := by
  have slot := h.slots i
  have offered := s.offerEmission_sameRuns e
  have free := h.sameRuns offered
  unfold State.emitStep
  dsimp only
  split
  · refine .goesOn free offered.extends ?_ (fun m => RunSlot.cost_next (hk m) rfl rfl) hp
    rw [offered.requests]
    exact slot.of_eq slot.stack rfl rfl id
  · refine .stops (free.joinEmitter ?_ rfl) ⟨offered.owed, offered.extends.entries⟩
    rw [offered.requests]
    exact slot.of_eq slot.stack rfl rfl (nomatch ·)

theorem Free.confirmStep (h : Free M O D i s) (hp : (s.slot i).state = .performing)
    (hk : M → (s.slot i).step < 16) (b : Bool) :
    Went M O D i s (s.confirmStep i (s.slot i) b) := by
  have slot := h.slots i
  unfold State.confirmStep
  split
  · split
    · exact .stops h.failRun ⟨rfl, List.prefix_rfl⟩
    · exact .goesOn h (.refl s) (slot.of_eq slot.stack rfl rfl id)
        (fun m => RunSlot.cost_next (hk m) rfl rfl) hp
  · exact .stops (h.stops (slot.of_eq slot.stack rfl rfl (nomatch ·)) (by simp)) ⟨rfl, List.prefix_rfl⟩

theorem Free.callStep (h : Free M O D i s) (hp : (s.slot i).state = .performing)
    (hk : M → (s.slot i).step < 16) (m : MacroId) :
    Went M O D i s (s.callStep i (s.slot i) m) := by
  have slot := h.slots i
  unfold State.callStep
  split
  next room =>
    exact .goesOn h (.refl s) (slot.of_eq (by simpa using room) rfl rfl id)
      (fun b => RunSlot.cost_call m (hk b) room) hp
  next => exact .stops h.failRun ⟨rfl, List.prefix_rfl⟩

theorem Free.macroEnd (h : Free M O D i s) (hp : (s.slot i).state = .performing) :
    Went M O D i s (s.macroEnd i (s.slot i)) := by
  have slot := h.slots i
  unfold State.macroEnd
  split
  · exact .stops h.ends ⟨rfl, List.prefix_rfl⟩
  next m k rest hs =>
    refine .goesOn h (.refl s) (slot.of_eq ?_ rfl rfl id) (fun _ => RunSlot.cost_return hs) hp
    have size := slot.stack
    rw [hs] at size
    exact Nat.le_of_succ_le size

theorem Free.runStep (h : Free M O D i s) (hp : (s.slot i).state = .performing) :
    Went M O D i s (s.runStep i) := by
  have inside {x : Step} (hx : s.stepOf (s.slot i) = some x) (m : M) : (s.slot i).step < 16 :=
    State.step_lt_of_stepOf (h.bounded m) hx
  have slot := h.slots i
  unfold State.runStep
  dsimp only
  split
  next => exact h.macroEnd hp
  next hx => exact h.channelStep hp (inside hx) _ _ _
  next => exact .stops (h.stops (slot.of_eq slot.stack rfl rfl (nomatch ·)) (by simp)) ⟨rfl, List.prefix_rfl⟩
  next hx => exact h.confirmStep hp (inside hx) _
  next hx => exact h.emitStep hp (inside hx) _
  next hx => exact h.callStep hp (inside hx) _

/-- A run that has not more steps to come than it may perform comes to a wait or to its end. -/
theorem Free.runSteps (n : Nat) : ∀ {s : State}, Free M O D i s → (s.slot i).state = .performing →
    (M → (s.slot i).cost < n) →
    RunsKept M O D (State.runSteps n i s) ∧ s.Extends (State.runSteps n i s) := by
  induction n with
  | zero => exact fun h _ hc => ⟨h.kept fun m => absurd (hc m) (Nat.not_lt_zero _), .refl _⟩
  | succ n ih =>
    intro s h hp hc
    have went := h.runStep hp
    simp only [State.runSteps]
    split
    next t e =>
      rw [e] at went
      obtain ⟨free, less, hp'⟩ := went.on rfl
      obtain ⟨kept, ext⟩ :=
        ih free hp' fun m => Nat.lt_of_lt_of_le (less m) (Nat.lt_succ_iff.1 (hc m))
      exact ⟨kept, went.ext.trans ext⟩
    next t e =>
      rw [e] at went
      exact ⟨went.off rfl, went.ext⟩

/-- A slot performs its steps, from a step that is written with it. -/
theorem Free.performs (h : Free M O D i s) {r : RunSlot} (hr : SlotKept O s.requests.entries D i r)
    (hp : r.state = .performing) :
    RunsKept M O D (State.runSteps runFuel i (s.setSlot i r))
      ∧ s.Extends (State.runSteps runFuel i (s.setSlot i r)) := by
  have written : s.Extends (s.setSlot i r) := ⟨rfl, List.prefix_rfl⟩
  obtain ⟨kept, ext⟩ := Free.runSteps runFuel (h.setSlot hr)
    (by rw [State.slot_setSlot_self]; exact hp)
    (fun _ => by rw [State.slot_setSlot_self]; exact RunSlot.cost_lt_fuel hr.stack)
  exact ⟨kept, written.trans ext⟩

theorem Free.resume (h : Free M O D i s) :
    RunsKept M O D (s.resume i) ∧ s.Extends (s.resume i) :=
  h.performs ((h.slots i).of_eq (h.slots i).stack rfl rfl (nomatch ·)) rfl

theorem Free.resumeNext (h : Free M O D i s) :
    RunsKept M O D (s.resumeNext i) ∧ s.Extends (s.resumeNext i) :=
  h.performs ((h.slots i).of_eq (h.slots i).stack rfl rfl (nomatch ·)) rfl

end Steps

end Sys2Proof.Machine
end

section
/-! PROOFS. The runs and their requests kept sound by the shared operations: issues, gestures, grants, and
the ends of requests. The tag of an ended request is awaited no more by an entry, but by the outcome that
is still owed to its run (R90 to R92, log entry 37). -/

namespace Sys2Proof.Machine

section Shared

variable {M O : Prop} {D : List Owing} {s t : State} {i : SlotId}

theorem awaited_le_of_le {es es' : List ReqEntry} {D D' : List Owing} (i : SlotId) (g tag : Byte)
    (he : es.countP (ReqEntry.isOf i g tag) ≤ es'.countP (ReqEntry.isOf i g tag))
    (hD : D.countP (Owing.concludes i g tag) ≤ D'.countP (Owing.concludes i g tag)) :
    awaited es D i g tag ≤ awaited es' D' i g tag := Nat.add_le_add he hD

/-- The slots under other parts owed, in which no outcome is lost. -/
theorem RunsKept.mono {D' : List Owing} (h : RunsKept M O D s)
    (hD : ∀ i g tag, D.countP (Owing.concludes i g tag) ≤ D'.countP (Owing.concludes i g tag)) :
    RunsKept M O D' s :=
  { h with
    slots := fun i => (h.slots i).mono fun tag => awaited_le_of_le i _ tag le_rfl (hD i _ tag) }

theorem RunsKept.debts (h : RunsKept M O (D ++ s.owed) t) (ho : t.owed = s.owed) :
    Debts (RunsKept M O) D t := by
  rwa [Debts, ho]

theorem RunsKept.debts_sameRuns (h : Debts (RunsKept M O) D s) (e : s.SameRuns t) :
    Debts (RunsKept M O) D t :=
  RunsKept.debts (RunsKept.sameRuns h e) e.owed

theorem RunsKept.owe (o : Owing) (h : Debts (RunsKept M O) D s) :
    Debts (RunsKept M O) D (s.owe o) := by
  have more : RunsKept M O (D ++ (s.owed ++ [o])) s :=
    RunsKept.mono h fun i g tag => by
      rw [← List.append_assoc, List.countP_append (l₁ := D ++ s.owed)]
      exact Nat.le_add_right _ _
  exact { more with }

/-- A part that is owed is owed by the state. -/
theorem RunsKept.owed {o : Owing} (h : Debts (RunsKept M O) (o :: D) s) :
    Debts (RunsKept M O) D (s.owe o) := by
  have moved : (o :: D ++ s.owed).Perm (D ++ (s.owed ++ [o])) := by
    rw [← List.append_assoc]
    exact (List.perm_append_comm (l₁ := [o]) (l₂ := D ++ s.owed))
  have same : RunsKept M O (D ++ (s.owed ++ [o])) s :=
    RunsKept.mono h fun i g tag => (moved.countP_eq _).le
  exact { same with }

theorem RunsKept.thenDo {part : State → State} (o : Owing)
    (hp : ∀ s, Debts (RunsKept M O) D s → Debts (RunsKept M O) D (part s))
    (h : Debts (RunsKept M O) D s) : Debts (RunsKept M O) D (s.thenDo o part) := by
  unfold State.thenDo
  split
  · exact RunsKept.owe o h
  · exact hp s h

/-! ### Gestures -/

theorem RunsKept.channelAction (c : Chan) (op : Op) (x : Byte) (h : Debts (RunsKept M O) D s) :
    Debts (RunsKept M O) D (s.channelAction c op x) := by
  unfold State.channelAction
  split
  next m _ =>
    rcases s.issue_cases c m.owner op x .binding with ⟨u, e, room, eq⟩ | ⟨a, _, u, e, eq⟩ <;> rw [eq]
    · have made := (RunsKept.sameRuns h e).make (by rw [e.requests]; exact room) c op x m.owner .binding
      rw [e.requests] at made
      exact made.debts e.owed
    · exact RunsKept.debts_sameRuns h e
  · exact RunsKept.debts_sameRuns h (s.localOp_sameRuns c op x)

/-- A slot that leaves both orders is free. -/
theorem RunsKept.leaveOrders (h : RunsKept M O D s) (i : SlotId) :
    Free M O D i (s.leaveOrders i) where
  size := h.size
  tags := h.tags
  tableOrder := h.tableOrder.filter _
  emitterOrder := h.emitterOrder.filter _
  table j hj := h.table j (List.mem_of_mem_filter hj)
  emitter j hj := h.emitter j (List.mem_of_mem_filter hj)
  slots := h.slots
  bounded := h.bounded
  noTable hi := by simpa using (List.mem_filter.1 hi).2
  noEmitter hi := by simpa using (List.mem_filter.1 hi).2
  others m j _ := h.rest m j

theorem RunsKept.abortFree (h : RunsKept M O D s) (i : SlotId) : Free M O D i (s.abortRun i) :=
  (h.leaveOrders i).setSlot (.ended _)

theorem RunsKept.abortRun (h : Debts (RunsKept M O) D s) (i : SlotId) :
    Debts (RunsKept M O) D (s.abortRun i) :=
  RunsKept.debts ((RunsKept.leaveOrders h i).stops (.ended _) (by simp [RunSlot.ended])) rfl

theorem Free.startIn (h : Free M O (D ++ s.owed) i s) (m : MacroId) :
    Debts (RunsKept M O) D (s.startIn i m) := by
  have started := (h.setSlot (r := (s.slot i).started m) (.of_nil rfl rfl)).resume
  exact started.1.debts started.2.owed

theorem RunsKept.startMacro (h : Debts (RunsKept M O) D s) (m : MacroId) :
    Debts (RunsKept M O) D (s.startMacro m) := by
  unfold State.startMacro
  split
  next i _ => exact Free.startIn (s := s.abortRun i) (RunsKept.abortFree h i) m
  next =>
    split
    next i hi =>
      have idle : (s.slot i).state = .idle := by
        have idle := List.find?_some hi
        simpa using idle
      exact Free.startIn (RunsKept.free h (by simp [idle]) (by simp [idle])) m
    next => exact RunsKept.debts_sameRuns h ⟨rfl, rfl, rfl, rfl⟩

theorem RunsKept.emitAction (h : Debts (RunsKept M O) D s) (e : Emission) :
    Debts (RunsKept M O) D (s.emitAction e) := by
  have offered := s.offerEmission_sameRuns e
  unfold State.emitAction
  dsimp only
  split
  · exact RunsKept.debts_sameRuns h offered
  · exact RunsKept.debts_sameRuns h (offered.trans ⟨rfl, rfl, rfl, rfl⟩)

theorem RunsKept.perform (h : Debts (RunsKept M O) D s) (b : Binding) :
    Debts (RunsKept M O) D (s.perform b) := by
  unfold State.perform
  split
  · exact RunsKept.channelAction _ _ _ h
  · exact RunsKept.startMacro h _
  · unfold State.stopMacro
    split
    · exact RunsKept.abortRun h _
    · exact h
  · exact RunsKept.emitAction h _

theorem RunsKept.gesture (src : Source) (tr : Trigger) (h : Debts (RunsKept M O) D s) :
    Debts (RunsKept M O) D (s.gesture src tr) := by
  unfold State.gesture
  split
  · exact ActsKeep.foldl (P := Debts (RunsKept M O) D) (fun _ b hs => RunsKept.perform hs b)
      (s.matching src tr) h
  · exact RunsKept.debts_sameRuns h ⟨rfl, rfl, rfl, rfl⟩

/-! ### Grants -/

/-- The slot that is granted leaves its order, and is free. -/
theorem RunsKept.granted (h : RunsKept M O D s) {i : SlotId} {rest : List SlotId}
    (hw : s.requests.waiting = i :: rest) (n : Nat) :
    Free M O D i { s with rival := n, requests := { s.requests with waiting := rest } } := by
  have order := h.tableOrder
  rw [hw] at order
  obtain ⟨hi, order⟩ := List.nodup_cons.1 order
  obtain ⟨t, state⟩ := h.table i (by rw [hw]; exact List.mem_cons_self ..)
  exact
    { h with
      tableOrder := order
      table := fun j hj => h.table j (by rw [hw]; exact List.mem_cons_of_mem _ hj)
      noTable := hi
      noEmitter := fun he => by
        obtain ⟨u, e⟩ := h.emitter i he
        rw [state] at e
        cases e
      others := fun m j _ => h.rest m j }

theorem RunsKept.emitterGranted (h : RunsKept M O D s) {i : SlotId} {rest : List SlotId}
    (hw : s.emitter.waiting = i :: rest) (n : Nat) :
    Free M O D i { s with rival := n, emitter := { s.emitter with waiting := rest } } := by
  have order := h.emitterOrder
  rw [hw] at order
  obtain ⟨hi, order⟩ := List.nodup_cons.1 order
  obtain ⟨t, state⟩ := h.emitter i (by rw [hw]; exact List.mem_cons_self ..)
  exact
    { h with
      emitterOrder := order
      emitter := fun j hj => h.emitter j (by rw [hw]; exact List.mem_cons_of_mem _ hj)
      noEmitter := hi
      noTable := fun he => by
        obtain ⟨u, e⟩ := h.table i he
        rw [state] at e
        cases e
      others := fun m j _ => h.rest m j }

/-- Grants keep the runs, and the requests are still there. -/
theorem RunsKept.grants (n : Nat) : ∀ {s : State}, Debts (RunsKept M O) D s →
    Debts (RunsKept M O) D (State.grants n s)
      ∧ s.requests.entries <+: (State.grants n s).requests.entries := by
  induction n with
  | zero => exact fun h => ⟨h, List.prefix_rfl⟩
  | succ n ih =>
    intro s h
    simp only [State.grants]
    split
    · exact ⟨h, List.prefix_rfl⟩
    next i rest hw =>
      split
      · split
        · exact ⟨RunsKept.owe _ h, List.prefix_rfl⟩
        · obtain ⟨kept, ext⟩ := (RunsKept.granted h hw (s.rival - 1)).resume
          obtain ⟨kept', ext'⟩ := ih (kept.debts ext.owed)
          exact ⟨kept', ext.entries.trans ext'⟩
      · exact ⟨h, List.prefix_rfl⟩

theorem RunsKept.grantOccasion (h : Debts (RunsKept M O) D s) :
    Debts (RunsKept M O) D s.grantOccasion
      ∧ s.requests.entries <+: s.grantOccasion.requests.entries := by
  unfold State.grantOccasion State.thenDo
  split
  · exact ⟨RunsKept.owe _ h, List.prefix_rfl⟩
  · exact RunsKept.grants 3 h

theorem RunsKept.emitterGrant (h : Debts (RunsKept M O) D s) :
    Debts (RunsKept M O) D s.emitterGrant := by
  unfold State.emitterGrant
  split
  next i rest hw =>
    split
    · split
      · exact RunsKept.owe _ h
      · obtain ⟨kept, ext⟩ := (RunsKept.emitterGranted h hw (s.rival - 1)).resume
        exact kept.debts ext.owed
    · exact h
  next => exact h

theorem RunsKept.waitExpiry (i : SlotId) (h : Debts (RunsKept M O) D s) :
    Debts (RunsKept M O) D (s.waitExpiry i) := by
  unfold State.waitExpiry
  split
  next d hs =>
    split
    · obtain ⟨kept, ext⟩ := (RunsKept.free (i := i) h (by simp [hs]) (by simp [hs])).resumeNext
      exact kept.debts ext.owed
    · exact h
  next => exact h

/-! ### The ends of requests -/

/-- The entry with the tag is still there once entries have been added (R80). -/
theorem State.requestOf_of_prefix {s t : State} (h : s.requests.entries <+: t.requests.entries)
    {tag : Byte} {e : ReqEntry} (he : s.requestOf tag = some e) : t.requestOf tag = some e := by
  obtain ⟨more, hm⟩ := h
  unfold State.requestOf at he ⊢
  rw [← hm, List.find?_append, he]
  rfl

/-- The entry that leaves is the only one with its tag. -/
theorem countP_le_of_removed {es : List ReqEntry} (nodup : (es.map ReqEntry.tag).Nodup)
    {e : ReqEntry} (he : e ∈ es) (p : ReqEntry → Bool) :
    es.countP p ≤ (es.filter fun f => f.tag != e.tag).countP p + if p e then 1 else 0 := by
  rw [List.countP_eq_countP_filter_add es p fun f => f.tag != e.tag]
  refine Nat.add_le_add_left ?_ _
  have only : ∀ f ∈ es.filter fun f => !(f.tag != e.tag), f = e := by
    intro f hf
    obtain ⟨hf, ht⟩ := List.mem_filter.1 hf
    exact List.inj_on_of_nodup_map nodup hf he (by simpa using ht)
  have single : (es.filter fun f => !(f.tag != e.tag)).length ≤ 1 := by
    have nodup' := (List.Nodup.of_map _ nodup).filter fun f => !(f.tag != e.tag)
    generalize es.filter _ = l at only nodup'
    match l with
    | [] => exact Nat.zero_le _
    | [_] => exact le_rfl
    | a :: b :: _ =>
      have same := (only a (by simp)).trans (only b (by simp)).symm
      simp [same] at nodup'
  split
  · exact List.countP_le_length.trans single
  next hp =>
    rw [Nat.le_zero, List.countP_eq_zero]
    exact fun f hf => by rw [only f hf]; exact hp

/-- An entry leaves the table; its run awaits the outcome that is now owed (R90). -/
theorem RunsKept.removeRequest {e : ReqEntry} (o : ReqOutcome) (he : s.requestOf e.tag = some e)
    (h : Debts (RunsKept M O) D s) :
    Debts (RunsKept M O) (.conclusion e o :: D) (s.removeRequest e.tag) := by
  have inside : e ∈ s.requests.entries := List.mem_of_find?_eq_some he
  exact
    { h with
      size := (List.length_filter_le _ _).trans (RunsBase.size h.toRunsBase)
      tags := (RunsBase.tags h.toRunsBase).sublist (List.filter_sublist.map _)
      slots := fun i => (RunsBase.slots h.toRunsBase i).mono fun tag => by
        have left := countP_le_of_removed (RunsBase.tags h.toRunsBase) inside
          (ReqEntry.isOf i (s.slot i).generation tag)
        have owed : (Owing.conclusion e o :: D ++ s.owed).countP
              (Owing.concludes i (s.slot i).generation tag)
            = (D ++ s.owed).countP (Owing.concludes i (s.slot i).generation tag)
              + if e.isOf i (s.slot i).generation tag then 1 else 0 := by
          rw [List.cons_append, List.countP_cons]
          rfl
        unfold awaited
        show _ ≤ List.countP _ (s.requests.entries.filter fun f => f.tag != e.tag)
          + List.countP _ (Owing.conclusion e o :: D ++ s.owed)
        rw [owed]
        omega }

/-! ### Outcomes -/

/-- An outcome for another run is none that this slot awaits. -/
theorem SlotKept.notMine {es : List ReqEntry} {r : RunSlot} {e : ReqEntry} {o : ReqOutcome}
    (h : SlotKept O es (.conclusion e o :: D) i r) (he : e.origin ≠ .run i r.generation) :
    SlotKept O es D i r :=
  h.mono fun tag => by
    have other : Owing.concludes i r.generation tag (.conclusion e o) = false := by
      simp [Owing.concludes, ReqEntry.isOf, he]
    simp [awaited, other]

/-- An IDLE slot awaits nothing. -/
theorem SlotKept.ofIdle {es : List ReqEntry} {D' : List Owing} {r : RunSlot}
    (h : SlotKept O es D' i r) (hi : r.state = .idle) : SlotKept O es D i r :=
  ⟨h.stack, h.idle, fun o tag => by simp [h.idle o hi]⟩

/-- The slot that is told an outcome awaits it no more. -/
theorem SlotKept.told {es : List ReqEntry} {r r' : RunSlot} {e : ReqEntry} {o : ReqOutcome}
    (h : SlotKept O es (.conclusion e o :: D) i r) (he : e.origin = .run i r.generation)
    (hs : r'.stack = r.stack) (ho : r'.outstanding = r.outstanding.erase e.tag)
    (hg : r'.generation = r.generation) (hi : r'.state = r.state) : SlotKept O es D i r' where
  stack := hs ▸ h.stack
  idle p q := by rw [ho, h.idle p (hi ▸ q), List.erase_nil]
  outstanding p tag := by
    have before := h.outstanding p tag
    have mine : Owing.concludes i r.generation tag (.conclusion e o) = (e.tag == tag) := by
      simp [Owing.concludes, ReqEntry.isOf, he]
    rw [awaited, List.countP_cons, mine] at before
    rw [ho, hg, List.count_erase]
    unfold awaited
    omega

/-- A slot is written in the state that it has. -/
theorem RunsKept.write {D' : List Owing} (h : RunsKept M O D s) {r : RunSlot}
    (hs : r.state = (s.slot i).state) (hr : SlotKept O s.requests.entries D' i r)
    (others : ∀ j, j ≠ i → SlotKept O s.requests.entries D' j (s.slot j)) :
    RunsKept M O D' (s.setSlot i r) := by
  have state (j : SlotId) : ((s.setSlot i r).slot j).state = (s.slot j).state := by
    by_cases e : j = i
    · rw [e, State.slot_setSlot_self, hs]
    · rw [State.slot_setSlot_ne s r e]
  exact
    { size := h.size
      tags := h.tags
      tableOrder := h.tableOrder
      emitterOrder := h.emitterOrder
      table := fun j hj => by
        rw [state]
        exact h.table j hj
      emitter := fun j hj => by
        rw [state]
        exact h.emitter j hj
      slots := fun j => by
        by_cases e : j = i
        · rw [e, State.slot_setSlot_self]
          exact hr
        · rw [State.slot_setSlot_ne s r e]
          exact others j e
      bounded := h.bounded
      rest := fun m j => by
        rw [state]
        exact h.rest m j }

/-- The run that awaits an outcome is told it (R91, R92, R159). -/
theorem RunsKept.outcomeToRun {e : ReqEntry} {o : ReqOutcome} (b : Bool)
    (he : e.origin = .run i (s.slot i).generation)
    (h : Debts (RunsKept M O) (.conclusion e o :: D) s) :
    Debts (RunsKept M O) D (s.outcomeToRun i e.tag b) := by
  have others (j : SlotId) (hj : j ≠ i) :
      SlotKept O s.requests.entries (D ++ s.owed) j (s.slot j) :=
    (RunsBase.slots h.toRunsBase j).notMine (by simp [he, hj.symm])
  have slot := RunsBase.slots h.toRunsBase i
  unfold State.outcomeToRun
  dsimp only
  split
  next idle =>
    refine { h with slots := fun j => ?_ }
    by_cases e : j = i
    · rw [e]
      exact slot.ofIdle idle
    · exact others j e
  next =>
    have told : RunsKept M O (D ++ s.owed)
        (s.setSlot i
          { s.slot i with
            outstanding := (s.slot i).outstanding.erase e.tag
            failed := (s.slot i).failed || !b }) :=
      RunsKept.write h rfl (slot.told he rfl rfl rfl rfl) others
    split
    next wait =>
      have free := told.free (i := i) (by simp [wait.1]) (by simp [wait.1])
      exact free.resume.1.debts free.resume.2.owed
    next => exact told.debts rfl

theorem RunsKept.conclude (e : ReqEntry) (o : ReqOutcome)
    (h : Debts (RunsKept M O) (.conclusion e o :: D) s) :
    Debts (RunsKept M O) D (s.conclude e o) := by
  have forget {t : State} (h : Debts (RunsKept M O) (.conclusion e o :: D) t)
      (he : ∀ i, e.origin ≠ .run i (t.slot i).generation) : Debts (RunsKept M O) D t :=
    { h with slots := fun i => (RunsBase.slots h.toRunsBase i).notMine (he i) }
  have route (b : Bool) {t : State} (h : Debts (RunsKept M O) (.conclusion e o :: D) t) :
      Debts (RunsKept M O) D (t.routeOutcome e b) := by
    unfold State.routeOutcome
    split
    next ho => exact forget h (by simp [ho])
    next i g ho =>
      split
      next hg => exact RunsKept.outcomeToRun b (hg ▸ ho) h
      next hg =>
        refine forget h fun j e => ?_
        rw [ho] at e
        obtain ⟨rfl, rfl⟩ := Originator.run.inj e
        exact hg rfl
  unfold State.conclude
  split
  · exact route _ h
  · exact route _ (RunsKept.debts_sameRuns h ⟨rfl, rfl, rfl, rfl⟩)

theorem RunsKept.finish {e : ReqEntry} (o : ReqOutcome) (he : s.requestOf e.tag = some e)
    (h : Debts (RunsKept M O) D s) : Debts (RunsKept M O) D (State.finish e o s) := by
  have granted := (RunsKept.grantOccasion (RunsKept.removeRequest o he h)).1
  unfold State.finish State.thenDo
  split
  · exact RunsKept.owed granted
  · exact RunsKept.conclude e o granted

theorem RunsKept.withdrawRequest (tag : Byte) (h : Debts (RunsKept M O) D s) :
    Debts (RunsKept M O) D (s.withdrawRequest tag)
      ∧ s.requests.entries <+: (s.withdrawRequest tag).requests.entries := by
  unfold State.withdrawRequest
  split
  · exact ⟨h, List.prefix_rfl⟩
  · split
    · exact ⟨RunsKept.debts_sameRuns h ⟨rfl, rfl, rfl, rfl⟩, List.prefix_rfl⟩
    · exact RunsKept.grantOccasion (RunsKept.debts_sameRuns h ⟨rfl, rfl, rfl, rfl⟩)

theorem RunsKept.endRequest (tag : Byte) (o : ReqOutcome) (h : Debts (RunsKept M O) D s) :
    Debts (RunsKept M O) D (s.endRequest tag o) := by
  unfold State.endRequest
  split
  · exact h
  next e he =>
    have mine : e.tag = tag := by simpa using List.find?_some he
    have withdrawn : Debts (RunsKept M O) D
          (if e.state = .queued ∧ o.withdraws then s.withdrawRequest tag else s)
        ∧ (if e.state = .queued ∧ o.withdraws then s.withdrawRequest tag else s).requestOf e.tag
          = some e := by
      rw [mine]
      split
      · obtain ⟨kept, more⟩ := RunsKept.withdrawRequest tag h
        exact ⟨kept, State.requestOf_of_prefix more he⟩
      · exact ⟨h, he⟩
    obtain ⟨kept, there⟩ := withdrawn
    have ends (u : State) (kept : Debts (RunsKept M O) D u) (there : u.requestOf e.tag = some e) :
        Debts (RunsKept M O) D (u.thenDo (.removal e o) (State.finish e o)) := by
      unfold State.thenDo
      split
      · exact RunsKept.owe _ kept
      · exact RunsKept.finish o there kept
    exact ends _ kept there

end Shared

end Sys2Proof.Machine
end

section
/-! PROOFS. The Request Table and the runs stay sound (R80, R94, R144, R154 to R156), and the outstanding tags
of a run name its requests (R155), over every step. -/

namespace Sys2Proof.Machine

/-! ### The macros of a validated image -/

theorem parseMacros_length {d : Declared} {k : Nat} {ns : List Nat} {steps : List (List Byte)}
    {ms : List (List Step)} (hn : ∀ n ∈ ns, n ≤ 16) (h : parseMacros d k ns steps = some ms) :
    ∀ m ∈ ms, m.length ≤ 16 := by
  induction ns generalizing k steps ms with
  | nil =>
    obtain rfl : [] = ms := Option.some.inj h
    exact fun _ hm => nomatch hm
  | cons n ns ih =>
    simp only [parseMacros] at h
    split at h
    next m ms' hm hms =>
      obtain rfl := Option.some.inj h
      intro x hx
      rcases List.mem_cons.1 hx with rfl | hx
      · have length := allSome_length hm
        rw [List.length_map, List.length_take] at length
        have := hn n (List.mem_cons_self ..)
        omega
      · exact ih (fun n hn' => hn n (List.mem_cons_of_mem _ hn')) hms x hx
    next => cases h

/-- A Macro of a validated image has at most 16 steps (R103, R180). -/
theorem parseMacroSection_length {d : Declared} {l : List Byte} {ms : List (List Step)}
    (h : parseMacroSection d l = some ms) : ∀ m ∈ ms, m.length ≤ 16 := by
  unfold parseMacroSection at h
  split at h
  · obtain rfl : [] = ms := Option.some.inj h
    exact fun _ hm => nomatch hm
  · dsimp only at h
    split at h
    next hl =>
      refine parseMacros_length (fun n hn => ?_) h
      have bounds : 1 ≤ n ∧ n ≤ 16 := of_decide_eq_true (List.all_eq_true.1 hl.2.2.1 n hn)
      exact bounds.2
    · cases h

theorem validate_macros {own : Addr} {l : List Byte} {m : Image} (h : validate own l = .ok m) :
    ∀ x ∈ m.macros, x.length ≤ 16 := by
  obtain ⟨d, hd⟩ := (validate_parts h).2
  exact parseMacroSection_length hd

/-! ### The runs over every effect -/

/-- A request that is SENT keeps its tag and its originator (R84). -/
theorem modifyFirst_map {α β : Type} {p : α → Bool} {f : α → α} {g : α → β} (h : ∀ a, g (f a) = g a)
    (l : List α) : (modifyFirst p f l).map g = l.map g := by
  induction l with
  | nil => rfl
  | cons a l ih =>
    unfold modifyFirst
    split
    · rw [List.map_cons, List.map_cons, h]
    · rw [List.map_cons, List.map_cons, ih]

theorem modifyFirst_countP {α : Type} {p q : α → Bool} {f : α → α} (h : ∀ a, q (f a) = q a)
    (l : List α) : (modifyFirst p f l).countP q = l.countP q := by
  induction l with
  | nil => rfl
  | cons a l ih =>
    unfold modifyFirst
    split
    · rw [List.countP_cons, List.countP_cons, h]
    · rw [List.countP_cons, List.countP_cons, ih]

theorem State.requestSent_tags (s : State) (tag : Byte) :
    (s.requestSent tag).requests.entries.map ReqEntry.tag = s.requests.entries.map ReqEntry.tag :=
  modifyFirst_map (f := fun e : ReqEntry => { e with state := .sent (s.now + confirmTime) })
    (fun _ => rfl) _

theorem State.requestSent_isOf (s : State) (t : Byte) (i : SlotId) (g tag : Byte) :
    (s.requestSent t).requests.entries.countP (ReqEntry.isOf i g tag)
      = s.requests.entries.countP (ReqEntry.isOf i g tag) :=
  modifyFirst_countP (f := fun e : ReqEntry => { e with state := .sent (s.now + confirmTime) })
    (fun _ => rfl) _

section Effects

variable {M O : Prop} {D : List Owing} {s t : State}

theorem RunsKept.requestSent (tag : Byte) (h : Debts (RunsKept M O) D s) :
    Debts (RunsKept M O) D (s.requestSent tag) :=
  { h with
    size := by
      show (modifyFirst _ _ _).length ≤ 8
      rw [length_modifyFirst]
      exact RunsBase.size h.toRunsBase
    tags := by
      rw [State.requestSent_tags]
      exact RunsBase.tags h.toRunsBase
    slots := fun i => (RunsBase.slots h.toRunsBase i).mono fun tag =>
      awaited_le_of_le i _ tag (s.requestSent_isOf _ i _ tag).ge le_rfl }

/-- No request, no order and no run. -/
theorem RunsKept.cleared (entries : s.requests.entries = []) (table : s.requests.waiting = [])
    (emitter : s.emitter.waiting = []) (slots : ∀ i, ∃ r : RunSlot, s.slot i = r.ended)
    (bounded : M → MacrosBounded s) : RunsKept M O D s where
  size := by simp [entries]
  tags := by simp [entries]
  tableOrder := by simp [table]
  emitterOrder := by simp [emitter]
  table := by simp [table]
  emitter := by simp [emitter]
  slots i := by
    obtain ⟨r, hr⟩ := slots i
    rw [hr]
    exact .ended r
  bounded := bounded
  rest _ i := by
    obtain ⟨r, hr⟩ := slots i
    rw [hr]
    simp [RunSlot.ended]

theorem runsBase : BaseKeep (Debts (RunsKept M O) D) where
  free := fun _ _ _ _ _ _ h => RunsKept.debts_sameRuns h ⟨rfl, rfl, rfl, rfl⟩
  owe := fun o _ _ h => RunsKept.owe o h
  gesture := fun src tr h => RunsKept.gesture src tr h
  endRequest := fun t o h => RunsKept.endRequest t o h
  grantOccasion := fun h => (RunsKept.grantOccasion h).1
  emitterGrant := fun h => RunsKept.emitterGrant h
  waitExpiry := fun i h => RunsKept.waitExpiry i h
  apply := fun {s} _ _ _ _ _ _ _ _ h => RunsKept.debts_sameRuns h (s.apply_sameRuns _ _ _ _ _ _)
  dirty := fun _ _ h => RunsKept.debts_sameRuns h ⟨rfl, rfl, rfl, rfl⟩
  cursor := fun _ h => RunsKept.debts_sameRuns h ⟨rfl, rfl, rfl, rfl⟩
  requestSent := fun t h => RunsKept.requestSent t h
  fetchOut := fun _ _ h => RunsKept.debts_sameRuns h ⟨rfl, rfl, rfl, rfl⟩
  announceAt := fun _ h => RunsKept.debts_sameRuns h ⟨rfl, rfl, rfl, rfl⟩
  recalls := fun _ _ h => RunsKept.debts_sameRuns h ⟨rfl, rfl, rfl, rfl⟩

theorem slot_mapEnded (s : State) (i : SlotId) :
    (({ s with macros := { s.macros with slots := mapV RunSlot.ended s.macros.slots } } :
      State).slot i) = (s.slot i).ended :=
  getElem_mapV _ _ _ i.isLt

theorem runsParts (alone : Prop) : EffectKeep (Debts (RunsKept M O) D) alone where
  toBaseKeep := runsBase
  silent := fun _ _ _ h => RunsKept.debts_sameRuns h ⟨rfl, rfl, rfl, rfl⟩
  imageRead := fun {s} answer _ _ hs h => by
    rcases s.imageRead_cases answer hs with ⟨_, _, e⟩ | ⟨_, _, e⟩ | ⟨_, _, m, hm, e⟩ <;> rw [e]
    · exact RunsKept.debts_sameRuns h ⟨rfl, rfl, rfl, rfl⟩
    · exact RunsKept.debts_sameRuns h ⟨rfl, rfl, rfl, rfl⟩
    · rw [State.loadSucceeds_eq]
      exact { h with bounded := fun _ => validate_macros hm }
  lineRestart := fun {s} _ _ _ h => by
    rw [State.lineRestart_eq]
    exact .cleared rfl rfl rfl (fun i => ⟨_, slot_mapEnded s i⟩) h.bounded
  fresh := fun _ s c t _ _ _ => by
    refine .cleared rfl rfl rfl (fun i => ⟨RunSlot.reset, ?_⟩) fun _ _ hm => nomatch hm
    show (Vector.replicate 2 RunSlot.reset)[i] = _
    rw [Fin.getElem_fin, Vector.getElem_replicate]
    rfl
  joining := fun _ _ h => RunsKept.debts_sameRuns h ⟨rfl, rfl, rfl, rfl⟩
  joined := fun {s} _ h col _ => by
    obtain ⟨v, ld, e⟩ := State.joinChans_eq col (nextIncarnation col.latest) s.homeChans
      (s.becomesActive (nextIncarnation col.latest))
    rw [e]
    exact RunsKept.debts_sameRuns h ⟨rfl, rfl, rfl, rfl⟩
  scan := runsBase.gestures.scan fun _ h => RunsKept.debts_sameRuns h ⟨rfl, rfl, rfl, rfl⟩
  stuck := runsBase.gestures.stuckExpiry fun _ h => RunsKept.debts_sameRuns h ⟨rfl, rfl, rfl, rfl⟩
  irRead := fun _ _ _ h => RunsKept.debts_sameRuns h ⟨rfl, rfl, rfl, rfl⟩
  irHeld := fun _ _ h => RunsKept.debts_sameRuns h ⟨rfl, rfl, rfl, rfl⟩
  emissionFrame := fun {s} h => by
    unfold State.emissionFrame
    split
    · split
      · exact RunsKept.debts_sameRuns h ⟨rfl, rfl, rfl, rfl⟩
      · exact h
    · exact h
  nextEmission := fun _ _ h => RunsKept.debts_sameRuns h ⟨rfl, rfl, rfl, rfl⟩
  lastEmission := fun _ _ h => RunsKept.debts_sameRuns h ⟨rfl, rfl, rfl, rfl⟩
  blankingEnd := fun {s} h => by
    unfold State.blankingEnd
    split
    · split
      · exact RunsKept.debts_sameRuns h ⟨rfl, rfl, rfl, rfl⟩
      · exact h
    · exact h
  stepOutput := fun _ h => RunsKept.debts_sameRuns h ⟨rfl, rfl, rfl, rfl⟩

theorem runs_evidence (src : Addr) (i : Byte) (p : Option Byte) (h : Debts (RunsKept M O) D s) :
    Debts (RunsKept M O) D (s.evidence src i p).2 := by
  refine runsBase.hand.evidence (fun _ => ?_) (fun _ _ => ?_) h
  · rw [State.enterConflict_eq]
    exact .cleared rfl rfl rfl (fun i => ⟨_, slot_mapEnded s i⟩) h.bounded
  · exact State.noted_keeps (RunsKept.debts_sameRuns h ⟨rfl, rfl, rfl, rfl⟩)
      fun e hs => RunsKept.debts_sameRuns hs ⟨rfl, rfl, rfl, rfl⟩

/-- One part owed more, no outcome lost. -/
theorem RunsKept.more (o : Owing) (h : Debts (RunsKept M O) D s) :
    Debts (RunsKept M O) (o :: D) s :=
  RunsKept.mono h fun i g tag => by
    rw [List.cons_append, List.countP_cons]
    exact Nat.le_add_right _ _

theorem runsKeeper : Keeper (RunsKept M O) where
  perm := fun hp h => h.mono fun _ _ _ => (hp.countP_eq _).le
  own := fun _ _ _ h => { h with }
  pending := fun _ h => { h with }
  time := fun _ h => { h with }
  instant := fun _ h => { h with }
  less := fun {D s o} ho h => h.mono fun i g tag => by
    have none : Owing.concludes i g tag o = false := by
      cases o with
      | conclusion e r => exact absurd rfl (ho e r)
      | _ => rfl
    rw [List.countP_cons, none]
    exact le_rfl
  parts := fun _ => runsParts _
  frame := fun _ _ _ =>
    { judged := fun _ _ _ _ _ h => RunsKept.debts_sameRuns h ⟨rfl, rfl, rfl, rfl⟩
      collected := fun _ _ h => RunsKept.debts_sameRuns h ⟨rfl, rfl, rfl, rfl⟩ }
  finish := fun o he h => RunsKept.finish o he h
  conclude := fun e o h => RunsKept.conclude e o h
  heard := fun _ _ _ _ _ h => RunsKept.more _ (runs_evidence _ _ _ h)
  noticed := fun _ _ _ _ h => RunsKept.more _ (runs_evidence _ _ _ h)

end Effects

/-! ### Requests to MIRROR channels (R80) -/

theorem Record.mirrorOf_acted {r r' : Record} (h : r.Acted r') {a : Addr}
    (hr : r.mirrorOf a (fun _ => true) = true) : r'.mirrorOf a (fun _ => true) = true := by
  cases r with
  | mirror m =>
    obtain rfl : r' = _ := h
    exact hr
  | home => cases hr
  | unused => cases hr

theorem Record.mirrorOf_staleClaim {r : Record} (a : Addr) (e : Option Byte) {o : Addr}
    (hr : r.mirrorOf o (fun _ => true) = true) :
    (r.staleClaim a e).mirrorOf o (fun _ => true) = true := by
  cases r with
  | mirror m =>
    simp only [Record.staleClaim]
    split <;> exact hr
  | home => cases hr
  | unused => cases hr

/-- What keeps the requests or fewer of them, the mirrors with their owners, and makes no start. -/
theorem RequestsNameMirrors.of_le {s t : State} (h : RequestsNameMirrors s)
    (he : ∀ e ∈ t.requests.entries, ∃ f ∈ s.requests.entries, f.chan = e.chan ∧ f.owner = e.owner)
    (hc : ∀ c a, (s.chan c).mirrorOf a (fun _ => true) = true →
      (t.chan c).mirrorOf a (fun _ => true) = true)
    (hs : t.start.state = .loading → s.start.state = .loading) : RequestsNameMirrors t := by
  obtain ⟨names, none⟩ := h
  refine ⟨fun e h => ?_, fun l => ?_⟩
  · obtain ⟨f, hf, ch, ow⟩ := he e h
    exact ch ▸ ow ▸ hc _ _ (names f hf)
  · rw [List.eq_nil_iff_forall_not_mem]
    intro e h
    obtain ⟨f, hf, -⟩ := he e h
    rw [none (hs l)] at hf
    cases hf

theorem RequestsNameMirrors.of_chans {s t : State} (h : RequestsNameMirrors s)
    (he : t.requests.entries = s.requests.entries)
    (hc : ∀ c a, (s.chan c).mirrorOf a (fun _ => true) = true →
      (t.chan c).mirrorOf a (fun _ => true) = true)
    (hs : t.start.state = .loading → s.start.state = .loading) : RequestsNameMirrors t :=
  h.of_le (fun e m => ⟨e, he ▸ m, rfl, rfl⟩) hc hs

theorem RequestsNameMirrors.setChan {s : State} (h : RequestsNameMirrors s) (c : Chan) {r : Record}
    (hr : ∀ a, (s.chan c).mirrorOf a (fun _ => true) = true → r.mirrorOf a (fun _ => true) = true) :
    RequestsNameMirrors (s.setChan c r) := by
  refine h.of_chans rfl (fun d a hd => ?_) id
  by_cases e : d = c
  · rw [e, State.chan_setChan_self]
    exact hr a (e ▸ hd)
  · rwa [State.chan_setChan_ne s _ e]

theorem RequestsNameMirrors.setHome {s : State} (h : RequestsNameMirrors s) {c : Chan} {r : HomeRec}
    (hc : s.chan c = .home r) (r' : HomeRec) : RequestsNameMirrors (s.setChan c (.home r')) :=
  h.setChan c fun a hr => by
    rw [hc] at hr
    cases hr

theorem RequestsNameMirrors.of_nil {s : State} (h : s.requests.entries = []) :
    RequestsNameMirrors s :=
  ⟨by simp [h], fun _ => h⟩

theorem mirrorsActs : ActsKeep RequestsNameMirrors where
  draws := fun _ h => h
  rival := fun _ _ h => h
  owe := fun _ _ _ h => h
  bump := fun _ h => h
  flash := fun _ h => h
  setSlot := fun _ _ h => h
  tellOutputs := fun _ _ h => h
  offerEmission := fun {s} e h => by
    obtain ⟨em, r, eq⟩ := s.offerEmission_eq e
    rw [eq]
    exact h
  emitterWaiting := fun _ h => h
  waiting := fun _ h => h
  offer := fun {s} c d _ h => by
    obtain ⟨_, q, l, e, _⟩ := s.offer_eq c d
    rw [e]
    exact h
  marked := fun _ _ _ _ h => h
  dropped := fun _ _ _ _ h => h
  settled := fun h => h
  applied := fun _ hc _ h => h.setHome hc _
  dirty := fun _ hc h => h.setHome hc _
  made := fun {s c m} op x o hc active h => by
    obtain ⟨names, _⟩ := h
    refine ⟨fun e he => ?_, fun l => ?_⟩
    · rcases List.mem_append.1 he with he | he
      · exact names e he
      · obtain rfl := List.mem_singleton.1 he
        show (s.chan c).mirrorOf m.owner _ = true
        rw [hc]
        simp [Record.mirrorOf]
    · exact absurd (active.symm.trans l) (by simp)
  removed := fun tag h =>
    h.of_le (fun e he => ⟨e, List.mem_of_mem_filter he, rfl, rfl⟩) (fun _ _ hr => hr) id

theorem mem_modifyFirst {α : Type} {p : α → Bool} {f : α → α} {l : List α} {b : α}
    (h : b ∈ modifyFirst p f l) : b ∈ l ∨ ∃ a ∈ l, p a = true ∧ b = f a := by
  induction l with
  | nil => cases h
  | cons a l ih =>
    unfold modifyFirst at h
    split at h
    next hp =>
      rcases List.mem_cons.1 h with rfl | h
      · exact .inr ⟨a, List.mem_cons_self .., hp, rfl⟩
      · exact .inl (List.mem_cons_of_mem _ h)
    next =>
      rcases List.mem_cons.1 h with rfl | h
      · exact .inl (List.mem_cons_self ..)
      · rcases ih h with h | ⟨c, hc, hp⟩
        · exact .inl (List.mem_cons_of_mem _ h)
        · exact .inr ⟨c, List.mem_cons_of_mem _ hc, hp⟩

theorem mirrorsBase : BaseKeep RequestsNameMirrors :=
  mirrorsActs.base (fun _ _ _ _ _ _ h => h) (fun _ h => h)
    (fun tag h => by
      refine h.of_le (fun e he => ?_) (fun _ _ hr => hr) id
      rcases mem_modifyFirst he with he | ⟨f, hf, -, rfl⟩
      · exact ⟨e, he, rfl, rfl⟩
      · exact ⟨f, hf, rfl, rfl⟩)
    (fun _ _ h => h) (fun _ h => h) (fun _ _ h => h)

theorem mirrorsParts (alone : Prop) : EffectKeep RequestsNameMirrors alone where
  toBaseKeep := mirrorsBase
  silent := fun {s} a _ _ h => by
    refine RequestsNameMirrors.of_chans (s := s) h rfl (fun c o hr => ?_) id
    rw [State.chan_staleClaim]
    exact Record.mirrorOf_staleClaim a none hr
  imageRead := fun {s} answer _ _ hs h => by
    have none := h.2 hs
    rcases s.imageRead_cases answer hs with ⟨_, _, e⟩ | ⟨_, _, e⟩ | ⟨_, _, _, _, e⟩ <;> rw [e]
    · exact .of_nil none
    · exact .of_nil none
    · rw [State.loadSucceeds_eq]
      exact .of_nil none
  lineRestart := fun {s} _ _ _ h => by
    rw [State.lineRestart_eq]
    exact .of_nil rfl
  fresh := fun _ _ _ _ _ _ _ => .of_nil rfl
  joining := fun _ _ h => h.of_chans rfl (fun _ _ hr => hr) (nomatch ·)
  joined := fun {s} _ h col _ => by
    obtain ⟨v, ld, e⟩ := State.joinChans_eq col (nextIncarnation col.latest) s.homeChans
      (s.becomesActive (nextIncarnation col.latest))
    refine h.of_chans (by rw [e]; rfl) (fun c a hr => ?_) fun l => ?_
    · rw [State.chan_joinHomes _ _ s (s.becomesActive _) rfl]
      cases hc : s.chan c with
      | mirror m => rwa [hc] at hr
      | home => rw [hc] at hr; cases hr
      | unused => rw [hc] at hr; cases hr
    · rw [e] at l
      cases l
  scan := mirrorsBase.gestures.scan fun _ h => h
  stuck := mirrorsBase.gestures.stuckExpiry fun _ h => h
  irRead := fun _ _ _ h => h
  irHeld := fun _ _ h => h
  emissionFrame := fun {s} h => by
    unfold State.emissionFrame
    split
    · split <;> exact h
    · exact h
  nextEmission := fun _ _ h => h
  lastEmission := fun _ _ h => h
  blankingEnd := fun {s} h => by
    unfold State.blankingEnd
    split
    · split <;> exact h
    · exact h
  stepOutput := fun _ h => h

theorem mirrors_evidence {s : State} (src : Addr) (i : Byte) (p : Option Byte)
    (h : RequestsNameMirrors s) : RequestsNameMirrors (s.evidence src i p).2 := by
  refine mirrorsBase.hand.evidence (fun _ => ?_) (fun _ _ => ?_) h
  · rw [State.enterConflict_eq]
    exact .of_nil rfl
  · refine State.noted_keeps h fun {t} e ht => ?_
    refine RequestsNameMirrors.of_chans (s := t) ht rfl (fun c o hr => ?_) id
    rw [State.chan_staleClaim]
    exact Record.mirrorOf_staleClaim src e hr

theorem mirrorsKeeper : Keeper fun _ s => RequestsNameMirrors s :=
  Keeper.plain mirrorsActs mirrorsParts (fun _ _ _ h => h) (fun _ h => h) (fun _ h => h)
    (fun _ =>
      { judged := fun {s t m} _ _ _ hc _ h =>
          RequestsNameMirrors.setChan h _ fun a hr => by
            rw [hc] at hr
            exact hr
        collected := fun {s c} _ hj h => h.of_chans rfl (fun _ _ hr => hr) id })
    (fun _ _ h => mirrors_evidence _ _ _ h) (fun _ h => mirrors_evidence _ _ _ h)

/-! ### The obligations -/

/-- Between steps no part is owed, and no rival is to come (log entry 37). -/
theorem quiet_of_step {s t : State} (h : s.Quiet) (ht : Machine.step s = .next t) : t.Quiet := by
  rcases step_cases ht with rfl | ⟨c, rest, ht⟩
  · exact h
  · rcases exec_cases ht with ⟨_, _, _, _, rfl⟩ | rfl | ⟨low, rfl⟩ | ⟨hc, ht⟩
    · exact ⟨rfl, rfl⟩
    · exact h.of_eq rfl rfl
    · exact h.of_eq rfl rfl
    · rcases event_cases _ _ _ with ⟨e, _⟩ | ⟨e, _⟩ | e | ⟨_, ds, u, _, _, e⟩ <;>
        rw [e] at ht <;> obtain rfl := Host.Outcome.next.inj ht
      · exact h.of_eq rfl rfl
      · exact h.of_eq rfl rfl
      · exact happens_quiet _ hc (s := State.calm _ 0) ⟨rfl, rfl⟩
      · exact (State.meet_quiet ds u).of_eq rfl rfl

theorem RunsKept.of_sound {M O : Prop} {s : State} (h : RequestsSound s)
    (bounded : M → MacrosBounded s) (rest : M → RunsAtRest s) (outstanding : O → OutstandingPresent s) :
    RunsKept M O [] s := by
  obtain ⟨size, tags, tableOrder, emitterOrder, table, emitter, stack, -, -⟩ := h
  refine ⟨⟨size, tags, tableOrder, emitterOrder, table, emitter, fun i => ⟨stack i, ?_, ?_⟩⟩,
    bounded, rest⟩
  · exact fun o => (outstanding o i).2.1
  · intro o tag
    obtain ⟨nodup, -, there⟩ := outstanding o i
    by_cases ht : tag ∈ (s.slot i).outstanding
    · obtain ⟨e, he, mine⟩ := there tag ht
      have one : 0 < s.requests.entries.countP (ReqEntry.isOf i (s.slot i).generation tag) :=
        List.countP_pos_iff.2 ⟨e, he, by simp [ReqEntry.isOf, mine]⟩
      have once := List.nodup_iff_count_le_one.1 nodup tag
      unfold awaited
      omega
    · rw [List.count_eq_zero_of_not_mem ht]
      exact Nat.zero_le _

/-- Settles O57: the requests name mirrors, the orders and the stacks keep their bounds, and no run performs
more steps in one event than it may. -/
theorem requestsStaySound : Obligations.RequestsStaySound := by
  unfold Obligations.RequestsStaySound
  intro s t ht
  refine ⟨fun h => mirrorsKeeper.step h ht, fun sound => ?_⟩
  have quiet := quiet_of_step ⟨sound.2.2.2.2.2.2.2.1, sound.2.2.2.2.2.2.2.2⟩ ht
  refine ⟨?_, fun bounded rest => ?_⟩
  · have kept := runsKeeper.step
      (RunsKept.of_sound (M := False) (O := False) sound (·.elim) (·.elim) (·.elim)) ht
    exact ⟨kept.size, kept.tags, kept.tableOrder, kept.emitterOrder, kept.table, kept.emitter,
      fun i => (kept.slots i).stack, quiet.1, quiet.2⟩
  · have kept := runsKeeper.step
      (RunsKept.of_sound (M := True) (O := False) sound (fun _ => bounded) (fun _ => rest) (·.elim)) ht
    exact ⟨kept.bounded trivial, kept.rest trivial⟩

/-- Settles O58: an outstanding tag is awaited from its own entry or from an outcome still owed, and between
steps nothing is owed. -/
theorem runsHoldTheirRequests : Obligations.RunsHoldTheirRequests := by
  unfold Obligations.RunsHoldTheirRequests
  intro s t sound present ht i
  have kept := runsKeeper.step
    (RunsKept.of_sound (M := False) (O := True) sound (·.elim) (·.elim) (fun _ => present)) ht
  obtain ⟨-, idle, outstanding⟩ := kept.slots i
  have once (tag : Byte) :
      t.requests.entries.countP (ReqEntry.isOf i (t.slot i).generation tag) ≤ 1 :=
    calc
      _ ≤ t.requests.entries.countP (fun e => e.tag == tag) :=
        List.countP_mono_left fun e _ he => (Bool.and_eq_true_iff.1 he).1
      _ = (t.requests.entries.map ReqEntry.tag).count tag := by
        rw [List.count, List.countP_map]
        rfl
      _ ≤ 1 := List.nodup_iff_count_le_one.1 kept.tags tag
  refine ⟨List.nodup_iff_count_le_one.2 fun tag => ?_, idle trivial, fun tag hm => ?_⟩
  · exact (outstanding trivial tag).trans (once tag)
  · have awaits := outstanding trivial tag
    have some : 0 < (t.slot i).outstanding.count tag := List.count_pos_iff.2 hm
    have entry : 0 < t.requests.entries.countP (ReqEntry.isOf i (t.slot i).generation tag) :=
      Nat.lt_of_lt_of_le some awaits
    obtain ⟨e, he, mine⟩ := List.countP_pos_iff.1 entry
    simp only [ReqEntry.isOf, Bool.and_eq_true, beq_iff_eq] at mine
    exact ⟨e, he, mine⟩

end Sys2Proof.Machine
end

section
/-! PROOFS. The Transmit Queue, the Line Unit and the fetch-outstanding flags: what one entry that joins,
leaves or changes does to the invariants (R20, R47), and what the moves of the Line Unit do (R3, R5). -/

namespace Sys2Proof.Machine

/-! ### The entries of the queue (R20) -/

/-- The entries are sound, the notice of an eviction apart. -/
structure QueueKept (es : List Entry) : Prop where
  length    : es.length ≤ 12
  announces : es.countP (fun e => e.content.isAnnounce) ≤ 1
  single    : es.countP Entry.onLine ≤ 1
  sound     : ∀ e ∈ es, e.sound

theorem QueueKept.sublist {es es' : List Entry} (h : QueueKept es) (hs : es'.Sublist es) :
    QueueKept es' :=
  ⟨hs.length_le.trans h.length, (hs.countP_le ..).trans h.announces,
    (hs.countP_le ..).trans h.single, fun e he => h.sound e (hs.subset he)⟩

theorem QueueKept.nil : QueueKept [] := ⟨by simp, by simp, by simp, by simp⟩

theorem sublist_remove (before : List Entry) (e : Entry) (after : List Entry) :
    (before ++ after).Sublist (before ++ e :: after) :=
  (List.Sublist.refl before).append (List.sublist_cons_self e after)

/-- An entry changes where it stands: no other one is on the line, if it comes to be. -/
theorem QueueKept.replace {before after : List Entry} {e e' : Entry}
    (h : QueueKept (before ++ e :: after)) (ha : e'.content.isAnnounce = e.content.isAnnounce)
    (hl : e'.onLine = true → e.onLine = true ∨ ∀ f ∈ before ++ after, f.onLine = false)
    (hs : e'.sound) : QueueKept (before ++ e' :: after) := by
  obtain ⟨length, announces, single, sound⟩ := h
  refine ⟨by simpa using length, ?_, ?_, fun f hf => ?_⟩
  · simp only [List.countP_append, List.countP_cons] at announces ⊢
    rwa [ha]
  · simp only [List.countP_append, List.countP_cons] at single ⊢
    by_cases on : e'.onLine = true
    · rcases hl on with before' | none
      · rw [before'] at single
        rwa [on]
      · have quiet : (before ++ after).countP Entry.onLine = 0 :=
          List.countP_eq_zero.2 fun f hf => by simp [none f hf]
        rw [List.countP_append] at quiet
        rw [on]
        simp only [if_true]
        omega
    · rw [Bool.not_eq_true] at on
      rw [on]
      simp only [Bool.false_eq_true, if_false]
      omega
  · rcases List.mem_append.1 hf with hf | hf
    · exact sound f (List.mem_append_left _ hf)
    · rcases List.mem_cons.1 hf with rfl | hf
      · exact hs
      · exact sound f (List.mem_append_right _ (List.mem_cons_of_mem _ hf))

/-- A new entry joins. -/
theorem QueueKept.join {es : List Entry} (h : QueueKept es) (c : Content) (dest : Addr)
    (room : es.length < 12) (ha : c.isAnnounce = true → ∀ e ∈ es, e.content.isAnnounce = false) :
    QueueKept (es ++ [Entry.new c dest]) := by
  refine ⟨by simpa using room, ?_, ?_, fun e he => ?_⟩
  · rw [List.countP_append, List.countP_singleton]
    by_cases new : c.isAnnounce = true
    · rw [List.countP_eq_zero.2 fun e he => by simp [ha new e he]]
      simp only [Nat.zero_add]
      split <;> simp
    · have none : (Entry.new c dest).content.isAnnounce = false := by simpa [Entry.new] using new
      simpa [none] using h.announces
  · rw [List.countP_append, List.countP_singleton]
    simpa [Entry.new] using h.single
  · rcases List.mem_append.1 he with he | he
    · exact h.sound e he
    · obtain rfl := List.mem_singleton.1 he
      exact ⟨Nat.zero_le _, fun _ => rfl, (nomatch ·)⟩

/-- The entry on the line stands between entries that are not. -/
theorem QueueKept.alone {before after : List Entry} {e : Entry}
    (h : QueueKept (before ++ e :: after)) (he : e.onLine = true) :
    ∀ f ∈ before ++ after, f.onLine = false := by
  have single := h.single
  simp only [List.countP_append, List.countP_cons, he, if_true] at single
  have none : (before ++ after).countP Entry.onLine = 0 := by
    rw [List.countP_append]
    omega
  exact fun f hf => by simpa using List.countP_eq_zero.1 none f hf

/-! ### What changes leave of the line and of the FETCH entries -/

theorem any_onLine_append {before after : List Entry} (e : Entry) :
    (before ++ e :: after).any Entry.onLine = (e.onLine || (before ++ after).any Entry.onLine) := by
  simp only [List.any_append, List.any_cons]
  cases before.any Entry.onLine <;> cases e.onLine <;> rfl

theorem countP_fetches_append {before after : List Entry} (e : Entry) (a : Addr) :
    (before ++ e :: after).countP (Entry.fetches a)
      = (before ++ after).countP (Entry.fetches a) + if e.fetches a then 1 else 0 := by
  simp only [List.countP_append, List.countP_cons]
  omega

/-- Only a FETCH fetches. -/
theorem Entry.fetches_of_ne {e : Entry} (h : e.content.kind ≠ kindFetch) (a : Addr) :
    e.fetches a = false := by
  simp [Entry.fetches, h]

theorem Content.cls_fetch {c : Content} (h : c.kind = kindFetch) : c.cls = 2 := by
  unfold Content.cls
  rw [h]
  rfl

/-- No FETCH is evicted (R23). -/
theorem Entry.evicted_ne_fetch {e : Entry} (h : e.content.cls = 3 ∨ e.content.isAnnounce = true) :
    e.content.kind ≠ kindFetch := by
  intro hk
  rcases h with h | h
  · rw [Content.cls_fetch hk] at h
    cases h
  · obtain ⟨cs, hc⟩ := (Content.kind_eq_fetch _).1 hk
    rw [hc] at h
    cases h

/-- Entries that change where they stand, by content and destination the same to a FETCH. -/
structure SameLine (es es' : List Entry) : Prop where
  onLine : es'.any Entry.onLine = es.any Entry.onLine
  fetches : ∀ a, es'.countP (Entry.fetches a) = es.countP (Entry.fetches a)

theorem SameLine.refl (es : List Entry) : SameLine es es := ⟨rfl, fun _ => rfl⟩

theorem SameLine.trans {es es' es'' : List Entry} (h : SameLine es es') (k : SameLine es' es'') :
    SameLine es es'' :=
  ⟨k.onLine.trans h.onLine, fun a => (k.fetches a).trans (h.fetches a)⟩

theorem SameLine.remove {before after : List Entry} {e : Entry} (he : e.onLine = false)
    (hk : e.content.kind ≠ kindFetch) : SameLine (before ++ e :: after) (before ++ after) where
  onLine := by rw [any_onLine_append, he, Bool.false_or]
  fetches a := by
    rw [countP_fetches_append, Entry.fetches_of_ne hk]
    rfl

theorem SameLine.replace {before after : List Entry} {e e' : Entry} (hl : e'.onLine = e.onLine)
    (hf : ∀ a, e'.fetches a = e.fetches a) :
    SameLine (before ++ e :: after) (before ++ e' :: after) where
  onLine := by rw [any_onLine_append, any_onLine_append, hl]
  fetches a := by rw [countP_fetches_append, countP_fetches_append, hf]

/-- What a class-0 offer may evict, or room (R22, R23). -/
theorem TxQueue.Behind.kept {q : TxQueue} {es : List Entry} (h : q.Behind es)
    (hq : QueueKept q.entries) : QueueKept es ∧ es.length < 12 ∧ SameLine q.entries es := by
  rcases h with ⟨rfl, room⟩ | ⟨q', he, rfl⟩
  · exact ⟨hq, room, .refl _⟩
  · obtain ⟨before, e, after, h1, h2, h3, h4, -⟩ := TxQueue.evict_eq_some he
    rw [h1] at hq
    have size := hq.length
    rw [h1, h2]
    refine ⟨hq.sublist (sublist_remove _ _ _), ?_, .remove h3 (Entry.evicted_ne_fetch h4)⟩
    simp only [List.length_append, List.length_cons] at size ⊢
    omega

theorem Content.merge_kind (c : Content) (t : Triple) (ps : List Pair) :
    (c.merge t ps).kind = c.kind := by
  cases c <;> rfl

theorem Content.merge_isAnnounce (c : Content) (t : Triple) (ps : List Pair) :
    (c.merge t ps).isAnnounce = c.isAnnounce := by
  cases c <;> rfl

/-- An offer keeps the entries sound; it admits at most one new entry (R22). -/
theorem TxQueue.offer_kept (q : TxQueue) (st : StationState) (c : Content) (dest : Addr)
    (h : QueueKept q.entries) :
    QueueKept (q.offer st c dest).2.entries
      ∧ (q.offer st c dest).2.entries.any Entry.onLine = q.entries.any Entry.onLine
      ∧ ∀ a, (q.offer st c dest).2.entries.countP (Entry.fetches a)
          = q.entries.countP (Entry.fetches a)
            + if (q.offer st c dest).1 = .admitted ∧ (Entry.new c dest).fetches a = true then 1 else 0 := by
  rcases q.offer_cases st c dest with (e | e) | ⟨t, ps, -, e⟩ | ⟨es, ev, behind, -, new, e, -⟩ <;> rw [e]
  · exact ⟨h, rfl, fun a => by simp⟩
  · exact ⟨h, rfl, fun a => by simp⟩
  · rcases modifyLast_cases (fun e => e.content.isChangeOf t.chan)
        (fun e : Entry => { e with content := e.content.merge t ps }) q.entries with
      e | ⟨before, x, after, h1, -, e⟩ <;> dsimp only <;> rw [e]
    · exact ⟨h, rfl, fun a => by simp⟩
    · rw [h1] at h ⊢
      have same : SameLine (before ++ x :: after)
          (before ++ { x with content := x.content.merge t ps } :: after) :=
        .replace rfl fun a => by simp [Entry.fetches, Content.merge_kind]
      obtain ⟨attempts, held, withdrawn⟩ := h.sound x (by simp)
      refine ⟨h.replace (Content.merge_isAnnounce _ _ _) .inl ⟨attempts, held, fun hw => ?_⟩,
        same.onLine, fun a => by simp [same.fetches a]⟩
      exact ⟨(withdrawn hw).1, by
        rw [Content.cls, Content.merge_kind]
        exact (withdrawn hw).2⟩
  · obtain ⟨kept, room, same⟩ := behind.kept h
    refine ⟨kept.join c dest room fun hc x hx => ?_, ?_, fun a => ?_⟩
    · have none := new hc
      rw [List.any_eq_false] at none
      have inside : x ∈ q.entries := by
        rcases behind with ⟨rfl, -⟩ | ⟨q', he, rfl⟩
        · exact hx
        · obtain ⟨before, y, after, h1, h2, -⟩ := TxQueue.evict_eq_some he
          rw [h1]
          rw [h2] at hx
          exact (sublist_remove before y after).subset hx
      simpa using none x inside
    · show (es ++ [Entry.new c dest]).any Entry.onLine = _
      rw [List.any_append, same.onLine]
      simp [Entry.new]
    · show (es ++ [Entry.new c dest]).countP (Entry.fetches a) = _
      rw [List.countP_append, same.fetches, List.countP_singleton]
      simp

/-! ### The Line Unit (R3, R5) -/

/-- The Line Unit is sound for a pending restart and a station state. -/
structure LineKept (l : LineUnit) (r : PendingRestart) (st : StationState) : Prop where
  sending   : l.attempt.isSome = true → l.activity.transmits ∧ l.condition = .busy
  reception : l.reception.isSome = decide (l.activity = .receiving)
  answer    : l.answer.isSome = true → l.activity = .answering
  idle      : l.condition = .idle → l.activity = .waiting
  restart   : r ≠ .clear → l.attempt = none
  others    : l.wire.others ≤ l.wire.freed
  freed     : l.wire.freed ≤ l.wire.quiet
  deaf      : st ∈ [.loading, .listening, .addressConflict] → l.attempt = none ∧ l.answer = none

/-- The order of the moments of a line (R3). -/
def Wire.Ordered (w : Wire) : Prop := w.others ≤ w.freed ∧ w.freed ≤ w.quiet

theorem Wire.Ordered.pull {w : Wire} (h : w.Ordered) (start low : Time) : (w.pull start low).Ordered := by
  obtain ⟨h1, h2⟩ := h
  unfold Wire.pull
  split
  next recessive =>
    exact ⟨h1.trans (recessive.trans (Nat.le_add_right start low)),
      Nat.add_le_add_left (le_max_left low bitTime) start⟩
  next => exact ⟨h1.trans (le_max_left _ _), max_le_max h2 le_rfl⟩

theorem Wire.Ordered.pullBy {w : Wire} (h : w.Ordered) (now others own : Time) :
    (w.pullBy now others own).Ordered := by
  obtain ⟨h1, h2⟩ := h.pull now (max others own)
  refine ⟨?_, h2⟩
  have reached : now + others ≤ (w.pull now (max others own)).freed := by
    have longer : now + others ≤ now + max others own := Nat.add_le_add_left (le_max_left _ _) now
    unfold Wire.pull
    split
    · exact longer
    · exact longer.trans (le_max_right _ _)
  have kept : w.others ≤ (w.pull now (max others own)).freed := by
    refine le_trans ?_ h1
    unfold Wire.pull
    split <;> exact le_rfl
  exact max_le kept reached

theorem Wire.held_ordered (w : Wire) (start low : Time) : (w.held start low).Ordered :=
  ⟨le_rfl, le_max_left _ _⟩

theorem Wire.Ordered.release {w : Wire} (h : w.Ordered) (now : Time) : (w.release now).Ordered :=
  ⟨le_min h.1 (le_max_left _ _), le_max_left _ _⟩

theorem Wire.Ordered.heard {w : Wire} (h : w.Ordered) (now : Time) : (w.heard now).Ordered :=
  ⟨h.1, h.2.trans (le_max_left _ _)⟩

theorem Wire.Ordered.restart {w : Wire} (h : w.Ordered) (now : Time) : (w.restart now).Ordered :=
  ⟨(h.release now).1, le_max_right _ _⟩

namespace LineKept

variable {l : LineUnit} {r : PendingRestart} {st : StationState} (h : LineKept l r st)
include h

theorem ordered : l.wire.Ordered := ⟨h.others, h.freed⟩

/-- Outside the activities of a transmitter there is no attempt. -/
theorem attempt_none (ha : ¬ l.activity.transmits) : l.attempt = none := by
  by_contra hn
  exact ha (h.sending (Option.isSome_iff_ne_none.2 hn)).1

theorem answer_none (ha : l.activity ≠ .answering) : l.answer = none := by
  by_contra hn
  exact ha (h.answer (Option.isSome_iff_ne_none.2 hn))

/-- Another level of the line. -/
theorem setWire {w : Wire} (hw : w.Ordered) : LineKept { l with wire := w } r st :=
  { h with others := hw.1, freed := hw.2 }

/-- A station state in which attempts and slots are allowed, or in which they were not before either. -/
theorem setState {st' : StationState}
    (hs : st' ∈ [StationState.loading, .listening, .addressConflict] →
      l.attempt = none ∧ l.answer = none) : LineKept l r st' :=
  { h with deaf := hs }

theorem setRestart {r' : PendingRestart} (hr : r' ≠ .clear → l.attempt = none) : LineKept l r' st :=
  { h with restart := hr }

/-- As time passes an attempt in progress moves on (R5). -/
theorem advance (now : Time) : LineKept (l.at now) r st := by
  unfold LineUnit.at
  split
  next a ha =>
    obtain ⟨transmits, busy⟩ := h.sending (by rw [ha]; rfl)
    have moving : (activityAt now a).transmits := by
      unfold activityAt
      split
      · exact .inl rfl
      · split
        · exact .inr (.inl rfl)
        · exact .inr (.inr rfl)
    have noReception : l.reception.isSome = false := by
      rw [h.reception]
      rcases transmits with e | e | e <;> simp [e]
    have noAnswer : l.answer = none := h.answer_none (by rcases transmits with e | e | e <;> simp [e])
    have wire := h.ordered.pull (a.edge (a.bitAt now)) (lowTime (a.bits.getD (a.bitAt now) true))
    refine ⟨fun _ => ⟨moving, busy⟩, ?_, fun e => ?_, fun e => ?_, h.restart, wire.1, wire.2, h.deaf⟩
    · show l.reception.isSome = decide (activityAt now a = .receiving)
      rw [noReception]
      rcases moving with e | e | e <;> simp [e]
    · have e : l.answer.isSome = true := e
      rw [noAnswer] at e
      cases e
    · exact absurd (busy.symm.trans e) (by simp)
  next => exact h

/-- The Line Unit hands its attempt back, for an activity other than WAITING (R10, R11, R19). -/
theorem endsAttempt {a : Activity} {rx : Option Reception} {w : Wire} (busy : l.condition ≠ .idle)
    (hr : rx.isSome = decide (a = .receiving)) (hl : l.answer = none)
    (hw : w.Ordered) :
    LineKept { l with activity := a, attempt := none, reception := rx, wire := w } r st :=
  ⟨(nomatch ·), hr, fun e => absurd (show l.answer.isSome = true from e) (by simp [hl]),
    fun e => absurd e busy, fun _ => rfl, hw.1, hw.2, fun hs => ⟨rfl, (h.deaf hs).2⟩⟩

end LineKept

end Sys2Proof.Machine
end

section
/-! PROOFS. The Transmit Queue with the Line Unit kept sound by actions and by the receiving side (R3, R5, R20,
R47). -/

namespace Sys2Proof.Machine

/-- The queue and the Line Unit are sound together, the notice of an eviction apart; and for the addresses
that are asked for, the fetch-outstanding flag stands for the one FETCH queued. -/
structure TxKept (F : Addr → Prop) (s : State) : Prop where
  queue  : QueueKept s.queue.entries
  onLine : s.line.attempt.isSome = s.queue.entries.any Entry.onLine
  line   : LineKept s.line s.service.restart s.start.state
  fetch  : ∀ a, F a →
    s.queue.entries.countP (Entry.fetches a) = if (s.peer a).fetchOut then 1 else 0

namespace TxKept

variable {F : Addr → Prop} {s : State}

/-! ### The start of an attempt (R9) -/

/-- Where an attempt may begin there is none, nor a reception or a slot. -/
theorem waiting_of_mayBegin (h : TxKept F s) (hm : s.mayBegin = true) :
    s.line.activity = .waiting ∧ s.line.attempt = none ∧ s.line.answer = none
      ∧ s.service.restart = .clear := by
  unfold State.mayBegin at hm
  simp only [Bool.and_eq_true, beq_iff_eq] at hm
  obtain ⟨⟨-, waiting⟩, clear⟩ := hm
  exact ⟨waiting, h.line.attempt_none (by simp [Activity.transmits, waiting]),
    h.line.answer_none (by simp [waiting]), clear⟩

theorem modifyAt_append {α : Type} (f : α → α) (before : List α) (a : α) (after : List α) :
    modifyAt f before.length (before ++ a :: after) = before ++ f a :: after := by
  induction before with
  | nil => rfl
  | cons b before ih =>
    show b :: modifyAt f before.length (before ++ a :: after) = _
    rw [ih]
    rfl

/-- The chosen entry goes on the line. -/
theorem beginWith (h : TxKept F s) {i : Nat} {e : Entry} (hc : s.chosen = some (i, e))
    (hm : s.mayBegin = true) :
    TxKept F (s.beginWith i e)
      ∧ ∀ a, (s.beginWith i e).queue.entries.countP (Entry.fetches a)
          = s.queue.entries.countP (Entry.fetches a) := by
  obtain ⟨before, after, split, hi, eligible, -⟩ := bestEligible_spec hc
  rw [Nat.zero_add] at hi
  subst hi
  obtain ⟨waiting, attempt, answer, clear⟩ := h.waiting_of_mayBegin hm
  simp only [Entry.eligible, Entry.ready, Bool.and_eq_true, Bool.not_eq_true',
    Option.isNone_iff_eq_none] at eligible
  obtain ⟨⟨off, ready⟩, sent⟩ := eligible
  have none : ∀ f ∈ s.queue.entries, f.onLine = false := by
    have quiet := h.onLine
    rw [attempt] at quiet
    intro f hf
    have := List.any_eq_false.1 quiet.symm f hf
    simpa using this
  have entries : (s.beginWith before.length e).queue.entries
      = before ++ { e with onLine := true, carried := s.carriedBy e.content } :: after := by
    show modifyAt _ before.length s.queue.entries = _
    rw [split, modifyAt_append]
  have kept := h.queue
  rw [split] at kept none
  obtain ⟨attempts, -, withdrawn⟩ := kept.sound e (by simp)
  have count (a : Addr) : (s.beginWith before.length e).queue.entries.countP (Entry.fetches a)
      = s.queue.entries.countP (Entry.fetches a) := by
    rw [entries, split, countP_fetches_append, countP_fetches_append]
  refine ⟨⟨?_, ?_, ?_, fun a ha => (count a).trans (h.fetch a ha)⟩, count⟩
  · rw [entries]
    refine kept.replace rfl (fun _ => .inr fun f hf => none f ((sublist_remove _ _ _).subset hf))
      ⟨attempts, fun _ => ready, fun hw => ?_⟩
    exact ⟨rfl, (withdrawn hw).2⟩
  · rw [entries, any_onLine_append]
    rfl
  · have line := h.line
    have noReception : s.line.reception.isSome = false := by
      rw [line.reception, waiting]
      rfl
    have wire := line.ordered.pull
    refine ⟨fun _ => ⟨.inl rfl, rfl⟩, noReception, fun e => ?_, (nomatch ·), fun hr => absurd clear hr,
      (wire _ _).1, (wire _ _).2, fun hs => ?_⟩
    · exact absurd (show s.line.answer.isSome = true from e) (by simp [answer])
    · have hs : s.start.state ∈ [StationState.loading, .listening, .addressConflict] := hs
      exfalso
      revert sent
      simp only [List.mem_cons, List.not_mem_nil, or_false] at hs
      rcases hs with e | e | e <;> rw [e] <;> simp [mayBeSent]

theorem beginAt (h : TxKept F s) (i : Nat) :
    TxKept F (s.beginAt i)
      ∧ ∀ a, (s.beginAt i).queue.entries.countP (Entry.fetches a)
          = s.queue.entries.countP (Entry.fetches a) := by
  rcases s.beginAt_cases i with e | ⟨e, hc, hm, eq⟩
  · rw [e]
    exact ⟨h, fun _ => rfl⟩
  · rw [eq]
    exact h.beginWith hc hm

/-! ### Offers (R22) -/

/-- An offer keeps queue and line, where the new entry is no FETCH to an address asked for. -/
theorem offer_counts (h : TxKept F s) (c : Content) (dest : Addr)
    (hF : ∀ a, F a → (Entry.new c dest).fetches a = false) :
    TxKept F (s.offer c dest).2
      ∧ ∀ a, (s.offer c dest).2.queue.entries.countP (Entry.fetches a)
          = s.queue.entries.countP (Entry.fetches a)
            + if (s.offer c dest).1 = .admitted ∧ (Entry.new c dest).fetches a = true then 1 else 0 := by
  obtain ⟨kept, onLine, count⟩ := s.queue.offer_kept s.start.state c dest h.queue
  have placed : TxKept F { s with queue := (s.queue.offer s.start.state c dest).2 } :=
    ⟨kept, h.onLine.trans onLine.symm, h.line, fun a ha => by
      refine (count a).trans (Eq.trans ?_ (h.fetch a ha))
      simp [hF a ha]⟩
  unfold State.offer
  dsimp only
  split
  next admitted =>
    obtain ⟨begun, same⟩ := placed.beginAt ((s.queue.offer s.start.state c dest).2.entries.length - 1)
    exact ⟨begun, fun a => (same a).trans (count a)⟩
  next => exact ⟨placed, count⟩

theorem offer (h : TxKept F s) {c : Content} (dest : Addr) (hc : c.kind ≠ kindFetch) :
    TxKept F (s.offer c dest).2 :=
  (h.offer_counts c dest fun a _ => Entry.fetches_of_ne hc a).1

/-- A FETCH decision: the flag is set with the entry (R47, R75). -/
theorem fetchDecision (h : TxKept F s) (a : Addr) : TxKept F (s.fetchDecision a) := by
  unfold State.fetchDecision
  split
  next would =>
    have flag : (s.peer a).fetchOut = false := by
      simp only [State.wouldFetch, Bool.and_eq_true, Bool.not_eq_true'] at would
      exact would.1.2
    have others : TxKept (fun b => F b ∧ b ≠ a) s := { h with fetch := fun b hb => h.fetch b hb.1 }
    obtain ⟨kept, count⟩ := others.offer_counts (.fetch (s.wanted a)) a fun b hb => by
      simp [Entry.fetches, Entry.new, hb.2.symm]
    have peer (b : Addr) : (s.offer (.fetch (s.wanted a)) a).2.peer b = s.peer b :=
      State.peer_congr (s.offer_acts _ a).peers b
    have mine (ha : F a) : (s.offer (.fetch (s.wanted a)) a).2.queue.entries.countP (Entry.fetches a)
        = if (s.offer (.fetch (s.wanted a)) a).1 = .admitted then 1 else 0 := by
      rw [count a, h.fetch a ha, flag]
      simp [Entry.fetches, Entry.new, Content.kind]
    dsimp only
    split
    next admitted =>
      refine { kept with fetch := fun b hb => ?_ }
      by_cases e : b = a
      · rw [e, State.peer_setPeer_self]
        exact (mine (e ▸ hb)).trans (by rw [if_pos admitted]; rfl)
      · rw [State.peer_setPeer_ne _ _ e]
        exact kept.fetch b ⟨hb, e⟩
    next refused =>
      refine { kept with fetch := fun b hb => ?_ }
      by_cases e : b = a
      · rw [e, peer, flag, mine (e ▸ hb), if_neg refused]
        rfl
      · exact kept.fetch b ⟨hb, e⟩
  next => exact h

/-- A peer record with the same flag may be written. -/
theorem setPeer (h : TxKept F s) (a : Addr) {r : PeerRec} (hr : r.fetchOut = (s.peer a).fetchOut) :
    TxKept F (s.setPeer a r) := by
  refine { h with fetch := fun b hb => ?_ }
  by_cases e : b = a
  · rw [e, State.peer_setPeer_self, hr]
    exact h.fetch a (e ▸ hb)
  · rw [State.peer_setPeer_ne s r e]
    exact h.fetch b hb

/-! ### Withdrawals (R35) -/

/-- The queue with an entry changed or taken out where it stands. -/
theorem setEntries (h : TxKept F s) {es : List Entry} (kept : QueueKept es)
    (same : SameLine s.queue.entries es) (ev : Bool) :
    TxKept F { s with queue := { entries := es, evicted := ev } } :=
  ⟨kept, h.onLine.trans same.onLine.symm, h.line,
    fun a ha => (same.fetches a).trans (h.fetch a ha)⟩

/-- The first entry with a property. -/
theorem split_of_find? {p : Entry → Bool} {es : List Entry} {e : Entry} (h : es.find? p = some e) :
    ∃ before after, es = before ++ e :: after ∧ p e = true ∧ ∀ f ∈ before, p f = false := by
  obtain ⟨hp, before, after, split, none⟩ := List.find?_eq_some_iff_append.1 h
  exact ⟨before, after, split, hp, fun f hf => by simpa using none f hf⟩

theorem modifyFirst_append {p : Entry → Bool} (f : Entry → Entry) {before after : List Entry}
    {e : Entry} (he : p e = true) (hb : ∀ x ∈ before, p x = false) :
    modifyFirst p f (before ++ e :: after) = before ++ f e :: after := by
  induction before with
  | nil => simp [modifyFirst, he]
  | cons b before ih =>
    simp only [List.mem_cons, forall_eq_or_imp] at hb
    simp [modifyFirst, hb.1, ih hb.2]

theorem eraseP_append {p : Entry → Bool} {before after : List Entry} {e : Entry} (he : p e = true)
    (hb : ∀ x ∈ before, p x = false) : (before ++ e :: after).eraseP p = before ++ after := by
  rw [List.eraseP_append_right _ fun x hx => by simp [hb x hx], List.eraseP_cons_of_pos he]

theorem Entry.request_cls {e : Entry} {tag : Byte} (h : e.content.isRequest tag = true) :
    e.content.cls = 0 ∧ e.content.kind ≠ kindFetch := by
  cases hc : e.content with
  | request t c op x => exact ⟨rfl, by simp [Content.kind, kindRequest, kindFetch]⟩
  | _ => simp [hc, Content.isRequest] at h

theorem acts : ActsKeep (TxKept F) where
  draws := fun _ h => { h with }
  rival := fun _ _ h => { h with }
  owe := fun _ _ _ h => { h with }
  bump := fun _ h => { h with }
  flash := fun _ h => { h with }
  setSlot := fun _ _ h => { h with }
  tellOutputs := fun _ _ h => { h with }
  offerEmission := fun {s} e h => by
    obtain ⟨em, r, eq⟩ := s.offerEmission_eq e
    rw [eq]
    exact { h with }
  emitterWaiting := fun _ h => { h with }
  waiting := fun _ h => { h with }
  offer := fun _ d hc h => h.offer d hc
  marked := fun {s} tag e he hl h => by
    obtain ⟨before, after, split, request, none⟩ := split_of_find? he
    have entries := modifyFirst_append (p := fun e => e.content.isRequest tag)
      (fun e => { e with withdrawn := true }) (after := after) request none
    rw [← split] at entries
    rw [entries]
    have kept := h.queue
    rw [split] at kept
    obtain ⟨attempts, held, -⟩ := kept.sound e (by simp)
    refine h.setEntries
      (kept.replace (e' := { e with withdrawn := true }) rfl .inl
        ⟨attempts, held, fun _ => ⟨hl, (Entry.request_cls request).1⟩⟩) ?_ s.queue.evicted
    rw [split]
    exact .replace rfl fun _ => rfl
  dropped := fun {s} tag e he hl h => by
    obtain ⟨before, after, split, request, none⟩ := split_of_find? he
    have entries := eraseP_append (p := fun e => e.content.isRequest tag) (after := after)
      request none
    rw [← split] at entries
    rw [entries]
    have kept := h.queue
    rw [split] at kept
    refine h.setEntries (kept.sublist (sublist_remove _ _ _)) ?_ s.queue.evicted
    rw [split]
    exact .remove hl (Entry.request_cls request).2
  settled := fun h => { h with }
  applied := fun _ _ _ h => { h with }
  dirty := fun _ _ h => { h with }
  made := fun _ _ _ _ _ h => { h with }
  removed := fun _ h => { h with }

theorem hand : HandKeep (TxKept F) where
  owe := acts.owe
  draws := acts.draws
  bump := acts.bump
  offer := fun c d => acts.offer c d
  fetchDecision := fun a h => h.fetchDecision a
  endRequest := acts.endRequest
  apply := acts.apply
  dirty := acts.dirty
  cursor := fun _ h => { h with }
  requestSent := fun _ h => { h with }
  announceAt := fun _ h => { h with }
  recalls := fun _ _ h => { h with }

theorem infrared : InfraredKeep (TxKept F) where
  trackers := fun _ h => { h with }
  gesture := acts.gesture
  read := fun _ _ _ h => { h with }
  held := fun _ _ h => { h with }

/-! ### While a frame is received -/

/-- Queue and line are sound, and the Line Unit is receiving. -/
def Receiving (F : Addr → Prop) (s : State) : Prop := TxKept F s ∧ s.line.activity = .receiving

theorem mayBegin_of_receiving (hr : s.line.activity = .receiving) : s.mayBegin = false := by
  simp [State.mayBegin, hr]

/-- Actions leave the Line Unit that is receiving. -/
theorem Receiving.of_acts {t : State} (h : Receiving F s) (a : s.Acts t) (k : TxKept F t) :
    Receiving F t :=
  ⟨k, by rw [a.line_of_not (mayBegin_of_receiving h.2)]; exact h.2⟩

/-- Frames are handed on while the Line Unit is receiving, and there is no attempt (R176). -/
theorem take : TakeKeep (Receiving F) where
  owe := fun o hr ho h => ⟨acts.owe o hr ho h.1, h.2⟩
  draws := fun n h => ⟨acts.draws n h.1, h.2⟩
  bump := fun c h => ⟨acts.bump c h.1, h.2⟩
  offer := fun {s} c d hc h => h.of_acts (s.offer_acts c d) (h.1.offer d hc)
  fetchDecision := fun {s} a h => by
    refine ⟨h.1.fetchDecision a, ?_⟩
    rcases s.fetchDecision_eq a (mayBegin_of_receiving h.2) with e | e
    · rw [e]
      exact h.2
    · rw [e]
      exact h.2
  endRequest := fun {s} t o h => h.of_acts (s.endRequest_acts t o) (acts.endRequest t o h.1)
  apply := fun {s} _ _ _ _ o ps hc hv h =>
    h.of_acts (State.apply_acts hc _ _ o ps) (acts.apply o ps hc hv h.1)
  dirty := fun d hc h => ⟨acts.dirty d hc h.1, h.2⟩
  cursor := fun c h => ⟨{ h.1 with }, h.2⟩
  requestSent := fun t h => ⟨{ h.1 with }, h.2⟩
  announceAt := fun t h => ⟨{ h.1 with }, h.2⟩
  recalls := fun n t h => ⟨{ h.1 with }, h.2⟩
  restart := fun r h =>
    ⟨{ h.1 with
        line := h.1.line.setRestart fun _ =>
          h.1.line.attempt_none (by simp [Activity.transmits, h.2]) }, h.2⟩

theorem frame (f : Frame) : FrameKeep (Receiving F) f where
  judged := fun _ _ _ _ _ h => ⟨{ h.1 with }, h.2⟩
  collected := fun _ _ h => ⟨{ h.1 with }, h.2⟩

/-- The frame is answered, where the station state allows a slot (R6, R18). -/
theorem Receiving.answering (h : Receiving F s) (f : Frame) (j : Judgement) :
    TxKept F (s.answering f j) := by
  obtain ⟨⟨queue, onLine, line, fetch⟩, receiving⟩ := h
  have attempt := line.attempt_none (by simp [Activity.transmits, receiving])
  have wire := line.ordered.heard s.now
  refine ⟨queue, onLine, ?_, fetch⟩
  refine ⟨fun e => absurd (show s.line.attempt.isSome = true from e) (by simp [attempt]), rfl,
    fun _ => rfl, fun e => ?_, line.restart, wire.1, wire.2, fun hs => ⟨(line.deaf hs).1, ?_⟩⟩
  · have e := line.idle e
    rw [receiving] at e
    cases e
  · have hs : s.start.state ∈ [StationState.loading, .listening, .addressConflict] := hs
    have silent : s.mayAnswer f = false := by
      simp only [List.mem_cons, List.not_mem_nil, or_false] at hs
      unfold State.mayAnswer
      rcases hs with e | e | e <;> rw [e]
    show (s.slotFor f j).map _ = none
    simp [State.slotFor, silent]

theorem Receiving.headerFailure (h : Receiving F s) : TxKept F s.headerFailure := by
  obtain ⟨⟨queue, onLine, line, fetch⟩, receiving⟩ := h
  have attempt := line.attempt_none (by simp [Activity.transmits, receiving])
  have wire := line.ordered.heard s.now
  refine ⟨queue, onLine, ?_, fetch⟩
  refine ⟨fun e => absurd (show s.line.attempt.isSome = true from e) (by simp [attempt]), rfl,
    (nomatch ·), fun e => ?_, line.restart, wire.1, wire.2, fun hs => ⟨(line.deaf hs).1, rfl⟩⟩
  have e := line.idle e
  rw [receiving] at e
  cases e

theorem Receiving.evidence (h : Receiving F s) (src : Addr) (i : Byte) (p : Option Byte) :
    Receiving F (s.evidence src i p).2 := by
  refine take.toHandKeep.evidence (fun _ => ?_) (fun _ _ => ?_) h
  · obtain ⟨⟨-, -, line, -⟩, receiving⟩ := h
    have attempt := line.attempt_none (by simp [Activity.transmits, receiving])
    have answer := line.answer_none (by simp [receiving])
    have flags (a : Addr) : (s.enterConflict.peer a).fetchOut = false := by
      rw [State.peer_enterConflict]
    rw [State.enterConflict_eq] at flags ⊢
    refine ⟨⟨.nil, by simp [attempt, TxQueue.reset], line.setState fun _ => ⟨attempt, answer⟩,
      fun a _ => ?_⟩, receiving⟩
    rw [flags]
    rfl
  · exact State.noted_keeps (P := Receiving F)
      ⟨h.1.setPeer src rfl, h.2⟩ fun e hs => ⟨{ hs.1 with }, hs.2⟩

theorem Receiving.takenHeard (h : Receiving F s) (f : Frame) (n : Bool) :
    TxKept F (State.takenHeard f n s) :=
  Receiving.answering ((frame f).handFrame take n h) f _

theorem Receiving.malformedHeard (h : Receiving F s) (f : Frame) (n : Bool) :
    TxKept F (State.malformedHeard f n s) := by
  unfold State.malformedHeard
  split
  · exact Receiving.answering (take.fetchDecision _ h) f _
  · exact h.answering f _

theorem Receiving.thenDo {part : State → State} (o : Owing)
    (hp : ∀ s, Receiving F s → TxKept F (part s)) (h : Receiving F s) :
    TxKept F (s.thenDo o part) := by
  unfold State.thenDo
  split
  · exact { h.1 with }
  · exact hp s h

theorem receive (h : TxKept F s) (kind : BitVec 4) (rx : Rx) : TxKept F (s.receive kind rx) := by
  unfold State.receive
  split
  next hr =>
    have receiving : Receiving F s := ⟨h, hr.1⟩
    have bumped (c : Counter) : Receiving F (s.bump c) := take.bump c receiving
    split
    · exact receiving.headerFailure
    · split
      · exact (bumped _).answering _ _
      · split
        · exact ((bumped _).evidence _ _ _).thenDo _ fun _ hs => hs.takenHeard _ _
        · unfold State.malformedFrame
          dsimp only
          split
          · exact (bumped _).answering _ _
          · exact ((bumped _).evidence _ _ _).thenDo _ fun _ hs => hs.malformedHeard _ _
  next => exact h

end TxKept

end Sys2Proof.Machine
end

section
/-! PROOFS. The Transmit Queue with the Line Unit kept sound by the endings of an attempt, by the line, and by
every other command; no eviction owes its notice between steps (R5, R20, R30 to R35, R47). -/

namespace Sys2Proof.Machine

namespace TxKept

variable {F : Addr → Prop} {s : State}

/-! ### The endings of an attempt (R30, R31, R33, R35) -/

/-- Queue and Line Unit as an attempt is handed back: the Line Unit has none, and its entry is still on the
line. -/
structure Ending (F : Addr → Prop) (s : State) : Prop where
  queue  : QueueKept s.queue.entries
  none   : s.line.attempt = none
  line   : LineKept s.line s.service.restart s.start.state
  fetch  : ∀ a, F a →
    s.queue.entries.countP (Entry.fetches a) = if (s.peer a).fetchOut then 1 else 0

/-- The entries once the one on the line has left or gone off it. -/
theorem Ending.setEntries (h : Ending F s) {es : List Entry} (kept : QueueKept es)
    (off : ∀ e ∈ es, e.onLine = false) {F' : Addr → Prop}
    (count : ∀ a, F' a → F a ∧ es.countP (Entry.fetches a)
      = s.queue.entries.countP (Entry.fetches a)) :
    TxKept F' { s with queue := { s.queue with entries := es } } where
  queue := kept
  onLine := by
    rw [h.none]
    exact (List.any_eq_false.2 fun e he => by simp [off e he]).symm
  line := h.line
  fetch a ha := by
    obtain ⟨hF, same⟩ := count a ha
    exact same.trans (h.fetch a hF)

/-- The entry that has left the queue takes the flag of a FETCH with it (R47). -/
theorem Ending.leaves (h : Ending F s) {before after : List Entry} {e : Entry}
    (split : s.queue.entries = before ++ e :: after) (he : e.onLine = true) (o : Outcome) :
    TxKept F
      (({ s with queue := { s.queue with entries := before ++ after } } : State).tellProducer e o) := by
  have kept := h.queue
  rw [split] at kept
  have off := kept.alone he
  have left := kept.sublist (sublist_remove before e after)
  have count (a : Addr) := countP_fetches_append (before := before) (after := after) e a
  by_cases hk : e.content.kind = kindFetch
  · obtain ⟨cs, hc⟩ := (Content.kind_eq_fetch _).1 hk
    have mine (a : Addr) : e.fetches a = decide (a = e.destination) := by
      simp only [Entry.fetches, hk, beq_self_eq_true, Bool.and_true, Bool.beq_eq_decide_eq]
      exact decide_eq_decide.2 eq_comm
    have told : TxKept (fun a => F a ∧ a ≠ e.destination)
        { s with queue := { s.queue with entries := before ++ after } } :=
      h.setEntries left off fun a ha => ⟨ha.1, by
        rw [split, count, mine, decide_eq_false ha.2]
        rfl⟩
    unfold State.tellProducer
    rw [hc]
    refine { told with fetch := fun a ha => ?_ }
    by_cases e' : a = e.destination
    · have total := h.fetch a ha
      rw [split, count, mine, decide_eq_true e'] at total
      have none : (before ++ after).countP (Entry.fetches a) = 0 := by
        simp only [if_true] at total
        split at total <;> omega
      rw [e', State.fetchEnded, State.peer_setPeer_self]
      rw [e'] at none
      exact none
    · rw [State.fetchEnded, State.peer_setPeer_ne _ _ e']
      exact told.fetch a ⟨ha, e'⟩
  · exact hand.tellProducer o hk (h.setEntries left off fun a ha => ⟨ha, by
      rw [split, count, Entry.fetches_of_ne hk]
      rfl⟩)

/-- The entry goes off the line, with another attempt count and hold-back deadline. -/
theorem Ending.offLine (h : Ending F s) {before after : List Entry} {e e' : Entry}
    (split : s.queue.entries = before ++ e :: after) (he : e.onLine = true) (off : e'.onLine = false)
    (content : e'.content = e.content) (dest : e'.destination = e.destination)
    (attempts : e'.attempts ≤ 3) (withdrawn : e'.withdrawn = false) :
    TxKept F { s with queue := { s.queue with entries := before ++ e' :: after } } := by
  have kept := h.queue
  rw [split] at kept
  have alone := kept.alone he
  refine h.setEntries
    (kept.replace (by rw [content]) (fun on => absurd (off.symm.trans on) (by simp))
      ⟨attempts, fun on => absurd (off.symm.trans on) (by simp),
        fun on => absurd (withdrawn.symm.trans on) (by simp)⟩)
    (fun f hf => ?_) fun a ha => ⟨ha, ?_⟩
  · rcases List.mem_append.1 hf with hf | hf
    · exact alone f (List.mem_append_left _ hf)
    · rcases List.mem_cons.1 hf with rfl | hf
      · exact off
      · exact alone f (List.mem_append_right _ hf)
  · rw [split, countP_fetches_append, countP_fetches_append]
    simp only [Entry.fetches, content, dest]

theorem Ending.handBack (h : Ending F s) (e : Sys2Proof.Machine.Ending) : TxKept F (s.handBack e) := by
  unfold State.handBack
  split
  next none =>
    refine h.setEntries (es := s.queue.entries) h.queue (fun e he => ?_) fun a ha => ⟨ha, rfl⟩
    simpa using List.find?_eq_none.1 none e he
  next x hx =>
    obtain ⟨before, after, split, on, none⟩ := split_of_find? hx
    have taken : s.dequeue = { s with queue := { s.queue with entries := before ++ after } } := by
      unfold State.dequeue
      rw [split, eraseP_append on none]
    have off (f : Entry → Entry) : s.offLine f =
        { s with
          queue :=
            { s.queue with
              entries := before ++ f { x with onLine := false, carried := Carried.none } :: after } } := by
      unfold State.offLine
      rw [split, modifyFirst_append
        (fun e => f { e with onLine := false, carried := Carried.none }) on none]
    have kept := h.queue
    rw [split] at kept
    obtain ⟨attempts, -, withdrawn⟩ := kept.sound x (by simp)
    have leaves (o : Outcome) : TxKept F (s.leaveWith x o) := by
      unfold State.leaveWith
      rw [taken]
      exact acts.grantOccasion (h.leaves split on o)
    split
    next hw =>
      have request : x.content.kind ≠ kindFetch := fun hk => by
        have cls := (withdrawn hw).2
        rw [Content.cls_fetch hk] at cls
        cases cls
      rw [taken]
      refine acts.grantOccasion (h.setEntries (kept.sublist (sublist_remove _ _ _)) (kept.alone on)
        fun a ha => ⟨ha, ?_⟩)
      rw [split, countP_fetches_append, Entry.fetches_of_ne request]
      rfl
    next hw =>
      have there : x.withdrawn = false := by simpa using hw
      split
      · rw [off]
        exact h.offLine split on rfl rfl rfl attempts there
      · split
        next few =>
          rw [off]
          exact h.offLine split on rfl rfl rfl (Nat.succ_le_of_lt few) there
        next => exact leaves _
      · exact leaves _

/-- The Line Unit hands its attempt back. -/
theorem endAttempt (h : TxKept F s) {a : Activity} {rx : Option Reception} {w : Wire}
    (e : Sys2Proof.Machine.Ending) (hs : s.line.attempt.isSome = true)
    (hr : rx.isSome = decide (a = .receiving)) (hw : w.Ordered) :
    TxKept F (s.endAttempt a rx w e) := by
  obtain ⟨transmits, busy⟩ := h.line.sending hs
  have answer : s.line.answer = none :=
    h.line.answer_none (by rcases transmits with e | e | e <;> simp [e])
  have handed : Ending F
      (s.setLine { s.line with activity := a, attempt := none, reception := rx, wire := w }) :=
    ⟨h.queue, rfl, h.line.endsAttempt (by simp [busy]) hr answer hw, h.fetch⟩
  exact handed.handBack e

theorem arbitrationLost (h : TxKept F s) (bit : Fin 7) (low : Time) :
    TxKept F (s.arbitrationLost bit low) := by
  unfold State.arbitrationLost
  split
  next a ha =>
    split
    · exact endAttempt (acts.bump _ h) .lost (by simp [ha]) rfl (Wire.held_ordered _ _ _)
    · exact h
  next => exact h

theorem bitErred (h : TxKept F s) (low : Time) : TxKept F (s.bitErred low) := by
  unfold State.bitErred
  split
  next a ha =>
    split
    · exact endAttempt (acts.bump _ h) _ (by simp [ha]) rfl (Wire.held_ordered _ _ _)
    · exact h
  next => exact h

theorem windowRead (h : TxKept F s) (taken declined garbled : Time) :
    TxKept F (s.windowRead taken declined garbled) := by
  have counted (o : Outcome) : TxKept F (s.countOutcome o) ∧ (s.countOutcome o).line = s.line := by
    cases o with
    | declined => exact ⟨h, rfl⟩
    | _ => exact ⟨acts.bump _ h, rfl⟩
  unfold State.windowRead
  split
  next a ha =>
    split
    · dsimp only
      obtain ⟨kept, line⟩ := counted
        (outcomeOf a.frame.destination (a.asserted 0 taken) (a.asserted 1 declined)
          (a.asserted 2 garbled))
      exact endAttempt kept _ (by simp [line, ha]) rfl (Wire.held_ordered _ _ _)
    · exact h
  next => exact h

/-! ### The line (R3, R4) -/

theorem setLine (h : TxKept F s) {l : LineUnit} (ha : l.attempt.isSome = s.line.attempt.isSome)
    (hl : LineKept l s.service.restart s.start.state) : TxKept F (s.setLine l) :=
  { h with onLine := ha.trans h.onLine, line := hl }

theorem idleDeclared (h : TxKept F s) : TxKept F s.idleDeclared := by
  unfold State.idleDeclared State.bumpIf
  split
  next hi =>
    obtain ⟨-, silent, -⟩ := hi
    have line : LineKept
        { s.line with condition := .idle, activity := .waiting, reception := none, answer := none }
        s.service.restart s.start.state :=
      ⟨fun e => absurd (show s.line.attempt.isSome = true from e) (by simp [silent]), rfl, (nomatch ·),
        fun _ => rfl, fun _ => silent, h.line.others, h.line.freed, fun _ => ⟨silent, rfl⟩⟩
    split
    · exact setLine (acts.bump _ h) rfl line
    · exact setLine h rfl line
  next => exact h

theorem lineStuck (h : TxKept F s) : TxKept F s.lineStuck := by
  have restart : s.service.restart.stuck s.now ≠ .clear → s.line.attempt = none := fun hr => by
    refine h.line.restart fun clear => hr ?_
    rw [clear]
    rfl
  unfold State.lineStuck
  split
  next hb =>
    have wire := h.line.ordered.release s.now
    have answer : LineKept { s.line.stuck s.now with attempt := none }
        (s.service.restart.stuck s.now) s.start.state := by
      refine ⟨(nomatch ·), ?_, (nomatch ·), (nomatch ·), fun _ => rfl, wire.1, wire.2,
        fun _ => ⟨rfl, rfl⟩⟩
      show false = decide ((if s.line.activity = .receiving then Activity.ignoring
        else s.line.activity) = .receiving)
      split
      · rfl
      next hn => exact (decide_eq_false hn).symm
    dsimp only
    split
    next silent =>
      have silent : s.line.attempt = none := silent
      have same : ({ s.line.stuck s.now with attempt := none } : LineUnit) = s.line.stuck s.now := by
        unfold LineUnit.stuck
        rw [silent]
      rw [same] at answer
      exact ⟨h.queue, h.onLine, answer, h.fetch⟩
    next =>
      refine (show Ending F (State.setLine _ _) from ?_).handBack _
      exact ⟨h.queue, rfl,
        { answer with
          reception := rfl
          sending := (nomatch ·), answer := (nomatch ·), idle := (nomatch ·) }, h.fetch⟩
  next => exact h

theorem attemptBegin (h : TxKept F s) : TxKept F s.attemptBegin := by
  unfold State.attemptBegin
  split
  next hm =>
    split
    next hc => exact (h.beginWith hc hm).1
    next => exact h
  next => exact h

theorem modifyAt_split {α : Type} (f : α → α) {i : Nat} {l : List α} {a : α} (h : l[i]? = some a) :
    ∃ before after, l = before ++ a :: after ∧ modifyAt f i l = before ++ f a :: after := by
  induction l generalizing i with
  | nil => simp at h
  | cons b l ih =>
    cases i with
    | zero =>
      obtain rfl : b = a := by simpa using h
      exact ⟨[], l, rfl, rfl⟩
    | succ i =>
      obtain ⟨before, after, split, eq⟩ := ih (i := i) (by simpa using h)
      refine ⟨b :: before, after, by rw [split]; rfl, ?_⟩
      show b :: modifyAt f i l = _
      rw [eq]
      rfl

theorem holdBackExpiry (h : TxKept F s) (p : Fin 12) : TxKept F (s.holdBackExpiry p) := by
  unfold State.holdBackExpiry
  split
  next e he =>
    split
    · obtain ⟨before, after, split, eq⟩ :=
        modifyAt_split (fun e : Entry => { e with holdBack := none }) he
      have kept := h.queue
      rw [split] at kept
      obtain ⟨attempts, -, withdrawn⟩ := kept.sound e (by simp)
      rw [eq]
      refine (beginAt (h.setEntries
        (kept.replace (e' := { e with holdBack := none }) rfl .inl ⟨attempts, fun _ => rfl, withdrawn⟩)
        ?_ s.queue.evicted) _).1
      rw [split]
      exact .replace rfl fun _ => rfl
    · exact h
  next => exact h

theorem wirePulled_ordered (h : TxKept F s) (low : Time) : (s.wirePulled low).Ordered :=
  h.line.ordered.pullBy _ _ _

theorem dominantEdge (h : TxKept F s) (low : Time) : TxKept F (s.dominantEdge low) := by
  have wire := h.wirePulled_ordered low
  have line := h.line
  have idle (hi : s.line.condition = .idle) : s.line.attempt = none ∧ s.line.answer = none
      ∧ s.line.reception = none := by
    have waiting := line.idle hi
    refine ⟨line.attempt_none (by simp [Activity.transmits, waiting]),
      line.answer_none (by simp [waiting]), ?_⟩
    have none := line.reception
    rw [waiting] at none
    simpa using none
  unfold State.dominantEdge
  refine h.setLine ?_ ?_
  · show (Option.map _ (s.line.edge _ _ _).attempt).isSome = _
    rw [Option.isSome_map]
    unfold LineUnit.edge
    split
    · split <;> rfl
    · rfl
  · unfold LineUnit.edge
    split
    next hi =>
      obtain ⟨attempt, answer, reception⟩ := idle hi
      split
      · exact ⟨fun e => absurd e (by simp [attempt]), rfl,
          fun e => absurd (show s.line.answer.isSome = true from e) (by simp [answer]), (nomatch ·),
          fun _ => by simp [attempt], wire.1, wire.2, fun _ => ⟨by simp [attempt], answer⟩⟩
      · exact ⟨fun e => absurd e (by simp [attempt]), line.reception,
          line.answer, (nomatch ·),
          fun _ => by simp [attempt], wire.1, wire.2, fun _ => ⟨by simp [attempt], answer⟩⟩
    next busy =>
      refine ⟨fun e => line.sending (by simpa using e), ?_, fun e => line.answer (by simpa using e),
        fun e => absurd e busy, fun hr => by simp [line.restart hr], wire.1, wire.2,
        fun hs => ⟨by simp [(line.deaf hs).1], by simp [(line.deaf hs).2]⟩⟩
      show (s.line.reception.map _).isSome = _
      rw [Option.isSome_map]
      exact line.reception

theorem headerFailed (h : TxKept F s) : TxKept F s.headerFailed := by
  unfold State.headerFailed
  split
  · split
    next hr => exact Receiving.headerFailure ⟨h, hr.1⟩
    · exact h
  · exact h

/-! ### Starts -/

theorem imageRead (h : TxKept F s) (answer : Option Byte) : TxKept F (s.imageRead answer) := by
  by_cases hs : s.start.state = .loading
  · have none := h.line.deaf (by simp [hs])
    rcases s.imageRead_cases answer hs with ⟨_, _, e⟩ | ⟨_, _, e⟩ | ⟨_, _, _, _, e⟩ <;> rw [e]
    · exact { h with line := h.line.setState fun _ => none }
    · exact { h with }
    · rw [State.loadSucceeds_eq]
      exact { h with line := h.line.setState fun _ => none }
  · rwa [State.imageRead_of_not answer hs]

theorem silenceExpiry (h : TxKept F s) (a : Addr) : TxKept F (s.silenceExpiry a) := by
  unfold State.silenceExpiry
  dsimp only
  split
  · have silent := h.setPeer a (r := { s.peer a with presence := .silent, silentAt := none }) rfl
    exact { silent with }
  · exact h

/-- A start leaves an empty queue and a Line Unit at its reset values (R5, R36). -/
theorem fresh (hw : s.line.wire.Ordered) (c : StartController) (t : Option Time) :
    TxKept F
      { s.resetBlocks with start := c, scanner := { KeyScanner.reset with scanAt := t } } := by
  have wire := hw.restart s.now
  refine ⟨.nil, rfl,
    ⟨(nomatch ·), rfl, (nomatch ·), (nomatch ·), fun _ => rfl, wire.1, wire.2, fun _ => ⟨rfl, rfl⟩⟩,
    fun a _ => ?_⟩
  show 0 = if (s.resetBlocks.peer a).fetchOut then 1 else 0
  rw [s.peer_resetBlocks a]
  rfl

theorem lineRestart (h : TxKept F s) (none : s.line.attempt = none) : TxKept F s.lineRestart := by
  have flags (a : Addr) : (s.lineRestart.peer a).fetchOut = false := by
    rw [State.peer_lineRestart]
    rfl
  rw [State.lineRestart_eq] at flags ⊢
  refine ⟨.nil, by rw [show s.line.attempt = _ from none]; rfl, ?_, fun a _ => ?_⟩
  · obtain ⟨sending, reception, -, idle, restart, others, freed, -⟩ := h.line
    exact ⟨sending, reception, (nomatch ·), idle, restart, others, freed, fun _ => ⟨none, rfl⟩⟩
  · rw [flags]
    rfl

theorem pendingRestart (h : TxKept F s) (straps : Addr) : TxKept F (s.pendingRestart straps) := by
  unfold State.pendingRestart
  split
  next due =>
    have none : s.line.attempt = none := h.line.restart fun clear => by
      unfold State.restartDue at due
      rw [clear] at due
      cases due
    have cleared : TxKept F s.clearRestart := { h with line := h.line.setRestart fun _ => none }
    split
    · exact fresh h.line.ordered _ (some s.now)
    · exact cleared.lineRestart none
    · exact cleared.lineRestart none
    · exact h
  next => exact h

theorem listenExpiry (h : TxKept F s) : TxKept F s.listenExpiry := by
  unfold State.listenExpiry
  split
  next hs =>
    have joining : TxKept F
        { s with
          start :=
            { s.start with
              state := .joining, listenAt := none, recallsOut := (recallLists s.homeChans).length
              collection := some { latest := 0, triples := [] } } } :=
      { h with line := h.line.setState (by simp) }
    exact hand.offerAll _ (kind_ne_fetch_of_map (fun _ _ => by simp) _) joining
  next => exact h

theorem recallExpiry (h : TxKept F s) : TxKept F s.recallExpiry := by
  have fetch : ∀ (s : State) (a : Addr), TxKept F s → TxKept F (s.fetchFrom a) := by
    intro s a h
    unfold State.fetchFrom
    split
    · exact h.fetchDecision a
    · exact h
  unfold State.recallExpiry
  split
  next =>
    rw [State.joinComplete_eq]
    generalize s.start.collection.getD { latest := 0, triples := [] } = c
    refine ActsKeep.foldl fetch _ (hand.offerAnnounce ?_)
    obtain ⟨v, ld, e⟩ := State.joinChans_eq c (nextIncarnation c.latest) s.homeChans
      (s.becomesActive (nextIncarnation c.latest))
    rw [e]
    have active : StationState.active ∉ [StationState.loading, .listening, .addressConflict] := by
      decide
    exact { h with line := h.line.setState (absurd · active) }
  next => exact h

theorem emissionEnd (h : TxKept F s) : TxKept F s.emissionEnd := by
  unfold State.emissionEnd
  split
  · split
    · split
      · exact acts.thenDo (fun _ => acts.emitterGrant) rfl { h with }
      · exact { h with }
    · exact h
  · exact h

/-! ### Every command -/

theorem effect (c : Instr) (h : TxKept F s) : TxKept F (effectOf c s) := by
  have free : GestureKeep (TxKept F) := infrared.toGestureKeep
  cases c with
  | powerOn | resetPinAsserted | resetPinReleased => exact h
  | imageRead _ answer => exact h.imageRead answer
  | idleDeclaration => exact h.idleDeclared
  | lineStuck => exact h.lineStuck
  | attemptBegin => exact h.attemptBegin
  | arbitrationLoss read bit => exact h.arbitrationLost bit read.low
  | bitError read => exact h.bitErred read.low
  | answerWindowRead => exact h.windowRead _ _ _
  | holdBackExpiry _ p => exact h.holdBackExpiry p
  | pendingRestart _ straps => exact h.pendingRestart straps
  | silenceDeadlineExpiry _ a => exact h.silenceExpiry a
  | announceTimerExpiry => exact hand.announceExpiry h
  | listenWindowExpiry => exact h.listenExpiry
  | recallWindowExpiry => exact h.recallExpiry
  | confirmDeadlineExpiry _ tag => exact acts.confirmExpiry tag h
  | scan => exact free.scan (fun _ h => { h with }) _ h
  | stuckDeadlineExpiry => exact free.stuckExpiry (fun _ h => { h with }) h
  | holdDeadlineExpiry _ w => exact free.holdExpiry w h
  | repeatDeadlineExpiry _ w => exact free.repeatExpiry w h
  | waitDeadlineExpiry _ i => exact acts.waitExpiry i h
  | completeCode => exact infrared.completeCode h
  | holdMarker => exact infrared.holdMarker h
  | limitPassed => exact infrared.limitExpiry h
  | releaseDeadlineExpiry => exact infrared.releaseExpiry h
  | emissionFrame =>
    show TxKept F s.emissionFrame
    unfold State.emissionFrame
    split
    · split
      · exact { h with }
      · exact h
    · exact h
  | emissionEnd => exact h.emissionEnd
  | blankingEnd =>
    show TxKept F s.blankingEnd
    unfold State.blankingEnd
    split
    · split
      · exact { h with }
      · exact h
    · exact h
  | stepDeadlineExpiry => exact { h with }
  | flashEnd _ i =>
    show TxKept F (s.endFlash i)
    unfold State.endFlash
    dsimp only
    split
    · exact { h with }
    · exact h
  | dominantEdge read => exact h.dominantEdge read.low
  | headerFailed => exact h.headerFailed
  | irInputEdge _ mark => exact infrared.irEdge mark h
  -- The rows of the frames.
  | _ => exact h.receive _ _

theorem pay (o : Owing) (h : TxKept F s) : TxKept F (s.pay o) := by
  cases o with
  | table => exact acts.grantOccasion h
  | emitter => exact acts.emitterGrant h
  | removal e r =>
    simp only [State.pay]
    split
    · exact acts.finish e r h
    · exact h
  | conclusion e r => exact acts.conclude e r h
  | cancels tags => exact hand.cancelTags _ _ h
  | pair a c p => exact hand.matchPair a c p h
  | fetch a => exact h.fetchDecision a
  | handing f n =>
    simp only [State.pay]
    split
    next hr => exact Receiving.takenHeard ⟨h, hr⟩ f n
    next => exact h
  | malformed f n =>
    simp only [State.pay]
    split
    next hr => exact Receiving.malformedHeard ⟨h, hr⟩ f n
    next => exact h

theorem advance (dt : Moment) (h : TxKept F s) : TxKept F (s.advance dt) where
  queue := h.queue
  onLine := by
    refine Eq.trans ?_ h.onLine
    show (s.line.at _).attempt.isSome = _
    unfold LineUnit.at
    split
    next ha => rw [ha]
    next => rfl
  line := h.line.advance _
  fetch := h.fetch

end TxKept

/-! ### Steps -/

/-- What every effect keeps, and time, every part that can be owed, the model's own fields, and every start,
every step keeps. -/
theorem step_keeps {P : State → Prop} {s t : State}
    (own : ∀ u rival owed taken, P u → P { u with rival := rival, owed := owed, taken := taken })
    (pending : ∀ u p, P u → P { u with pending := p })
    (time : ∀ u d, P u → P (u.advance d)) (settle : ∀ u, P u → P u.settle)
    (pay : ∀ u o, P u → P (u.pay o)) (effect : ∀ u c, isReset c = false → P u → P (effectOf c u))
    (wire : ∀ u low, P u → P (u.wireEdge low))
    (fresh : ∀ u c t, P u →
      P { u.resetBlocks with start := c, scanner := { KeyScanner.reset with scanAt := t } })
    (hs : P s) (ht : Machine.step s = .next t) : P t := by
  rcases step_cases ht with rfl | ⟨c, rest, ht⟩
  · exact hs
  · have hs := pending s rest hs
    rcases exec_cases ht with ⟨ctl, at', _, _, rfl⟩ | rfl | ⟨low, rfl⟩ | ⟨hc, ht⟩
    · exact fresh _ ctl at' (time _ _ hs)
    · exact time _ _ hs
    · exact wire _ low (time _ _ hs)
    · exact event_keeps own time settle pay (fun u => effect u c hc) effect hs ht

theorem TxKept.step {F : Addr → Prop} {s t : State} (h : TxKept F s)
    (ht : Machine.step s = .next t) : TxKept F t :=
  step_keeps (fun _ _ _ _ h => { h with }) (fun _ _ h => { h with }) (fun _ d h => h.advance d)
    (fun _ h => TxKept.acts.settle h) (fun _ o h => h.pay o) (fun _ c _ h => h.effect c)
    (fun _ low h => h.setLine rfl (h.line.setWire (h.wirePulled_ordered low)))
    (fun _ c t h => TxKept.fresh h.line.ordered c t) h ht

/-- Behind the departure notices no eviction owes one (R95, log entry 9). -/
theorem State.settle_evicted (s : State) : s.settle.queue.evicted = false := by
  unfold State.settle
  split
  · rfl
  next h => simpa using h

/-- Between steps no eviction owes its notice. -/
theorem evicted_of_step {s t : State} (h : s.queue.evicted = false) (ht : Machine.step s = .next t) :
    t.queue.evicted = false := by
  have goOn (u : State) (n : Nat) : (u.goOn n).queue.evicted = false := State.settle_evicted _
  have meet (l : List Instr) (u : State) : (u.meet l).2.queue.evicted = false := by
    induction l generalizing u with
    | nil => exact goOn u 0
    | cons c l ih =>
      simp only [State.meet]
      split
      · exact ih _
      · exact goOn u 0
  rcases step_cases ht with rfl | ⟨c, rest, ht⟩
  · exact h
  · rcases exec_cases ht with ⟨_, _, _, _, rfl⟩ | rfl | ⟨low, rfl⟩ | ⟨-, ht⟩
    · rfl
    · exact h
    · exact h
    · rcases event_cases _ _ _ with ⟨e, _⟩ | ⟨e, _⟩ | e | ⟨_, ds, u, _, _, e⟩ <;>
        rw [e] at ht <;> obtain rfl := Host.Outcome.next.inj ht
      · exact h
      · exact h
      · exact State.settle_evicted _
      · exact meet ds u

theorem TxKept.of_sound {F : Addr → Prop} {s : State} (hq : QueueSound s) (hl : LineSound s)
    (hf : ∀ a, F a → s.queue.entries.countP (Entry.fetches a) = if (s.peer a).fetchOut then 1 else 0) :
    TxKept F s := by
  obtain ⟨length, announces, single, sound, -⟩ := hq
  obtain ⟨onLine, sending, reception, answer, idle, restart, others, freed, deaf⟩ := hl
  exact ⟨⟨length, announces, single, sound⟩, onLine,
    ⟨sending, reception, answer, idle, restart, others, freed, deaf⟩, hf⟩

/-- Settles O53: the queue and the Line Unit are kept sound together by every effect, and every event ends
with the departure notices. -/
theorem queueAndLineStaySound : Obligations.QueueAndLineStaySound := by
  unfold Obligations.QueueAndLineStaySound
  intro s t hq hl ht
  have kept := (TxKept.of_sound (F := fun _ => False) hq hl fun _ => False.elim).step ht
  obtain ⟨⟨length, announces, single, sound⟩, onLine, line, -⟩ := kept
  exact ⟨⟨length, announces, single, sound, evicted_of_step hq.2.2.2.2 ht⟩,
    ⟨onLine, line.sending, line.reception, line.answer, line.idle, line.restart, line.others,
      line.freed, line.deaf⟩⟩

/-- Settles O54: a FETCH is queued with its flag, is never evicted or withdrawn, and takes its flag with it
when it leaves. -/
theorem fetchFlagsStaySound : Obligations.FetchFlagsStaySound := by
  unfold Obligations.FetchFlagsStaySound
  intro s t hq hl hf ht a
  exact ((TxKept.of_sound (F := fun _ => True) hq hl fun a _ => hf a).step ht).fetch a trivial

end Sys2Proof.Machine
end

section
/-! PROOFS. The machine, the reset and the commands that begin a start. -/

namespace Sys2Proof.Machine

/-! ### The machine -/

/-- Settles O1: a step looks at the queue of commands and no further. -/
theorem stepRunsTheFrontCommand : Obligations.StepRunsTheFrontCommand := by
  refine ⟨fun c rest s => rfl, fun s hs => ?_⟩
  unfold step
  rw [hs]

/-- Settles O3: a held part takes part in no event, and the level of the line is outside it. -/
theorem aHeldPartOnlyWaits : Obligations.AHeldPartOnlyWaits := by
  intro c s hold noReset
  constructor
  · intro noEdge
    rw [exec_eq_event s noReset (.inr noEdge), event_held hold]
  · rintro dt low rfl
    exact if_neg hold

/-! ### The reset -/

theorem State.reset_chan (c : Chan) : State.reset.chan c = .unused := by
  revert c
  decide

theorem State.reset_slot (i : SlotId) :
    (State.reset.slot i).state = .idle ∧ (State.reset.slot i).generation = 0
      ∧ (State.reset.slot i).outstanding = [] ∧ (State.reset.slot i).stack = [] := by
  revert i
  decide

/-- Settles O5: the reset writes these values out. -/
theorem whatResetLeaves : Obligations.WhatResetLeaves := by
  refine ⟨rfl, rfl, rfl, rfl, rfl, rfl, by decide, rfl, rfl, State.reset_chan, rfl, rfl, rfl, rfl, rfl, rfl,
    rfl, rfl, rfl, rfl, rfl, rfl, rfl, by decide, rfl, rfl, rfl, rfl, rfl, rfl, rfl, rfl, rfl, rfl, rfl, rfl,
    rfl, rfl, fun i => ?_, by decide, rfl, by decide, fun k => by cases k <;> rfl, rfl⟩
  obtain ⟨idle, generation, -⟩ := State.reset_slot i
  exact ⟨idle, generation⟩

theorem requestsSound_reset : RequestsSound State.reset := by
  refine ⟨by decide, by decide, by decide, by decide, nofun, nofun, fun i => ?_, rfl, rfl⟩
  obtain ⟨-, -, -, stack⟩ := State.reset_slot i
  simp [stack]

theorem outstandingPresent_reset : OutstandingPresent State.reset := by
  intro i
  obtain ⟨-, -, none_out, -⟩ := State.reset_slot i
  simp [none_out]

/-- Settles O60: at the reset no table holds an entry, every channel is UNUSED and every slot IDLE. -/
theorem invariantsHoldAtReset : Obligations.InvariantsHoldAtReset := by
  refine ⟨by decide, by decide, by decide, ⟨fun c => ?_, nofun, fun _ => rfl⟩, fun c => ?_, by decide, fun c => ?_, requestsSound_reset,
    outstandingPresent_reset, by decide, fun i => ?_, by decide, by decide, rfl, by decide, by decide, by decide⟩
  · rw [State.reset_chan]; trivial
  · rw [State.reset_chan]; trivial
  · rw [State.reset_chan]; trivial
  · obtain ⟨idle, -⟩ := State.reset_slot i
    simp [idle]

/-! ### Resets and the start -/

/-- Settles O6: a reset is the reset of every block, in the time that the command brings. -/
theorem resetsBeginLoading : Obligations.ResetsBeginLoading := by
  intro s dt straps
  refine ⟨fun noPin => ?_, fun pin => ?_, rfl, fun pin => ?_⟩
  · show Host.Outcome.next ((s.advance dt).powerOn straps) = _
    unfold State.powerOn
    rw [if_neg (by exact noPin)]
    rfl
  · show Host.Outcome.next ((s.advance dt).powerOn straps) = _
    unfold State.powerOn
    rw [if_pos (by exact pin)]
    rfl
  · show Host.Outcome.next ((s.advance dt).pinReleased straps) = _
    unfold State.pinReleased
    rw [if_pos (by exact pin)]
    rfl

end Sys2Proof.Machine
end

section
/-! PROOFS. Every command answers: its time passes once, and the queue of commands is left to step. -/

namespace Sys2Proof.Machine

/-- The clock and the queue of commands stand so. -/
def State.At (n : Time) (p : List Instr) (s : State) : Prop := s.now = n ∧ s.pending = p

namespace State.At

variable {n : Time} {p : List Instr}

theorem acts : ActsKeep (State.At n p) :=
  .of_acts fun a h => ⟨a.now.trans h.1, a.pending.trans h.2⟩

theorem base : BaseKeep (State.At n p) :=
  acts.base (fun _ _ _ _ _ _ h => h) (fun _ h => h) (fun _ h => h) (fun _ _ h => h) (fun _ h => h) (fun _ _ h => h)

theorem parts (alone : Prop) : EffectKeep (State.At n p) alone where
  toBaseKeep := base
  silent := fun _ _ _ h => h
  imageRead := fun {s} answer _ _ hs h => by
    rcases s.imageRead_cases answer hs with ⟨_, _, e⟩ | ⟨_, _, e⟩ | ⟨_, _, _, _, e⟩ <;> rw [e]
    · exact h
    · exact h
    · rw [State.loadSucceeds_eq]
      exact h
  lineRestart := fun _ _ _ h => by
    rw [State.lineRestart_eq]
    exact h
  fresh := fun _ _ _ _ _ _ h => h
  joining := fun _ _ h => h
  joined := fun {s} _ h col _ => by
    obtain ⟨v, ld, e⟩ := State.joinChans_eq col (nextIncarnation col.latest) s.homeChans
      (s.becomesActive (nextIncarnation col.latest))
    rw [e]
    exact h
  scan := base.gestures.scan fun _ h => h
  stuck := base.gestures.stuckExpiry fun _ h => h
  irRead := fun _ _ _ h => h
  irHeld := fun _ _ h => h
  emissionFrame := fun h => by
    unfold State.emissionFrame
    split
    · split <;> exact h
    · exact h
  nextEmission := fun _ _ h => h
  lastEmission := fun _ _ h => h
  blankingEnd := fun h => by
    unfold State.blankingEnd
    split
    · split <;> exact h
    · exact h
  stepOutput := fun _ h => h

theorem frame (f : Frame) : FrameKeep (State.At n p) f where
  judged := fun _ _ _ _ _ h => h
  collected := fun _ _ h => h

theorem evidence {s : State} (src : Addr) (i : Byte) (q : Option Byte) (h : s.At n p) :
    (s.evidence src i q).2.At n p := by
  refine base.hand.evidence (fun _ => ?_) (fun _ _ => State.noted_keeps h fun _ h => h) h
  rw [State.enterConflict_eq]
  exact h

theorem advance {s : State} {dt : Moment} (h : dt.after = 0) (hs : s.At n p) : (s.advance dt).At n p :=
  ⟨by rw [State.advance_now, h]; exact hs.1, hs.2⟩

/-- Within an event no time passes, for its rivals come at the same moment (log entry 37). -/
theorem keeper (n : Time) (p : List Instr) : InstantKeeper fun _ s => s.At n p where
  perm := fun _ h => h
  own := fun _ _ _ h => h
  instant := advance
  less := fun _ h => h
  parts := fun _ => parts _
  frame := fun _ f _ => frame f
  finish := fun o _ => acts.finish _ o
  conclude := fun e o => acts.conclude e o
  heard := fun _ _ _ _ _ => evidence _ _ _
  noticed := fun _ _ _ _ => evidence _ _ _

end State.At

/-- No command faults and none is refused. -/
theorem exec_isNext (c : Instr) (s : State) : ∃ t, exec c s = .next t := by
  by_cases held : ∃ dt low, c = .dominantEdge ⟨dt, low⟩ ∧ s.start.hold ≠ .none
  · obtain ⟨dt, low, rfl, hold⟩ := held
    exact ⟨_, if_neg hold⟩
  · push Not at held
    by_cases hc : isReset c = true
    · cases c with
      | powerOn | resetPinAsserted | resetPinReleased => exact ⟨_, rfl⟩
      | _ => cases hc
    · have noEdge : s.start.hold = .none ∨ ∀ dt low, c ≠ .dominantEdge ⟨dt, low⟩ := by
        by_cases e : s.start.hold = .none
        · exact .inl e
        · exact .inr fun dt low h => e (held dt low h)
      rw [exec_eq_event s (by simpa using hc) noEdge]
      rcases event_cases (moment c) s (effectOf c) with ⟨e, _⟩ | ⟨e, _⟩ | e | ⟨_, _, _, _, _, e⟩ <;>
        exact ⟨_, e⟩

/-- Settles O2: the effects take no time of their own. -/
theorem everyCommandCompletes : Obligations.EveryCommandCompletes := by
  intro c s
  obtain ⟨t, ht⟩ := exec_isNext c s
  have before : (s.advance (moment c)).At (s.now + (moment c).after) s.pending := ⟨State.advance_now s _, rfl⟩
  obtain ⟨now, pending⟩ := (State.At.keeper _ _).exec before ht
  exact ⟨t, ht, now, pending⟩

end Sys2Proof.Machine
end

section
/-! PROOFS. The passage of time (R1, R3, R5, R162) and the pending restart (R99, R116, R176). -/

namespace Sys2Proof.Machine

/-! ### The passage of time -/

theorem Attempt.bitAt_eq (a : Attempt) (now : Time) :
    a.bitAt now = min ((now - a.start) / 100) (42 + 8 * a.frame.body.length) := by
  have last : a.frame.bitCount + 2 = 42 + 8 * a.frame.body.length := by
    unfold Frame.bitCount
    omega
  rw [Attempt.bitAt, last]
  rfl

/-- The edge of a bit on a recessive line begins a run and a bit time, which outlasts the run (R1). -/
theorem Wire.pull_lowTime (w : Wire) (start : Time) (b : Bool) :
    w.pull start (lowTime b) =
      if w.freed ≤ start then
        { w with edge := start, freed := start + lowTime b, quiet := start + 100 }
      else
        { w with freed := max w.freed (start + lowTime b), quiet := max w.quiet (start + lowTime b) } := by
  have bit : max (lowTime b) bitTime = 100 := by cases b <;> rfl
  rw [Wire.pull, bit]

/-- The activity of a transmitter, in units of its bits. -/
theorem activityAt_eq (now : Time) (a : Attempt) :
    activityAt now a =
      if now < a.start + 7 * 100 then .arbitrating
      else if now < a.start + (40 + 8 * a.frame.body.length) * 100 then .sending
      else .reading :=
  rfl

theorem LineUnit.at_of_attempt {l : LineUnit} {a : Attempt} (h : l.attempt = some a) (now : Time) :
    l.at now = { l with activity := activityAt now a, wire := a.wireAt l.wire now } := by
  rw [LineUnit.at, h]

theorem LoadOutput.at_eq (o : LoadOutput) (phase t t' : Time) :
    o.at phase t t' =
      { o with shown := if (t + phase) / 2000 < (t' + phase) / 2000 then o.duty else o.shown } := by
  unfold LoadOutput.at pulseTime ms
  split <;> rfl

/-- Settles O4: time moves an attempt and the duty that an output drives. -/
theorem whatTimeDoes : Obligations.WhatTimeDoes := by
  intro s dt
  refine ⟨_, rfl, fun none => State.advance_line_of_no_attempt dt none, fun a sending => ?_, fun i => ?_⟩
  · show s.line.at (s.now + dt.after) = _
    rw [LineUnit.at_of_attempt sending, activityAt_eq, Attempt.wireAt, Wire.pull_lowTime, Attempt.bitAt_eq]
    rfl
  · show (mapV _ s.outputs.loads)[i.val] = _
    rw [getElem_mapV, LoadOutput.at_eq]
    rfl

@[simp] theorem State.advance_condition (s : State) (dt : Moment) :
    (s.advance dt).line.condition = s.line.condition := by
  rw [State.advance_line, LineUnit.at]
  split <;> rfl

/-! ### The pending restart -/

theorem State.restartDue_iff (s : State) :
    s.restartDue = true ↔
      (∃ t, s.service.restart = .atTime t ∧ t ≤ s.now)
        ∨ (s.service.restart = .atIdle ∧ s.line.condition = .idle) := by
  unfold State.restartDue
  cases s.service.restart <;> simp

theorem Record.isHome_startValues (r : Record) : r.startValues.isHome = r.isHome := by
  cases r <;> rfl

/-- The HOME channels are the same under new records of the same roles. -/
theorem State.homeChans_congr {s t : State} (h : ∀ c, (t.chan c).isHome = (s.chan c).isHome) :
    t.homeChans = s.homeChans :=
  List.filter_congr fun c _ => h c

theorem State.startChannels_cursor (s : State) : s.startChannels.channels.cursor = s.homeChans.headD 0 := by
  have same : (s.mapChans Record.startValues).homeChans = s.homeChans :=
    State.homeChans_congr fun c => by rw [State.chan_mapChans, Record.isHome_startValues]
  exact congrArg (List.headD · 0) same

/-- The receiver behind a line restart: nothing held, and blanked where an emission has been cut (R139,
R145). -/
theorem State.stopEmitter_restart_ir (s : State) :
    ({ s with ir := s.ir.restart } : State).stopEmitter.ir =
      { s.ir with
        decoder := .idle, held := none
        blanking := if s.emitter.current.isSome then .ending (s.now + 10 * ms) else s.ir.blanking } := by
  unfold State.stopEmitter
  cases s.emitter.current <;> rfl

/-- Settles O7: a new start is the reset of every block, and a line restart the claim given to each. -/
theorem pendingRestartBegins : Obligations.PendingRestartBegins := by
  intro s dt straps awake pending
  have due : (s.advance dt).restartDue = true := by
    rw [State.restartDue_iff, State.advance_condition]
    exact pending
  refine ⟨fun fault => event_eq awake (effect := State.pendingRestart straps) ?_ rfl, fun onLine => ?_⟩
  · have state : (s.advance dt).start.state = .configFault := fault
    rw [State.pendingRestart, if_pos due, state]
    rfl
  have effect : (s.advance dt).pendingRestart straps = (s.advance dt).clearRestart.lineRestart := by
    have state : (s.advance dt).start.state = .joining ∨ (s.advance dt).start.state = .active := onLine
    rw [State.pendingRestart, if_pos due]
    rcases state with state | state <;> rw [state]
  refine ⟨_, event_eq awake (effect := State.pendingRestart straps) effect ?_, ?_⟩
  · rw [State.lineRestart_eq]
    rfl
  refine ⟨?start, ?own, ?announce, ?period, State.peer_lineRestart _, State.chan_lineRestart _, ?rest⟩ <;>
    rw [State.lineRestart_eq]
  case rest =>
    refine ⟨State.startChannels_cursor _, rfl, rfl, rfl, rfl, fun i => ?_, rfl, rfl, rfl,
      State.stopEmitter_restart_ir _, rfl, rfl, rfl, rfl, fun k => ?_, fun i => ?_, rfl, rfl, rfl, rfl, rfl, rfl, rfl⟩
    · exact getElem_mapV _ _ _ i.isLt
    · exact getElem_mapV _ _ _ k.isLt
    · exact getElem_mapV _ _ _ i.isLt
  all_goals rfl

end Sys2Proof.Machine
end

section
/-! PROOFS. Loading: the reads of the configuration memory and the checks of the header (R101, R104). -/

namespace Sys2Proof.Machine

/-! ### The header of an image (Table 12-5) -/

theorem apart_iff (l : List Byte) (j k : Nat) :
    apart l j k = true ↔
      sectionLength l j = 0 ∨ sectionOffset l j + sectionLength l j ≤ sectionOffset l k
        ∨ sectionOffset l k + sectionLength l k ≤ sectionOffset l j := by
  simp only [apart, Bool.or_eq_true, beq_iff_eq, decide_eq_true_eq, or_assoc]

theorem sectionFits_iff (l : List Byte) (k : Nat) :
    sectionFits l k = true ↔
      sectionOffset l k + sectionLength l k ≤ declaredLength l
        ∧ (sectionLength l k = 0 ∨ 40 ≤ sectionOffset l k ∧ ∀ j, j < k → apart l j k = true) := by
  simp only [sectionFits, Bool.and_eq_true, Bool.or_eq_true, beq_iff_eq, decide_eq_true_eq, List.all_eq_true,
    List.mem_range]
  rfl

/-- An entry of the section table is read with its last byte. -/
theorem lt_sectionsRead_iff (l : List Byte) (k : Nat) :
    k < sectionsRead l ↔ k < 8 ∧ 12 + 4 * k ≤ l.length := by
  unfold sectionsRead
  omega

/-- The sections read so far all fit. -/
theorem sectionsFit_iff (l : List Byte) :
    (List.range (sectionsRead l)).all (sectionFits l) = true ↔
      ∀ k, k < 8 → 12 + 4 * k ≤ l.length → sectionFits l k = true := by
  simp only [List.all_eq_true, List.mem_range, lt_sectionsRead_iff, and_imp]

/-- The signature bytes read so far are A5h 46h. -/
def SignatureFits (l : List Byte) : Prop := 2 ≤ l.length → byteAt l 0 = 0xA5 ∧ byteAt l 1 = 0x46

/-- The declared length, once read, is 40 to 4096. -/
def LengthFits (l : List Byte) : Prop := 6 ≤ l.length → 40 ≤ declaredLength l ∧ declaredLength l ≤ 4096

theorem headerFault_of_signature {l : List Byte} (h : ¬SignatureFits l) :
    headerFault l = some .badSignature :=
  if_pos (Classical.not_imp.1 h)

theorem headerFault_of_length {l : List Byte} (signature : SignatureFits l) (h : ¬LengthFits l) :
    headerFault l = some .badLength := by
  rw [headerFault, if_neg fun c => c.2 (signature c.1)]
  exact if_pos (Classical.not_imp.1 h)

theorem headerFault_of_fits {l : List Byte} (signature : SignatureFits l) (length : LengthFits l) :
    headerFault l =
      if (List.range (sectionsRead l)).all (sectionFits l) = true then none else some .badLength := by
  rw [headerFault, if_neg fun c => c.2 (signature c.1)]
  exact if_neg fun c => c.2 (length c.1)

/-! ### A read of the configuration memory -/

/-- The identity is taken with its last byte. -/
def identityOf (old : BitVec 16) (l : List Byte) : BitVec 16 := if 4 ≤ l.length then wordAt l 2 else old

theorem State.readIdentity_eq (s : State) (l : List Byte) :
    s.readIdentity l = { s with start := { s.start with imageId := identityOf s.start.imageId l } } := by
  unfold State.readIdentity identityOf
  split <;> rfl

/-- The state with one more byte read. -/
def State.byteRead (s : State) (b : Byte) : State :=
  { s with
    start :=
      { s.start with
        loaded := s.start.loaded ++ [b], imageId := identityOf s.start.imageId (s.start.loaded ++ [b]) } }

section

variable {s : State} {b : Byte} (loading : s.start.state = .loading)
include loading

/-- A byte joins those read, and they are judged. -/
theorem State.imageRead_some (b : Byte) :
    s.imageRead (some b) =
      match headerFault (s.byteRead b).start.loaded with
      | some c => (s.byteRead b).loadFails c
      | none =>
        if 40 ≤ (s.byteRead b).start.loaded.length
            ∧ declaredLength (s.byteRead b).start.loaded ≤ (s.byteRead b).start.loaded.length then
          (s.byteRead b).imageComplete (s.byteRead b).start.loaded
        else s.byteRead b := by
  rw [State.imageRead, if_pos loading]
  dsimp only [State.imageByte]
  rw [State.readIdentity_eq]
  rfl

theorem State.imageRead_of_fault {c : FaultCode} (fault : headerFault (s.start.loaded ++ [b]) = some c) :
    s.imageRead (some b) = (s.byteRead b).loadFails c := by
  rw [State.imageRead_some loading, show headerFault (s.byteRead b).start.loaded = some c from fault]

theorem State.imageRead_of_part (sound : headerFault (s.start.loaded ++ [b]) = none)
    (part : ¬(40 ≤ (s.start.loaded ++ [b]).length
      ∧ declaredLength (s.start.loaded ++ [b]) ≤ (s.start.loaded ++ [b]).length)) :
    s.imageRead (some b) = s.byteRead b := by
  rw [State.imageRead_some loading, show headerFault (s.byteRead b).start.loaded = none from sound]
  exact if_neg part

theorem State.imageRead_of_whole (sound : headerFault (s.start.loaded ++ [b]) = none)
    (header : 40 ≤ (s.start.loaded ++ [b]).length)
    (whole : declaredLength (s.start.loaded ++ [b]) ≤ (s.start.loaded ++ [b]).length) :
    s.imageRead (some b) = (s.byteRead b).imageComplete (s.start.loaded ++ [b]) := by
  rw [State.imageRead_some loading, show headerFault (s.byteRead b).start.loaded = none from sound]
  exact if_pos ⟨header, whole⟩

end

/-- Settles O8: no check looks past the bytes read, and the first that fails gives the fault. -/
theorem imageByteIsRead : Obligations.ImageByteIsRead := by
  refine ⟨?_, ?_⟩
  · intro s dt b l id awake loading
    refine ⟨fun sound more => ?_, fun c fault => ?_, ?_⟩
    · have part : ¬(40 ≤ l.length ∧ declaredLength l ≤ l.length) := by omega
      exact event_eq awake (effect := State.imageRead (some b))
        (State.imageRead_of_part (s := s.advance dt) loading sound part) awake.2.1
    · exact event_eq awake (effect := State.imageRead (some b))
        (State.imageRead_of_fault (s := s.advance dt) loading fault) awake.2.1
    · exact event_eq awake (effect := State.imageRead none) (if_pos loading) awake.2.1
  · intro l declared offset length fits
    have fits_iff (k : Nat) : sectionFits l k = true ↔ fits k := by
      rw [sectionFits_iff]
      simp only [apart_iff]
      rfl
    refine ⟨fun long bad => headerFault_of_signature fun h => bad (h long), fun signature => ⟨fun long bad =>
      headerFault_of_length signature fun h => bad (h long), fun lengths => ?_⟩⟩
    rw [headerFault_of_fits signature lengths]
    simp only [sectionsFit_iff, fits_iff]
    exact ⟨fun ⟨k, hk, read, bad⟩ => if_neg fun all => bad (all k hk read), fun all => if_pos all⟩

end Sys2Proof.Machine
end

section
/-! PROOFS. The last byte of an image: the image check, and the sections in their order (R102 to R104). -/

namespace Sys2Proof.Machine

/-! ### The image check (R102) -/

theorem imageCheckOf_snoc (bits : List Bool) (b : Bool) :
    imageCheckOf (bits ++ [b]) =
      if b = (imageCheckOf bits).getLsbD 15 then imageCheckOf bits <<< 1
      else (imageCheckOf bits <<< 1) ^^^ ((1 : BitVec 16) <<< 12 ||| (1 : BitVec 16) <<< 5 ||| 1) := by
  have flip : (1 : BitVec 16) <<< 12 ||| (1 : BitVec 16) <<< 5 ||| 1 = 0x1021#16 := by decide
  rw [imageCheckOf, List.foldl_append, ← imageCheckOf, flip]
  show checkBit 0x1021#16 (imageCheckOf bits) b = _
  rw [checkBit, BitVec.msb_eq_getLsbD_last]
  cases b <;> cases (imageCheckOf bits).getLsbD 15 <;> rfl

theorem msbBits_byte (b : Byte) : msbBits b = (List.range 8).map fun i => b.getLsbD (7 - i) := by
  refine List.map_congr_left fun i hi => ?_
  rw [BitVec.getMsbD, decide_eq_true (List.mem_range.1 hi)]
  rfl

theorem byteBits_eq (l : List Byte) :
    byteBits l = l.flatMap fun b => (List.range 8).map fun i => b.getLsbD (7 - i) :=
  congrArg (l.flatMap ·) (funext msbBits_byte)

/-! ### The order of the checks (Table 6-3) -/

theorem orFault_none_bind {α β : Type} (c : FaultCode) (f : α → Except FaultCode β) :
    orFault c none >>= f = .error c :=
  rfl

theorem orFault_some_bind {α β : Type} (c : FaultCode) (a : α) (f : α → Except FaultCode β) :
    orFault c (some a) >>= f = f a :=
  rfl

/-- The three maps are judged with one fault code. -/
theorem orFault_maps_none {α β γ δ : Type} {a : Option α} {b : Option β} {c : Option γ}
    (h : a = none ∨ b = none ∨ c = none) (f : α → β → γ → Except FaultCode δ) :
    (orFault .badMap a >>= fun x => orFault .badMap b >>= fun y => orFault .badMap c >>= fun z => f x y z) =
      .error .badMap := by
  cases a with
  | none => rfl
  | some x =>
    cases b with
    | none => rfl
    | some y =>
      cases c with
      | none => rfl
      | some z => simp at h

/-- What the image declares, for the sections behind its channels (R103). -/
def declaredIn (rs : List (Chan × Record)) (l : List Byte) : Declared :=
  { records := declaredRecords rs, sets := setsDeclared l, macros := (byteAt (sectionBytes l 7) 0).toNat }

theorem validate_eq (own : Addr) (l : List Byte) :
    validate own l =
      (do
        let settings ← orFault .badSetting (parseSettings (sectionBytes l 0))
        let rs ← orFault .badChannel (parseChannels own (sectionBytes l 1))
        let loads ← orFault .badMap (parseSection 3 8 (parseOutput (declaredIn rs l)) (sectionBytes l 2))
        let inds ← orFault .badMap (parseSection 3 8 (parseIndicator (declaredIn rs l)) (sectionBytes l 3))
        let emits ← orFault .badMap (parseSection 9 16 (parseEmit (declaredIn rs l)) (sectionBytes l 4))
        let codeSets ← orFault .badCodeSet (parseCodeSets (sectionBytes l 5))
        let bindings ←
          orFault .badBinding (parseSection 19 96 (parseBinding (declaredIn rs l)) (sectionBytes l 6))
        let macros ← orFault .badMacro (parseMacroSection (declaredIn rs l) (sectionBytes l 7))
        return { settings := settings, records := declaredRecords rs, loads := loads, indicators := inds,
                 emitMap := emits, codeSets := codeSets, bindings := bindings, macros := macros }) :=
  rfl

/-! ### The records that an image declares -/

theorem noRepeats_iff {α : Type} [DecidableEq α] (l : List α) : noRepeats l = true ↔ l.Nodup := by
  induction l with
  | nil => simp [noRepeats]
  | cons a l ih => simp [noRepeats, ih]

theorem nodup_of_parseChannels {own : Addr} {l : List Byte} {rs : List (Chan × Record)}
    (h : parseChannels own l = some rs) : (rs.map Prod.fst).Nodup := by
  unfold parseChannels at h
  split at h
  · cases h
  · obtain ⟨nodup, rfl⟩ := onlyIf_eq_some.1 h
    exact (noRepeats_iff _).1 nodup

theorem declaredRecords_snoc (rs : List (Chan × Record)) (x : Chan × Record) (c : Chan) :
    (declaredRecords (rs ++ [x]))[c] = if x.1 = c then x.2 else (declaredRecords rs)[c] := by
  rw [declaredRecords, List.foldl_append]
  simp only [List.foldl_cons, List.foldl_nil, Fin.getElem_fin, Vector.getElem_set, Fin.val_inj]
  rfl

theorem declaredRecords_of_notMem {rs : List (Chan × Record)} {c : Chan} (h : c ∉ rs.map Prod.fst) :
    (declaredRecords rs)[c] = .unused := by
  induction rs using List.reverseRecOn with
  | nil => exact Vector.getElem_replicate _
  | append_singleton rs x ih =>
    rw [List.map_append, List.mem_append, not_or] at h
    rw [declaredRecords_snoc, if_neg fun e => h.2 (by simp [e]), ih h.1]

theorem declaredRecords_of_mem {rs : List (Chan × Record)} (nodup : (rs.map Prod.fst).Nodup) {c : Chan}
    {r : Record} (h : (c, r) ∈ rs) : (declaredRecords rs)[c] = r := by
  induction rs using List.reverseRecOn with
  | nil => cases h
  | append_singleton rs x ih =>
    rw [List.map_append, List.nodup_append] at nodup
    obtain ⟨nodup, -, apart⟩ := nodup
    rw [declaredRecords_snoc]
    rcases List.mem_append.1 h with h | h
    · rw [if_neg, ih nodup h]
      exact (apart c (List.mem_map_of_mem (f := Prod.fst) h) x.1 (by simp)).symm
    · obtain rfl := List.mem_singleton.1 h
      exact if_pos rfl

/-! ### The last byte -/

/-- The parts of a validated image, each from its section. -/
def imageOf (st : Settings) (rs : List (Chan × Record)) (ls : List (Option OutputMap)) (ns : List IndicatorMap)
    (es : List EmitEntry) (cs : List CodeSet) (bs : List Binding) (macros : List (List Step)) : Image :=
  { settings := st, records := declaredRecords rs, loads := ls, indicators := ns, emitMap := es
    codeSets := cs, bindings := bs, macros := macros }

theorem checkImage_of_fails (own : Addr) {l : List Byte} (h : imageCheckPasses l = false) :
    checkImage own l = .error .badCheck :=
  if_neg (by simp [h])

theorem checkImage_of_passes (own : Addr) {l : List Byte} (h : imageCheckPasses l = true) :
    checkImage own l = validate own l :=
  if_pos h

theorem State.imageComplete_of_error {s : State} {l : List Byte} {c : FaultCode}
    (h : checkImage s.start.ownAddress l = .error c) : s.imageComplete l = s.loadFails c := by
  rw [State.imageComplete, h]

theorem State.imageComplete_of_ok {s : State} {l : List Byte} {m : Image}
    (h : checkImage s.start.ownAddress l = .ok m) : s.imageComplete l = s.loadSucceeds m := by
  rw [State.imageComplete, h]

/-- What the last byte of an image makes of the state. -/
theorem exec_imageRead_whole {s : State} {b : Byte} {dt : Moment} {t : State} (awake : s.Awake)
    (loading : s.start.state = .loading) (sound : headerFault (s.start.loaded ++ [b]) = none)
    (header : 40 ≤ (s.start.loaded ++ [b]).length)
    (whole : declaredLength (s.start.loaded ++ [b]) ≤ (s.start.loaded ++ [b]).length)
    (complete : ((s.advance dt).byteRead b).imageComplete (s.start.loaded ++ [b]) = t)
    (settled : t.queue.evicted = false) : exec (.imageRead dt (some b)) s = .next t :=
  event_eq awake (effect := State.imageRead (some b))
    ((State.imageRead_of_whole (s := s.advance dt) loading sound header whole).trans complete) settled

theorem State.loadSucceeds_cursor (s : State) (m : Image) :
    (s.loadSucceeds m).channels.cursor =
      ((List.finRange 64).filter fun c => ((s.loadSucceeds m).chan c).isHome).headD 0 := by
  have homes : (s.loadSucceeds m).homeChans
      = ({ s with channels := { s.channels with records := m.records } } : State).homeChans :=
    State.homeChans_congr fun c => by
      rw [State.chan_loadSucceeds, Record.isHome_startValues]
      rfl
  refine Eq.trans ?_ (congrArg (List.headD · 0) homes).symm
  rw [State.loadSucceeds_eq]
  exact State.startChannels_cursor _

/-- Settles O9: the sections are judged in the order of the checks, and each fault names the first that
fails. -/
theorem imageIsComplete : Obligations.ImageIsComplete := by
  refine ⟨fun bits b => ⟨rfl, imageCheckOf_snoc bits b⟩, fun l => ⟨byteBits_eq l, fun _ => ⟨beq_iff_eq, rfl⟩⟩, ?_⟩
  intro s dt b l awake loading hl sound header whole sec fails
  subst hl
  have id : identityOf s.start.imageId (s.start.loaded ++ [b]) = wordAt (s.start.loaded ++ [b]) 2 :=
    if_pos (by omega)
  have failed {c : FaultCode}
      (h : checkImage s.start.ownAddress (s.start.loaded ++ [b]) = .error c) : fails c := by
    refine exec_imageRead_whole awake loading sound header whole ?_ awake.2.1
    rw [State.imageComplete_of_error (s := (s.advance dt).byteRead b) h, ← id]
    rfl
  refine ⟨fun bad => failed (checkImage_of_fails _ (by simpa [imageCheckPasses] using bad)), fun good => ?_⟩
  have passes := checkImage_of_passes s.start.ownAddress
    (show imageCheckPasses (s.start.loaded ++ [b]) = true from beq_iff_eq.2 good)
  rw [validate_eq] at passes
  refine ⟨fun bad => failed ?_, fun st hst => ?_⟩
  · rw [passes, show parseSettings (sectionBytes _ 0) = none from bad]
    rfl
  rw [show parseSettings (sectionBytes _ 0) = some st from hst, orFault_some_bind] at passes
  refine ⟨fun bad => failed ?_, ?_⟩
  · rw [passes, show parseChannels _ (sectionBytes _ 1) = none from bad]
    rfl
  intro rs hrs d loads inds emits
  have nodup := nodup_of_parseChannels hrs
  rw [show parseChannels _ (sectionBytes _ 1) = some rs from hrs, orFault_some_bind] at passes
  refine ⟨fun bad => failed ?_, fun ls ns es hls hns hes => ?_⟩
  · exact passes.trans (orFault_maps_none bad _)
  rw [show parseSection 3 8 (parseOutput (declaredIn rs _)) (sectionBytes _ 2) = some ls from hls, orFault_some_bind,
    show parseSection 3 8 (parseIndicator (declaredIn rs _)) (sectionBytes _ 3) = some ns from hns, orFault_some_bind,
    show parseSection 9 16 (parseEmit (declaredIn rs _)) (sectionBytes _ 4) = some es from hes,
    orFault_some_bind] at passes
  refine ⟨fun bad => failed ?_, fun cs hcs => ?_⟩
  · rw [passes, show parseCodeSets (sectionBytes _ 5) = none from bad]
    rfl
  rw [show parseCodeSets (sectionBytes _ 5) = some cs from hcs, orFault_some_bind] at passes
  refine ⟨fun bad => failed ?_, fun bs hbs => ?_⟩
  · rw [passes, show parseSection 19 96 (parseBinding (declaredIn rs _)) (sectionBytes _ 6) = none from bad]
    rfl
  rw [show parseSection 19 96 (parseBinding (declaredIn rs _)) (sectionBytes _ 6) = some bs from hbs,
    orFault_some_bind] at passes
  refine ⟨fun bad => failed ?_, fun macros hmacros => ?_⟩
  · rw [passes, show parseMacroSection (declaredIn rs _) (sectionBytes _ 7) = none from bad]
    rfl
  rw [show parseMacroSection (declaredIn rs _) (sectionBytes _ 7) = some macros from hmacros,
    orFault_some_bind] at passes
  have loaded : ((s.advance dt).byteRead b).imageComplete (s.start.loaded ++ [b]) =
      ((s.advance dt).byteRead b).loadSucceeds (imageOf st rs ls ns es cs bs macros) :=
    State.imageComplete_of_ok passes
  refine ⟨_, exec_imageRead_whole awake loading sound header whole loaded ?settled, ?start,
    State.chan_loadSucceeds _ _, fun c r => declaredRecords_of_mem nodup, fun c => declaredRecords_of_notMem,
    State.loadSucceeds_cursor _ _, ?rest⟩
  all_goals rw [State.loadSucceeds_eq]
  case settled => exact awake.2.1
  case start => rw [← id]; rfl
  case rest =>
    refine ⟨rfl, rfl, rfl, rfl, rfl, fun i => ?_, fun i => ?_, rfl, rfl, rfl, rfl, rfl, rfl, rfl, rfl⟩
    · exact getElem_tabV _ _ i.isLt
    · exact getElem_tabV _ _ i.isLt

end Sys2Proof.Machine
end

section
/-! PROOFS. What the sections of a start image must hold (Tables 6-3, 12-3, 12-6 and 12-7): a parser gives a
value exactly when the bytes are those of the table. -/

namespace Sys2Proof.Machine

/-! ### Sections as records (R179) -/

theorem allSome_eq_some_iff {α : Type} {l : List (Option α)} {m : List α} :
    allSome l = some m ↔ l = m.map some := by
  induction l generalizing m with
  | nil => cases m <;> simp [allSome]
  | cons o l ih =>
    cases o with
    | none => cases m <;> simp [allSome]
    | some a =>
      cases m with
      | nil => simp [allSome]
      | cons b m => simp [allSome, ih, and_comm]

@[simp] theorem length_chunks {α : Type} (n k : Nat) (l : List α) : (chunks n k l).length = k := by
  induction k generalizing l with
  | zero => rfl
  | succ k ih => rw [chunks, List.length_cons, ih]

theorem getElem?_chunks {α : Type} {n k i : Nat} (l : List α) (h : i < k) :
    (chunks n k l)[i]? = some ((l.drop (n * i)).take n) := by
  induction k generalizing l i with
  | zero => cases h
  | succ k ih =>
    cases i with
    | zero => rfl
    | succ i =>
      rw [chunks, List.getElem?_cons_succ, ih _ (Nat.lt_of_succ_lt_succ h), List.drop_drop, Nat.mul_succ,
        Nat.add_comm]

/-- A list of whole pieces has as many as its length gives. -/
theorem pieces_of_length {α : Type} {n k : Nat} {l : List α} (hn : 0 < n) (h : l.length = n * k) :
    pieces n l = chunks n k l := by
  have count : (l.length + n - 1) / n = k := by
    rw [h, Nat.add_sub_assoc hn, Nat.mul_add_div hn, Nat.div_eq_of_lt (by omega), Nat.add_zero]
  rw [pieces, count]

theorem parseSection_eq_some_iff {α : Type} {size most : Nat} {parse : List Byte → Option α} {l : List Byte}
    {xs : List α} (hsize : 0 < size) :
    parseSection size most parse l = some xs ↔
      l.length = size * xs.length ∧ xs.length ≤ most
        ∧ ∀ i x, xs[i]? = some x → parse ((l.drop (size * i)).take size) = some x := by
  have records {k : Nat} (h : l.length = size * k) : recordsOf size l = some (chunks size k l) := by
    rw [recordsOf, if_pos (by rw [h, Nat.mul_mod_right]), pieces_of_length hsize h]
  have mapped : (chunks size xs.length l).map parse = xs.map some ↔
      ∀ i x, xs[i]? = some x → parse ((l.drop (size * i)).take size) = some x := by
    rw [List.ext_getElem?_iff]
    refine forall_congr' fun i => ?_
    rcases Nat.lt_or_ge i xs.length with hi | hi
    · rw [List.getElem?_map, getElem?_chunks l hi, List.getElem?_map, List.getElem?_eq_getElem hi]
      simp
    · simp [hi]
  constructor
  · intro h
    unfold parseSection at h
    split at h
    · cases h
    next rs hrs =>
      split at h
      next few =>
        have whole : l.length % size = 0 := by
          by_contra hw
          rw [recordsOf, if_neg hw] at hrs
          cases hrs
        have length : l.length = size * (l.length / size) := by
          have := Nat.div_add_mod l.length size
          omega
        obtain rfl := Option.some.inj (hrs.symm.trans (records length))
        have parsed := allSome_eq_some_iff.1 h
        have count : xs.length = l.length / size := by
          simpa using (congrArg List.length parsed).symm
        rw [length_chunks] at few
        rw [← count] at length few parsed
        exact ⟨length, few, mapped.1 parsed⟩
      next => cases h
  · rintro ⟨length, few, parsed⟩
    unfold parseSection
    rw [records length]
    simp only [length_chunks, few, if_true]
    exact allSome_eq_some_iff.2 (mapped.2 parsed)

/-! ### Codes (Table 12-3) -/

theorem byte_toNat_eq {b : Byte} {n : Nat} (h : n < 256) : b.toNat = n ↔ b = BitVec.ofNat 8 n := by
  rw [← BitVec.toNat_inj, BitVec.toNat_ofNat, Nat.mod_eq_of_lt h]

theorem eq_chanByte_iff (b : Byte) (c : Chan) : b = chanByte c ↔ b.toNat < 64 ∧ chanOf b = c := by
  have small := c.isLt
  rw [chanByte, ← byte_toNat_eq (by omega), ← Fin.val_inj]
  show _ ↔ _ ∧ b.toNat % 64 = c.val
  omega

theorem ChanKind.ofCode_eq_some (b : Byte) (k : ChanKind) : ChanKind.ofCode b = some k ↔ b = k.code := by
  constructor
  · intro h
    unfold ChanKind.ofCode at h
    split at h <;> cases h <;> exact (byte_toNat_eq (by decide)).1 ‹_›
  · rintro rfl
    cases k <;> rfl

theorem Op.ofCode_eq_some (b : Byte) (o : Op) : Op.ofCode b = some o ↔ b = o.code := by
  constructor
  · intro h
    unfold Op.ofCode at h
    split at h <;> cases h <;> exact (byte_toNat_eq (by decide)).1 ‹_›
  · rintro rfl
    cases o <;> rfl

/-- The number of a trigger (Table 12-6). -/
def Trigger.number : Trigger → Nat
  | .press => 1
  | .shortRelease => 2
  | .hold => 3
  | .repeated => 4
  | .release => 5

theorem Trigger.ofCode_eq_some (b : Byte) (t : Trigger) : Trigger.ofCode b = some t ↔ b.toNat = t.number := by
  constructor
  · intro h
    unfold Trigger.ofCode at h
    split at h <;> cases h <;> assumption
  · intro h
    unfold Trigger.ofCode
    rw [h]
    cases t <;> rfl

/-! ### Settings and code sets -/

theorem within_iff (lo hi n : Nat) : within lo hi n = true ↔ lo ≤ n ∧ n ≤ hi := decide_eq_true_iff

theorem parseSettings_eq_some_iff (l : List Byte) (st : Settings) :
    parseSettings l = some st ↔
      l.length = 6 ∧ (5 ≤ (byteAt l 0).toNat ∧ (byteAt l 0).toNat ≤ 40)
        ∧ (20 ≤ (byteAt l 1).toNat ∧ (byteAt l 1).toNat ≤ 160)
        ∧ 3 * (byteAt l 0).toNat + 5 ≤ (byteAt l 1).toNat
        ∧ (200 ≤ (wordAt l 2).toNat ∧ (wordAt l 2).toNat ≤ 2000)
        ∧ (50 ≤ (wordAt l 4).toNat ∧ (wordAt l 4).toNat ≤ 1000)
        ∧ st =
            { period := byteAt l 0, listenWindow := 100 * (byteAt l 1).toNat * ms
              holdTime := (wordAt l 2).toNat * ms, repeatPeriod := (wordAt l 4).toNat * ms } := by
  simp only [parseSettings, onlyIf_eq_some, Bool.and_eq_true, beq_iff_eq, within_iff, decide_eq_true_eq, and_assoc]
  rw [eq_comm (b := st)]

theorem leadersOverlap_eq_false (a b : CodeSet) :
    leadersOverlap a b = false ↔
      a.leaderMark * (100 + a.tolerance) < b.leaderMark * (100 - b.tolerance)
        ∨ b.leaderMark * (100 + b.tolerance) < a.leaderMark * (100 - a.tolerance) := by
  rw [leadersOverlap, decide_eq_false_iff_not, not_and_or, Nat.not_le, Nat.not_le, or_comm]

theorem leadersApart_iff (l : List CodeSet) :
    leadersApart l = true ↔
      l.Pairwise fun a b =>
        a.leaderMark * (100 + a.tolerance) < b.leaderMark * (100 - b.tolerance)
          ∨ b.leaderMark * (100 + b.tolerance) < a.leaderMark * (100 - a.tolerance) := by
  induction l with
  | nil => simp [leadersApart]
  | cons a l ih => simp [leadersApart, ih, leadersOverlap_eq_false]

theorem parseCodeSets_eq_some_iff (l : List Byte) (cs : List CodeSet) :
    parseCodeSets l = some cs ↔ parseSection 17 4 parseCodeSet l = some cs ∧ leadersApart cs = true := by
  unfold parseCodeSets
  cases parseSection 17 4 parseCodeSet l with
  | none => simp
  | some x =>
    rw [onlyIf_eq_some, Option.some.injEq]
    exact ⟨fun ⟨apart, e⟩ => ⟨e, e ▸ apart⟩, fun ⟨e, apart⟩ => ⟨e ▸ apart, e⟩⟩

theorem parseCodeSet_eq_some_iff (l : List Byte) (c : CodeSet) :
    parseCodeSet l = some c ↔
      c =
          { leaderMark := (wordAt l 0).toNat, leaderSpace := (wordAt l 2).toNat
            bitMark := (wordAt l 4).toNat, zeroSpace := (wordAt l 6).toNat
            oneSpace := (wordAt l 8).toNat, holdSpace := (wordAt l 10).toNat
            bitCount := (byteAt l 12).toNat, framePeriod := (byteAt l 13).toNat
            releaseTimeout := (byteAt l 14).toNat, carrier := (byteAt l 15).toNat
            tolerance := (byteAt l 16).toNat }
        ∧ (∀ n ∈ [c.leaderMark, c.leaderSpace, c.bitMark, c.zeroSpace, c.oneSpace, c.holdSpace],
            100 ≤ n ∧ n ≤ 20000)
        ∧ (8 ≤ c.bitCount ∧ c.bitCount ≤ 32) ∧ (40 ≤ c.framePeriod ∧ c.framePeriod ≤ 200)
        ∧ (60 ≤ c.releaseTimeout ∧ c.releaseTimeout ≤ 250)
        ∧ (30 ≤ c.carrier ∧ c.carrier ≤ 60) ∧ (10 ≤ c.tolerance ∧ c.tolerance ≤ 30) := by
  unfold parseCodeSet
  dsimp only
  simp only [onlyIf_eq_some, Bool.and_eq_true, List.all_eq_true, within_iff, and_assoc]
  constructor
  · rintro ⟨h1, h2, h3, h4, h5, h6, h7, h8, h9, h10, h11, rfl⟩
    exact ⟨rfl, h1, h2, h3, h4, h5, h6, h7, h8, h9, h10, h11⟩
  · rintro ⟨rfl, h⟩
    simpa only [and_assoc, and_true] using h

/-! ### Channels -/

theorem parseChannels_eq_some_iff (own : Addr) (l : List Byte) (rs : List (Chan × Record)) :
    parseChannels own l = some rs ↔
      parseSection 4 64 (parseChannel own) l = some rs ∧ (rs.map Prod.fst).Nodup := by
  unfold parseChannels
  cases parseSection 4 64 (parseChannel own) l with
  | none => simp
  | some x =>
    rw [onlyIf_eq_some, Option.some.injEq, noRepeats_iff]
    exact ⟨fun ⟨apart, e⟩ => ⟨e, e ▸ apart⟩, fun ⟨e, apart⟩ => ⟨e ▸ apart, e⟩⟩

theorem parseChannel_eq_some_iff (own : Addr) (l : List Byte) (c : Chan) (r : Record) :
    parseChannel own l = some (c, r) ↔
      byteAt l 0 = chanByte c
        ∧ ∃ k : ChanKind, byteAt l 2 = k.code
          ∧ ((byteAt l 1 = 1 ∧ k.holds (byteAt l 3) = true
              ∧ r = .home (HomeRec.declared k (byteAt l 3)))
            ∨ (byteAt l 1 = 2 ∧ 1 ≤ (byteAt l 3).toNat ∧ (byteAt l 3).toNat ≤ 31
              ∧ byteAt l 3 ≠ own.setWidth 8
              ∧ r = .mirror (MirrorRec.declared k ((byteAt l 3).setWidth 5)))) := by
  simp only [← ChanKind.ofCode_eq_some, eq_chanByte_iff]
  unfold parseChannel
  dsimp only
  constructor
  · intro h
    split at h
    · cases h
    next k hk =>
      split at h
      next small =>
        split at h
        next home =>
          obtain ⟨holds, e⟩ := onlyIf_eq_some.1 h
          obtain ⟨rfl, rfl⟩ := Prod.mk.inj e
          exact ⟨⟨small, rfl⟩, k, hk, .inl ⟨(byte_toNat_eq (by decide)).1 home, holds, rfl⟩⟩
        next mirror =>
          obtain ⟨owner, e⟩ := onlyIf_eq_some.1 h
          obtain ⟨rfl, rfl⟩ := Prod.mk.inj e
          simp only [Bool.and_eq_true, within_iff, bne_iff_ne] at owner
          exact ⟨⟨small, rfl⟩, k, hk, .inr ⟨(byte_toNat_eq (by decide)).1 mirror, owner.1.1, owner.1.2, owner.2,
            rfl⟩⟩
        next => cases h
      next => cases h
  · rintro ⟨⟨small, rfl⟩, k, hk, ⟨role, holds, rfl⟩ | ⟨role, low, high, other, rfl⟩⟩
    · rw [hk]
      dsimp only
      rw [if_pos small, role]
      exact onlyIf_eq_some.2 ⟨holds, rfl⟩
    · rw [hk]
      dsimp only
      rw [if_pos small, role]
      refine onlyIf_eq_some.2 ⟨?_, rfl⟩
      simp only [Bool.and_eq_true, within_iff, bne_iff_ne]
      exact ⟨⟨low, high⟩, other⟩

/-! ### What is declared -/

/-- The value lies within the kind of a declared channel. -/
def Declared.Holds (d : Declared) (c : Chan) (v : Byte) : Prop :=
  ∃ k, (d.records[c]).kind? = some k ∧ k.holds v = true

/-- The bytes name an operation that is valid for the channel they name. -/
def Declared.Acts (d : Declared) (c o x : Byte) (ch : Chan) (op : Op) : Prop :=
  c = chanByte ch ∧ o = op.code ∧ ∃ k, (d.records[ch]).kind? = some k ∧ opValid k op x = true

/-- The bytes name an emission of a declared set with 1 to 8 repeats. -/
def Declared.Emits (d : Declared) (set : Byte) (code : CodeValue) (repeats : Byte) (e : Emission) : Prop :=
  set.toNat < d.sets ∧ 1 ≤ repeats.toNat ∧ repeats.toNat ≤ 8
    ∧ e = { set := setOf set, code := code, repeats := repeats.toNat }

section

variable (d : Declared)

theorem Declared.record_chanByte (c : Chan) : d.record (chanByte c) = d.records[c] := by
  obtain ⟨small, e⟩ := (eq_chanByte_iff _ c).1 rfl
  simp only [Declared.record, if_pos small, e]

/-- A byte beyond the channels has an UNUSED record. -/
theorem Declared.record_cases (b : Byte) :
    (∃ c, b = chanByte c ∧ d.record b = d.records[c]) ∨ d.record b = .unused := by
  by_cases small : b.toNat < 64
  · exact .inl ⟨chanOf b, (eq_chanByte_iff _ _).2 ⟨small, rfl⟩, if_pos small⟩
  · exact .inr (if_neg small)

theorem chanOf_chanByte (c : Chan) : chanOf (chanByte c) = c := ((eq_chanByte_iff _ c).1 rfl).2

/-- What holds of the record of a byte, but of no UNUSED one, holds of a channel that the byte names. -/
theorem Declared.record_iff {p : Record → Prop} (unused : ¬p .unused) (b : Byte) :
    p (d.record b) ↔ ∃ c, b = chanByte c ∧ p d.records[c] := by
  constructor
  · intro h
    rcases d.record_cases b with ⟨c, hb, e⟩ | e
    · exact ⟨c, hb, e ▸ h⟩
    · exact absurd (e ▸ h) unused
  · rintro ⟨c, rfl, h⟩
    rwa [d.record_chanByte]

theorem Declared.holds_iff (b v : Byte) : d.holds b v = true ↔ ∃ c, b = chanByte c ∧ d.Holds c v := by
  have known : d.holds b v = true ↔ ∃ k, (d.record b).kind? = some k ∧ k.holds v = true := by
    unfold Declared.holds
    cases (d.record b).kind? <;> simp
  rw [known]
  exact d.record_iff (p := fun r => ∃ k, r.kind? = some k ∧ k.holds v = true) (by rintro ⟨_, ⟨⟩, _⟩) b

theorem Declared.isHome_iff (b : Byte) :
    (d.record b).isHome = true ↔ ∃ c, b = chanByte c ∧ (d.records[c]).isHome = true :=
  d.record_iff (p := fun r => r.isHome = true) (by decide) b

theorem Declared.hasChannel_iff (b : Byte) :
    d.hasChannel b = true ↔ ∃ c, b = chanByte c ∧ d.records[c] ≠ .unused := by
  have known (r : Record) : r.kind?.isSome = true ↔ r ≠ .unused := by cases r <;> simp [Record.kind?]
  rw [Declared.hasChannel, known]
  exact d.record_iff (p := fun r => r ≠ .unused) (by simp) b

theorem parseEmission_eq_some_iff (set : Byte) (code : CodeValue) (repeats : Byte) (e : Emission) :
    parseEmission d set code repeats = some e ↔ d.Emits set code repeats e := by
  simp only [parseEmission, onlyIf_eq_some, Declared.hasSet, Bool.and_eq_true, decide_eq_true_eq, within_iff,
    and_assoc]
  rw [eq_comm (b := e)]
  rfl

theorem parseChannelAct_eq_some_iff (c o x : Byte) (y : Chan × Op × Byte) :
    parseChannelAct d c o x = some y ↔ d.Acts c o x y.1 y.2.1 ∧ y.2.2 = x := by
  obtain ⟨ch, op, x'⟩ := y
  have known : parseChannelAct d c o x = some (ch, op, x') ↔
      (∃ k, (d.record c).kind? = some k ∧ opValid k op x = true) ∧ Op.ofCode o = some op ∧ chanOf c = ch
        ∧ x' = x := by
    unfold parseChannelAct
    cases (d.record c).kind? with
    | none => simp
    | some k =>
      cases Op.ofCode o with
      | none => simp
      | some op' =>
        simp only [onlyIf_eq_some, Prod.mk.injEq, Option.some.injEq, exists_eq_left']
        constructor
        · rintro ⟨valid, rfl, rfl, rfl⟩
          exact ⟨valid, rfl, rfl, rfl⟩
        · rintro ⟨valid, rfl, rfl, rfl⟩
          exact ⟨valid, rfl, rfl, rfl⟩
  rw [known, Op.ofCode_eq_some,
    d.record_iff (p := fun r => ∃ k, r.kind? = some k ∧ opValid k op x = true) (by rintro ⟨_, ⟨⟩, _⟩) c]
  constructor
  · rintro ⟨⟨c', rfl, valid⟩, code, e, rfl⟩
    rw [chanOf_chanByte] at e
    subst e
    exact ⟨⟨rfl, code, valid⟩, rfl⟩
  · rintro ⟨⟨rfl, code, valid⟩, rfl⟩
    exact ⟨⟨ch, rfl, valid⟩, code, chanOf_chanByte ch, rfl⟩

end

end Sys2Proof.Machine
end

section
/-! PROOFS. The maps, bindings and macros of a start image (Tables 6-3, 12-6 and 12-7). -/

namespace Sys2Proof.Machine

section

variable (d : Declared)

theorem Declared.holds_chanByte (c : Chan) (v : Byte) : d.holds (chanByte c) v = true ↔ d.Holds c v := by
  rw [Declared.holds_iff]
  constructor
  · rintro ⟨c', e, holds⟩
    rwa [← chanOf_chanByte c, e, chanOf_chanByte]
  · exact fun holds => ⟨c, rfl, holds⟩

theorem chanByte_ne_unused (c : Chan) : chanByte c ≠ 0xFF := by
  intro e
  have := ((eq_chanByte_iff _ c).1 e.symm).1
  revert this
  decide

/-! ### Maps -/

theorem parseOutput_eq_some_iff (l : List Byte) (m : Option OutputMap) :
    parseOutput d l = some m ↔
      (byteAt l 0 = 0xFF ∧ m = none)
        ∨ ∃ c : Chan, byteAt l 0 = chanByte c ∧ (d.records[c]).isHome = true
          ∧ ((byteAt l 1 = 1 ∧ m = some { chan := c, mode := .switch })
            ∨ (byteAt l 1 = 2 ∧ m = some { chan := c, mode := .dim (byteAt l 2) })
            ∨ (byteAt l 1 = 3 ∧ d.Holds c (byteAt l 2)
              ∧ m = some { chan := c, mode := .matched (byteAt l 2) })) := by
  unfold parseOutput
  dsimp only
  constructor
  · intro h
    split at h
    next unused => exact .inl ⟨unused, (Option.some.inj h).symm⟩
    next =>
      split at h
      next home =>
        obtain ⟨c, hc, home⟩ := (d.isHome_iff _).1 home
        rw [hc, chanOf_chanByte] at h
        refine .inr ⟨c, hc, home, ?_⟩
        split at h
        next mode => exact .inl ⟨(byte_toNat_eq (by decide)).1 mode, (Option.some.inj h).symm⟩
        next mode => exact .inr (.inl ⟨(byte_toNat_eq (by decide)).1 mode, (Option.some.inj h).symm⟩)
        next mode =>
          obtain ⟨holds, rfl⟩ := onlyIf_eq_some.1 h
          exact .inr (.inr ⟨(byte_toNat_eq (by decide)).1 mode, (d.holds_chanByte _ _).1 holds, rfl⟩)
        next => cases h
      next => cases h
  · rintro (⟨unused, rfl⟩ | ⟨c, hc, home, mode⟩)
    · exact if_pos unused
    · rw [hc, if_neg (chanByte_ne_unused c), d.record_chanByte, if_pos home, chanOf_chanByte]
      rcases mode with ⟨mode, rfl⟩ | ⟨mode, rfl⟩ | ⟨mode, holds, rfl⟩ <;> rw [mode]
      · rfl
      · rfl
      · exact onlyIf_eq_some.2 ⟨(d.holds_chanByte _ _).2 holds, rfl⟩

theorem parseIndicator_eq_some_iff (l : List Byte) (m : IndicatorMap) :
    parseIndicator d l = some m ↔
      (byteAt l 0 = 0 ∧ m = .none) ∨ (byteAt l 0 = 1 ∧ m = .station)
        ∨ ∃ c : Chan, byteAt l 1 = chanByte c
          ∧ ((byteAt l 0 = 2 ∧ d.records[c] ≠ .unused ∧ m = .channel c none)
            ∨ (byteAt l 0 = 3 ∧ d.Holds c (byteAt l 2)
              ∧ m = .channel c (some (byteAt l 2)))) := by
  unfold parseIndicator
  dsimp only
  constructor
  · intro h
    split at h
    next kind => exact .inl ⟨(byte_toNat_eq (by decide)).1 kind, (Option.some.inj h).symm⟩
    next kind => exact .inr (.inl ⟨(byte_toNat_eq (by decide)).1 kind, (Option.some.inj h).symm⟩)
    next kind =>
      obtain ⟨declared, rfl⟩ := onlyIf_eq_some.1 h
      obtain ⟨c, hc, used⟩ := (d.hasChannel_iff _).1 declared
      rw [hc, chanOf_chanByte]
      exact .inr (.inr ⟨c, rfl, .inl ⟨(byte_toNat_eq (by decide)).1 kind, used, rfl⟩⟩)
    next kind =>
      obtain ⟨declared, rfl⟩ := onlyIf_eq_some.1 h
      obtain ⟨c, hc, holds⟩ := (d.holds_iff _ _).1 declared
      rw [hc, chanOf_chanByte]
      exact .inr (.inr ⟨c, rfl, .inr ⟨(byte_toNat_eq (by decide)).1 kind, holds, rfl⟩⟩)
    next => cases h
  · rintro (⟨kind, rfl⟩ | ⟨kind, rfl⟩ | ⟨c, hc, ⟨kind, used, rfl⟩ | ⟨kind, holds, rfl⟩⟩) <;> rw [kind]
    · rfl
    · rfl
    · exact onlyIf_eq_some.2 ⟨(d.hasChannel_iff _).2 ⟨c, hc, used⟩, by rw [hc, chanOf_chanByte]⟩
    · exact onlyIf_eq_some.2 ⟨(d.holds_iff _ _).2 ⟨c, hc, holds⟩, by rw [hc, chanOf_chanByte]⟩

theorem parseEmit_eq_some_iff (l : List Byte) (e : EmitEntry) :
    parseEmit d l = some e ↔
      byteAt l 0 = chanByte e.chan ∧ (d.records[e.chan]).isHome = true
        ∧ d.Emits (byteAt l 3) (longAt l 4) (byteAt l 8) e.emission
        ∧ ((byteAt l 1 = 0 ∧ d.Holds e.chan (byteAt l 2) ∧ e.value = some (byteAt l 2))
          ∨ (byteAt l 1 = 1 ∧ e.value = none)) := by
  unfold parseEmit
  dsimp only
  rw [← parseEmission_eq_some_iff]
  constructor
  · intro h
    split at h
    next => cases h
    next x emission =>
      split at h
      next home =>
        obtain ⟨c, hc, home⟩ := (d.isHome_iff _).1 home
        rw [hc, chanOf_chanByte] at h
        split at h
        next matched =>
          obtain ⟨holds, rfl⟩ := onlyIf_eq_some.1 h
          exact ⟨hc, home, emission, .inl ⟨(byte_toNat_eq (by decide)).1 matched, (d.holds_chanByte _ _).1 holds,
            rfl⟩⟩
        next any =>
          obtain rfl := Option.some.inj h
          exact ⟨hc, home, emission, .inr ⟨(byte_toNat_eq (by decide)).1 any, rfl⟩⟩
        next => cases h
      next => cases h
  · obtain ⟨c, value, x⟩ := e
    rintro ⟨hc, home, emission, ⟨matched, holds, rfl⟩ | ⟨any, rfl⟩⟩ <;> rw [emission] <;> dsimp only <;>
      rw [hc, d.record_chanByte, if_pos home, chanOf_chanByte]
    · rw [matched]
      exact onlyIf_eq_some.2 ⟨(d.holds_chanByte _ _).2 holds, rfl⟩
    · rw [any]
      rfl

/-! ### Bindings -/

theorem parseSource_eq_some_iff (kind n : Byte) (code : CodeValue) (s : Source) :
    parseSource d kind n code = some s ↔
      (kind = 1 ∧ n.toNat < 48 ∧ s = .key (keyOf n)) ∨ (kind = 2 ∧ n.toNat < d.sets ∧ s = .ir (setOf n) code) := by
  unfold parseSource
  constructor
  · intro h
    split at h
    next key =>
      obtain ⟨small, rfl⟩ := onlyIf_eq_some.1 h
      exact .inl ⟨(byte_toNat_eq (by decide)).1 key, of_decide_eq_true small, rfl⟩
    next ir =>
      obtain ⟨set, rfl⟩ := onlyIf_eq_some.1 h
      exact .inr ⟨(byte_toNat_eq (by decide)).1 ir, of_decide_eq_true set, rfl⟩
    next => cases h
  · rintro (⟨rfl, small, rfl⟩ | ⟨rfl, set, rfl⟩)
    · exact onlyIf_eq_some.2 ⟨decide_eq_true small, rfl⟩
    · exact onlyIf_eq_some.2 ⟨decide_eq_true set, rfl⟩

theorem parseCondition_eq_some_iff (flag c v : Byte) (x : Option (Chan × Byte)) :
    parseCondition d flag c v = some x ↔
      (flag = 0 ∧ x = none) ∨ ∃ ch : Chan, flag = 1 ∧ c = chanByte ch ∧ d.Holds ch v ∧ x = some (ch, v) := by
  unfold parseCondition
  constructor
  · intro h
    split at h
    next always => exact .inl ⟨(byte_toNat_eq (by decide)).1 always, (Option.some.inj h).symm⟩
    next asked =>
      obtain ⟨declared, rfl⟩ := onlyIf_eq_some.1 h
      obtain ⟨ch, rfl, holds⟩ := (d.holds_iff _ _).1 declared
      exact .inr ⟨ch, (byte_toNat_eq (by decide)).1 asked, rfl, holds, by rw [chanOf_chanByte]⟩
    next => cases h
  · rintro (⟨rfl, rfl⟩ | ⟨ch, rfl, rfl, holds, rfl⟩)
    · rfl
    · exact onlyIf_eq_some.2 ⟨(d.holds_chanByte _ _).2 holds, by rw [chanOf_chanByte]⟩

theorem channelAct_eq_some_iff {α : Type} (f : Chan → Op → Byte → α) (c o x : Byte) (a : α) :
    (parseChannelAct d c o x).map (fun y => f y.1 y.2.1 y.2.2) = some a ↔
      ∃ ch op, d.Acts c o x ch op ∧ a = f ch op x := by
  rw [Option.map_eq_some_iff]
  constructor
  · rintro ⟨⟨ch, op, x'⟩, h, rfl⟩
    obtain ⟨acts, rfl⟩ := (parseChannelAct_eq_some_iff d c o x _).1 h
    exact ⟨ch, op, acts, rfl⟩
  · rintro ⟨ch, op, acts, rfl⟩
    exact ⟨(ch, op, x), (parseChannelAct_eq_some_iff d c o x _).2 ⟨acts, rfl⟩, rfl⟩

theorem emission_eq_some_iff {α : Type} (f : Emission → α) (set : Byte) (code : CodeValue) (repeats : Byte) (a : α) :
    (parseEmission d set code repeats).map f = some a ↔ ∃ e, d.Emits set code repeats e ∧ a = f e := by
  simp only [Option.map_eq_some_iff, parseEmission_eq_some_iff, eq_comm (b := a)]

theorem parseAction_eq_some_iff (l : List Byte) (a : Action) :
    parseAction d l = some a ↔
      (∃ c op, byteAt l 10 = 1 ∧ d.Acts (byteAt l 11) (byteAt l 12) (byteAt l 13) c op
          ∧ a = .channel c op (byteAt l 13))
        ∨ (byteAt l 10 = 2 ∧ (byteAt l 11).toNat < d.macros ∧ a = .start (macroOf (byteAt l 11)))
        ∨ (byteAt l 10 = 3 ∧ (byteAt l 11).toNat < d.macros ∧ a = .stop (macroOf (byteAt l 11)))
        ∨ ∃ e, byteAt l 10 = 4 ∧ d.Emits (byteAt l 11) (longAt l 14) (byteAt l 18) e ∧ a = .emit e := by
  unfold parseAction
  dsimp only
  constructor
  · intro h
    split at h
    next kind =>
      obtain ⟨c, op, acts, rfl⟩ := (channelAct_eq_some_iff d Action.channel _ _ _ _).1 h
      exact .inl ⟨c, op, (byte_toNat_eq (by decide)).1 kind, acts, rfl⟩
    next kind =>
      obtain ⟨declared, rfl⟩ := onlyIf_eq_some.1 h
      exact .inr (.inl ⟨(byte_toNat_eq (by decide)).1 kind, of_decide_eq_true declared, rfl⟩)
    next kind =>
      obtain ⟨declared, rfl⟩ := onlyIf_eq_some.1 h
      exact .inr (.inr (.inl ⟨(byte_toNat_eq (by decide)).1 kind, of_decide_eq_true declared, rfl⟩))
    next kind =>
      obtain ⟨e, emits, rfl⟩ := (emission_eq_some_iff d Action.emit _ _ _ _).1 h
      exact .inr (.inr (.inr ⟨e, (byte_toNat_eq (by decide)).1 kind, emits, rfl⟩))
    next => cases h
  · rintro (⟨c, op, kind, acts, rfl⟩ | ⟨kind, declared, rfl⟩ | ⟨kind, declared, rfl⟩ | ⟨e, kind, emits, rfl⟩) <;>
      rw [kind]
    · exact (channelAct_eq_some_iff d Action.channel _ _ _ _).2 ⟨c, op, acts, rfl⟩
    · exact onlyIf_eq_some.2 ⟨decide_eq_true declared, rfl⟩
    · exact onlyIf_eq_some.2 ⟨decide_eq_true declared, rfl⟩
    · exact (emission_eq_some_iff d Action.emit _ _ _ _).2 ⟨e, emits, rfl⟩

theorem parseBinding_eq_some_iff (l : List Byte) (b : Binding) :
    parseBinding d l = some b ↔
      parseSource d (byteAt l 0) (byteAt l 1) (longAt l 2) = some b.source
        ∧ Trigger.ofCode (byteAt l 6) = some b.trigger
        ∧ parseCondition d (byteAt l 7) (byteAt l 8) (byteAt l 9) = some b.condition
        ∧ parseAction d l = some b.action := by
  unfold parseBinding
  obtain ⟨source, trigger, condition, action⟩ := b
  split
  next h1 h2 h3 h4 => simp [h1, h2, h3, h4]
  next none =>
    refine ⟨(nomatch ·), ?_⟩
    rintro ⟨h1, h2, h3, h4⟩
    exact (none _ _ _ _ h1 h2 h3 h4).elim

/-! ### Macros -/

theorem parseStep_eq_some_iff (k : Nat) (l : List Byte) (x : Step) :
    parseStep d k l = some x ↔
      (∃ c op, byteAt l 0 = 1 ∧ d.Acts (byteAt l 1) (byteAt l 2) (byteAt l 3) c op
          ∧ x = .channel c op (byteAt l 3))
        ∨ (byteAt l 0 = 2 ∧ 10 ≤ (wordAt l 1).toNat ∧ (wordAt l 1).toNat ≤ 10000
          ∧ x = .wait (wordAt l 1).toNat)
        ∨ (byteAt l 0 = 3 ∧ byteAt l 1 = 0 ∧ x = .confirm false)
        ∨ (byteAt l 0 = 3 ∧ byteAt l 1 = 1 ∧ x = .confirm true)
        ∨ (∃ e, byteAt l 0 = 4 ∧ d.Emits (byteAt l 1) (longAt l 4) (byteAt l 2) e ∧ x = .emit e)
        ∨ (byteAt l 0 = 5 ∧ (byteAt l 1).toNat < d.macros ∧ (byteAt l 1).toNat ≠ k
          ∧ x = .call (macroOf (byteAt l 1))) := by
  unfold parseStep
  dsimp only
  constructor
  · intro h
    split at h
    next kind =>
      obtain ⟨c, op, acts, rfl⟩ := (channelAct_eq_some_iff d Step.channel _ _ _ _).1 h
      exact .inl ⟨c, op, (byte_toNat_eq (by decide)).1 kind, acts, rfl⟩
    next kind =>
      obtain ⟨range, rfl⟩ := onlyIf_eq_some.1 h
      rw [within_iff] at range
      exact .inr (.inl ⟨(byte_toNat_eq (by decide)).1 kind, range.1, range.2, rfl⟩)
    next kind =>
      split at h
      next go =>
        exact .inr (.inr (.inl ⟨(byte_toNat_eq (by decide)).1 kind, (byte_toNat_eq (by decide)).1 go,
          (Option.some.inj h).symm⟩))
      next stop =>
        exact .inr (.inr (.inr (.inl ⟨(byte_toNat_eq (by decide)).1 kind, (byte_toNat_eq (by decide)).1 stop,
          (Option.some.inj h).symm⟩)))
      next => cases h
    next kind =>
      obtain ⟨e, emits, rfl⟩ := (emission_eq_some_iff d Step.emit _ _ _ _).1 h
      exact .inr (.inr (.inr (.inr (.inl ⟨e, (byte_toNat_eq (by decide)).1 kind, emits, rfl⟩))))
    next kind =>
      obtain ⟨declared, rfl⟩ := onlyIf_eq_some.1 h
      simp only [Declared.hasMacro, Bool.and_eq_true, decide_eq_true_eq, bne_iff_ne] at declared
      exact .inr (.inr (.inr (.inr (.inr ⟨(byte_toNat_eq (by decide)).1 kind, declared.1, declared.2, rfl⟩))))
    next => cases h
  · rintro (⟨c, op, kind, acts, rfl⟩ | ⟨kind, low, high, rfl⟩ | ⟨kind, go, rfl⟩ | ⟨kind, stop, rfl⟩
      | ⟨e, kind, emits, rfl⟩ | ⟨kind, declared, other, rfl⟩) <;> rw [kind]
    · exact (channelAct_eq_some_iff d Step.channel _ _ _ _).2 ⟨c, op, acts, rfl⟩
    · exact onlyIf_eq_some.2 ⟨(within_iff _ _ _).2 ⟨low, high⟩, rfl⟩
    · rw [go]
      rfl
    · rw [stop]
      rfl
    · exact (emission_eq_some_iff d Step.emit _ _ _ _).2 ⟨e, emits, rfl⟩
    · refine onlyIf_eq_some.2 ⟨?_, rfl⟩
      simp only [Declared.hasMacro, Bool.and_eq_true, decide_eq_true_eq, bne_iff_ne]
      exact ⟨declared, other⟩

end

end Sys2Proof.Machine
end

section
/-! PROOFS. The Macro section (R180): the step counts, and the steps of each Macro at their place. -/

namespace Sys2Proof.Machine

/-- The first elements of a list, each parsed. -/
theorem allSome_take_eq_some_iff {α β : Type} {parse : α → Option β} {l : List α} {m : List β} {n : Nat}
    (h : n ≤ l.length) :
    allSome ((l.take n).map parse) = some m ↔
      m.length = n ∧ ∀ (j : Nat) (x : β), m[j]? = some x → l[j]?.bind parse = some x := by
  rw [allSome_eq_some_iff]
  constructor
  · intro e
    have length : m.length = n := by
      have := congrArg List.length e
      rw [List.length_map, List.length_map, List.length_take_of_le h] at this
      exact this.symm
    refine ⟨length, fun j x hx => ?_⟩
    have inside : j < n := length ▸ (List.getElem?_eq_some_iff.1 hx).1
    have at_j := congrArg (fun q : List (Option β) => q[j]?) e
    simp only [List.getElem?_map, List.getElem?_take_of_lt inside, hx] at at_j
    obtain ⟨a, ha, hp⟩ := Option.map_eq_some_iff.1 at_j
    rw [ha, Option.bind_some, hp]
  · rintro ⟨rfl, parsed⟩
    refine List.ext_getElem? fun j => ?_
    rcases Nat.lt_or_ge j m.length with hj | hj
    · have at_j := parsed j _ (List.getElem?_eq_getElem hj)
      obtain ⟨a, ha, hp⟩ := Option.bind_eq_some_iff.1 at_j
      rw [List.getElem?_map, List.getElem?_take_of_lt hj, ha, List.getElem?_map, List.getElem?_eq_getElem hj,
        Option.map_some, hp, Option.map_some]
    · rw [List.getElem?_eq_none (by simp [hj]), List.getElem?_eq_none (by simpa using hj)]

/-- The steps before a Macro. -/
def stepsBefore (macros : List (List Step)) (k : Nat) : Nat := ((macros.take k).map List.length).sum

/-- The steps of macros k, k + 1, … follow one another. -/
theorem parseMacros_eq_some_iff (d : Declared) (k : Nat) (ns : List Nat) (steps : List (List Byte))
    (macros : List (List Step)) (h : ns.sum ≤ steps.length) :
    parseMacros d k ns steps = some macros ↔
      macros.map List.length = ns
        ∧ ∀ i ss j x, macros[i]? = some ss → ss[j]? = some x →
            steps[stepsBefore macros i + j]?.bind (parseStep d (k + i)) = some x := by
  induction ns generalizing k steps macros with
  | nil => cases macros <;> simp [parseMacros]
  | cons n ns ih =>
    rw [List.sum_cons] at h
    have cons_iff : parseMacros d k (n :: ns) steps = some macros ↔
        ∃ m ms, macros = m :: ms ∧ allSome ((steps.take n).map (parseStep d k)) = some m
          ∧ parseMacros d (k + 1) ns (steps.drop n) = some ms := by
      rw [parseMacros]
      split
      next m ms hm hms =>
        rw [hm, hms]
        simp [eq_comm]
      next none =>
        refine ⟨(nomatch ·), ?_⟩
        rintro ⟨m, ms, -, hm, hms⟩
        exact (none m ms hm hms).elim
    rw [cons_iff]
    cases macros with
    | nil => simp
    | cons m ms =>
      have first := allSome_take_eq_some_iff (parse := parseStep d k) (l := steps) (m := m) (n := n) (by omega)
      have others := ih (k + 1) (steps.drop n) ms (by rw [List.length_drop]; omega)
      simp only [List.cons.injEq, List.map_cons]
      constructor
      · rintro ⟨m', ms', ⟨rfl, rfl⟩, hm, hms⟩
        obtain ⟨length, parsed⟩ := first.1 hm
        obtain ⟨lengths, parseds⟩ := others.1 hms
        refine ⟨⟨length, lengths⟩, fun i ss j x hss hx => ?_⟩
        cases i with
        | zero =>
          obtain rfl := Option.some.inj hss
          simpa [stepsBefore] using parsed j x hx
        | succ i =>
          have := parseds i ss j x hss hx
          rw [List.getElem?_drop] at this
          rw [stepsBefore, List.take_succ_cons, List.map_cons, List.sum_cons, length, Nat.add_assoc,
            ← Nat.add_assoc k, Nat.add_right_comm k]
          exact this
      · rintro ⟨⟨length, lengths⟩, parsed⟩
        refine ⟨m, ms, ⟨rfl, rfl⟩, first.2 ⟨length, fun j x hx => ?_⟩, others.2 ⟨lengths, fun i ss j x hss hx => ?_⟩⟩
        · simpa [stepsBefore] using parsed 0 m j x rfl hx
        · have := parsed (i + 1) ss j x hss hx
          rw [stepsBefore, List.take_succ_cons, List.map_cons, List.sum_cons, length, Nat.add_assoc,
            ← Nat.add_assoc k, Nat.add_right_comm k] at this
          rw [List.getElem?_drop]
          exact this

/-- A step of a Macro stands before the end of all the steps. -/
theorem stepsBefore_add_lt {macros : List (List Step)} {k j : Nat} {ss : List Step} {x : Step}
    (hss : macros[k]? = some ss) (hx : ss[j]? = some x) :
    stepsBefore macros k + j < (macros.map List.length).sum := by
  obtain ⟨hk, rfl⟩ := List.getElem?_eq_some_iff.1 hss
  have inside := (List.getElem?_eq_some_iff.1 hx).1
  have split : (macros.map List.length).sum =
      stepsBefore macros k + (macros[k].length + ((macros.drop (k + 1)).map List.length).sum) := by
    conv_lhs => rw [← List.take_append_drop k macros, List.drop_eq_getElem_cons hk]
    rw [List.map_append, List.sum_append, List.map_cons, List.sum_cons]
    rfl
  omega

/-- The step counts of a section are the lengths of its macros. -/
theorem macroLengths_iff {m : Nat} {b : Byte} {rest : List Byte} (h : m ≤ rest.length)
    (macros : List (List Step)) :
    macros.map List.length = (rest.take m).map BitVec.toNat ↔
      macros.length = m
        ∧ ∀ k steps, macros[k]? = some steps → (byteAt (b :: rest) (1 + k)).toNat = steps.length := by
  have count (k : Nat) (hk : k < m) : ((rest.take m).map BitVec.toNat)[k]? =
      some (byteAt (b :: rest) (1 + k)).toNat := by
    have inside : k < rest.length := Nat.lt_of_lt_of_le hk h
    rw [List.getElem?_map, List.getElem?_take_of_lt hk, List.getElem?_eq_getElem inside, byteAt, Nat.add_comm 1 k,
      List.getD_cons_succ, List.getD_eq_getElem _ _ inside]
    rfl
  constructor
  · intro e
    have length : macros.length = m := by
      have := congrArg List.length e
      rwa [List.length_map, List.length_map, List.length_take_of_le h] at this
    refine ⟨length, fun k steps hk => ?_⟩
    have inside : k < m := length ▸ (List.getElem?_eq_some_iff.1 hk).1
    have at_k := congrArg (fun q : List Nat => q[k]?) e
    simp only [count k inside, List.getElem?_map, hk] at at_k
    exact (Option.some.inj at_k).symm
  · rintro ⟨rfl, counts⟩
    refine List.ext_getElem? fun k => ?_
    rcases Nat.lt_or_ge k macros.length with hk | hk
    · have at_k := List.getElem?_eq_getElem hk
      rw [count k hk, List.getElem?_map, at_k, counts k _ at_k]
      rfl
    · rw [List.getElem?_eq_none (by simpa using hk), List.getElem?_eq_none (by simp [hk])]

/-- A piece of eight bytes behind the step counts. -/
theorem getElem?_steps {m n i : Nat} {b : Byte} {rest : List Byte} (h : (b :: rest).length = 1 + m + 8 * n)
    (hi : i < n) :
    (pieces 8 (rest.drop m))[i]? = some (((b :: rest).drop (1 + m + 8 * i)).take 8) := by
  have length : (rest.drop m).length = 8 * n := by
    rw [List.length_cons] at h
    rw [List.length_drop]
    omega
  rw [pieces_of_length (by decide) length, getElem?_chunks _ hi, List.drop_drop, Nat.add_assoc 1, Nat.add_comm 1,
    List.drop_succ_cons]

theorem parseMacroSection_eq_some_iff (d : Declared) (l : List Byte) (macros : List (List Step)) :
    parseMacroSection d l = some macros ↔
      (l = [] ∧ macros = [])
        ∨ (l ≠ [] ∧ (byteAt l 0).toNat ≤ 16 ∧ macros.length = (byteAt l 0).toNat
          ∧ (∀ k steps, macros[k]? = some steps →
              (byteAt l (1 + k)).toNat = steps.length ∧ 1 ≤ steps.length ∧ steps.length ≤ 16)
          ∧ (macros.map List.length).sum ≤ 128
          ∧ l.length = 1 + (byteAt l 0).toNat + 8 * (macros.map List.length).sum
          ∧ ∀ k steps j x, macros[k]? = some steps → steps[j]? = some x →
              parseStep d k ((l.drop (1 + (byteAt l 0).toNat + 8 * (stepsBefore macros k + j))).take 8) = some x) := by
  cases l with
  | nil => simp [parseMacroSection, eq_comm]
  | cons b rest =>
    have m : byteAt (b :: rest) 0 = b := rfl
    have whole {n : Nat} (h : (b :: rest).length = 1 + b.toNat + 8 * n) : b.toNat ≤ rest.length := by
      rw [List.length_cons] at h
      omega
    have steps_length {n : Nat} (h : (b :: rest).length = 1 + b.toNat + 8 * n) :
        n ≤ (pieces 8 (rest.drop b.toNat)).length := by
      rw [List.length_cons] at h
      rw [pieces_of_length (k := n) (by decide) (by rw [List.length_drop]; omega), length_chunks]
    rw [m]
    simp only [parseMacroSection, List.cons_ne_nil, false_and, false_or, ne_eq, not_false_eq_true, true_and]
    constructor
    · intro h
      split at h
      next cond =>
        obtain ⟨few, -, sizes, total, length⟩ := cond
        obtain ⟨lengths, parsed⟩ := (parseMacros_eq_some_iff d 0 _ _ macros (steps_length length)).1 h
        obtain ⟨count, counts⟩ := (macroLengths_iff (b := b) (whole length) macros).1 lengths
        rw [← lengths] at total length
        refine ⟨few, count, fun k steps hk => ⟨counts k steps hk, ?_⟩, total, length, fun k steps j x hk hx => ?_⟩
        · rw [← lengths, List.all_eq_true] at sizes
          exact (within_iff _ _ _).1 (sizes _ (List.mem_map_of_mem (List.mem_of_getElem? hk)))
        · have := parsed k steps j x hk hx
          rwa [getElem?_steps length (stepsBefore_add_lt hk hx), Option.bind_some, Nat.zero_add] at this
      next => cases h
    · rintro ⟨few, count, counts, total, length, parsed⟩
      have lengths := (macroLengths_iff (b := b) (whole length) macros).2
        ⟨count, fun k steps hk => (counts k steps hk).1⟩
      rw [← lengths, if_pos]
      · refine (parseMacros_eq_some_iff d 0 _ _ macros (steps_length length)).2 ⟨rfl, fun k steps j x hk hx => ?_⟩
        rw [getElem?_steps length (stepsBefore_add_lt hk hx), Option.bind_some, Nat.zero_add]
        exact parsed k steps j x hk hx
      · refine ⟨few, by rw [List.length_map, count], List.all_eq_true.2 fun n hn => ?_, total, length⟩
        obtain ⟨steps, hs, rfl⟩ := List.mem_map.1 hn
        obtain ⟨k, hk⟩ := List.getElem?_of_mem hs
        exact (within_iff _ _ _).2 (counts k steps hk).2

/-- Settles O10: each parser, one after another. -/
theorem imageSectionsAreJudged : Obligations.ImageSectionsAreJudged := by
  refine ⟨fun _ _ _ _ _ _ => parseSection_eq_some_iff, parseSettings_eq_some_iff, parseChannels_eq_some_iff,
    parseChannel_eq_some_iff, fun l cs => ?_, parseCodeSet_eq_some_iff, ?_⟩
  · rw [parseCodeSets_eq_some_iff, leadersApart_iff]
  · intro d holds acts emits
    refine ⟨parseOutput_eq_some_iff d, parseIndicator_eq_some_iff d, parseEmit_eq_some_iff d, fun l b => ?_,
      parseStep_eq_some_iff d, parseMacroSection_eq_some_iff d⟩
    rw [parseBinding_eq_some_iff, parseSource_eq_some_iff, Trigger.ofCode_eq_some, parseCondition_eq_some_iff,
      parseAction_eq_some_iff]
    rfl

end Sys2Proof.Machine
end

section
/-! PROOFS. Entry into JOINING (R106, R108): lists cut into pieces, offers to a queue with room, and an attempt
that begins at once. -/

namespace Sys2Proof.Machine

/-! ### Lists in pieces -/

theorem flatten_chunks {α : Type} {n k : Nat} {l : List α} (h : l.length ≤ n * k) : (chunks n k l).flatten = l := by
  induction k generalizing l with
  | zero =>
    obtain rfl := List.eq_nil_of_length_eq_zero (Nat.le_zero.1 h)
    rfl
  | succ k ih =>
    rw [chunks, List.flatten_cons, ih (by rw [List.length_drop, Nat.mul_succ] at *; omega), List.take_append_drop]

theorem flatten_pieces {α : Type} {n : Nat} (hn : 0 < n) (l : List α) : (pieces n l).flatten = l := by
  refine flatten_chunks ?_
  have := Nat.div_add_mod (l.length + n - 1) n
  have := Nat.mod_lt (l.length + n - 1) hn
  omega

@[simp] theorem length_pieces {α : Type} (n : Nat) (l : List α) :
    (pieces n l).length = (l.length + n - 1) / n :=
  length_chunks _ _ _

theorem length_of_mem_pieces {α : Type} {n : Nat} {l p : List α} (h : p ∈ pieces n l) : p.length ≤ n := by
  obtain ⟨i, hi⟩ := List.getElem?_of_mem h
  have inside := (List.getElem?_eq_some_iff.1 hi).1
  rw [pieces, getElem?_chunks _ (by simpa [pieces] using inside)] at hi
  obtain rfl := Option.some.inj hi
  exact List.length_take_le _ _

/-- All pieces but the last are whole. -/
theorem length_of_mem_dropLast_pieces {α : Type} {n : Nat} (hn : 0 < n) {l p : List α}
    (h : p ∈ (pieces n l).dropLast) : p.length = n := by
  obtain ⟨i, hi⟩ := List.getElem?_of_mem h
  have inside := (List.getElem?_eq_some_iff.1 hi).1
  rw [List.length_dropLast, length_pieces] at inside
  rw [List.getElem?_dropLast, length_pieces, if_pos inside, pieces, getElem?_chunks _ (by omega)] at hi
  obtain rfl := Option.some.inj hi
  have whole : n * (i + 1) < l.length := by
    have := Nat.div_mul_le_self (l.length + n - 1) n
    have : (i + 2) * n ≤ (l.length + n - 1) / n * n := Nat.mul_le_mul_right n (by omega)
    have : (i + 2) * n = n * (i + 1) + n := by ring
    omega
  rw [Nat.mul_succ] at whole
  rw [List.length_take, List.length_drop]
  omega

/-! ### The RECALL entries (R108) -/

theorem recallLists_of_nil : recallLists [] = [[]] := rfl

theorem recallLists_of_ne {homes : List Chan} (h : homes ≠ []) : recallLists homes = pieces 14 homes :=
  if_neg (by simpa using h)

theorem recallLists_flatten (homes : List Chan) : (recallLists homes).flatten = homes := by
  by_cases h : homes = []
  · rw [h]
    rfl
  · rw [recallLists_of_ne h, flatten_pieces (by decide)]

theorem recallLists_length (homes : List Chan) :
    (recallLists homes).length = max 1 ((homes.length + 13) / 14) := by
  by_cases h : homes = []
  · rw [h]
    rfl
  · have := List.length_pos_iff.2 h
    rw [recallLists_of_ne h, length_pieces]
    omega

theorem length_of_mem_recallLists {homes l : List Chan} (h : l ∈ recallLists homes) : l.length ≤ 14 := by
  by_cases hne : homes = []
  · rw [hne, recallLists_of_nil, List.mem_singleton] at h
    rw [h]
    decide
  · rw [recallLists_of_ne hne] at h
    exact length_of_mem_pieces h

theorem length_of_mem_dropLast_recallLists {homes l : List Chan} (h : l ∈ (recallLists homes).dropLast) :
    l.length = 14 := by
  by_cases hne : homes = []
  · rw [hne] at h
    cases h
  · rw [recallLists_of_ne hne] at h
    exact length_of_mem_dropLast_pieces (by decide) h

/-! ### Offers to a queue with room (R22) -/

/-- Kinds that are neither merged into an entry nor held at most once: all but ANNOUNCE and CHANGE. -/
def Content.isPlain : Content → Bool
  | .announce => false
  | .change _ _ => false
  | _ => true

theorem TxQueue.take_of_plain {c : Content} (plain : c.isPlain = true) (q : TxQueue) (dest : Addr) :
    q.take c dest = q.placeNew c dest := by
  cases c with
  | announce => cases plain
  | change => cases plain
  | _ => rfl

theorem TxQueue.placeNew_of_room {q : TxQueue} (room : q.entries.length < 12) (c : Content) (dest : Addr) :
    q.placeNew c dest = (.admitted, q.join (Entry.new c dest)) :=
  if_pos room

theorem TxQueue.offer_of_room {q : TxQueue} {st : StationState} {c : Content} (plain : c.isPlain = true)
    (sent : mayBeSent st c = true) (room : q.entries.length < 12) (dest : Addr) :
    q.offer st c dest = (.admitted, q.join (Entry.new c dest)) := by
  rw [TxQueue.offer, if_pos sent, TxQueue.take_of_plain plain, TxQueue.placeNew_of_room room]

/-- Offers in turn to a queue with room for all of them, where no attempt may begin. -/
theorem State.offerAll_of_room {s : State} {cs : List Content} (busy : s.mayBegin = false)
    (plain : ∀ c ∈ cs, c.isPlain = true) (sent : ∀ c ∈ cs, mayBeSent s.start.state c = true)
    (room : s.queue.entries.length + cs.length ≤ 12) (dest : Addr) :
    s.offerAll dest cs =
      { s with
        queue := { s.queue with entries := s.queue.entries ++ cs.map fun c => Entry.new c dest } } := by
  induction cs generalizing s with
  | nil =>
    rw [List.map_nil, List.append_nil]
    rfl
  | cons c cs ih =>
    rw [List.length_cons] at room
    obtain ⟨plain_c, plain⟩ := List.forall_mem_cons.1 plain
    obtain ⟨sent_c, sent⟩ := List.forall_mem_cons.1 sent
    have first : (s.offer c dest).2 = { s with queue := s.queue.join (Entry.new c dest) } := by
      rw [State.offer_of_not c dest busy, TxQueue.offer_of_room plain_c sent_c (by omega)]
    have others := ih (s := { s with queue := s.queue.join (Entry.new c dest) }) busy plain sent (by
      show (s.queue.entries ++ [_]).length + _ ≤ 12
      rw [List.length_append, List.length_singleton]
      omega)
    rw [State.offerAll, List.foldl_cons, first]
    refine others.trans ?_
    rw [TxQueue.join, List.append_assoc]
    rfl

/-! ### An attempt that begins (R9) -/

theorem Frame.bits_head (f : Frame) : f.bits.getD 0 true = f.cls.getMsbD 0 := rfl

/-- The first edge of an attempt is held for its first class bit (R1). -/
theorem Attempt.wireAt_start (a : Attempt) (w : Wire) :
    a.wireAt w a.start = w.pull a.start (lowTime (a.frame.bits.getD 0 true)) := by
  have bit : a.bitAt a.start = 0 := by simp [Attempt.bitAt]
  have edge : a.edge 0 = a.start := by simp [Attempt.edge]
  rw [Attempt.wireAt, bit, edge]
  rfl

/-- The entry goes on the line with its frame, and the first edge is driven (R9, R29). -/
theorem State.beginWith_eq (s : State) (i : Nat) (e : Entry) :
    s.beginWith i e =
      { s with
        queue :=
          { s.queue with
            entries :=
              modifyAt (fun e => { e with onLine := true, carried := s.carriedBy e.content }) i s.queue.entries }
        line :=
          { s.line with
            condition := .busy, activity := .arbitrating
            attempt := some { start := s.now, frame := s.frameFor e }
            wire := s.line.wire.pull s.now (lowTime ((s.frameFor e).bits.getD 0 true)) } } := by
  exact congrArg
    (fun w => ({ s with
      queue :=
        { s.queue with
          entries :=
            modifyAt (fun e => { e with onLine := true, carried := s.carriedBy e.content }) i s.queue.entries }
      line :=
        { s.line with
          condition := .busy, activity := .arbitrating
          attempt := some { start := s.now, frame := s.frameFor e }, wire := w } } : State))
    (Attempt.wireAt_start { start := s.now, frame := s.frameFor e } s.line.wire)

/-- The only entry of a queue, new and allowed to be sent, goes on an IDLE line at once. -/
theorem State.beginAt_of_single {s : State} {c : Content} {dest : Addr}
    (alone : s.queue.entries = [Entry.new c dest]) (sent : mayBeSent s.start.state c = true)
    (idle : s.mayBegin = true) : s.beginAt 0 = s.beginWith 0 (Entry.new c dest) := by
  have eligible : (Entry.new c dest).eligible s.start.state = true := sent
  have chosen : s.chosen = some (0, Entry.new c dest) := by
    rw [State.chosen, alone, bestEligible, bestEligible]
    exact if_pos eligible
  rw [State.beginAt, chosen]
  exact if_pos ⟨idle, rfl⟩

/-- The only entry of the queue, new, goes on the line. -/
def State.beginsAlone (s : State) (c : Content) (dest : Addr) : State :=
  ({ s with queue := { s.queue with entries := [Entry.new c dest] } } : State).beginWith 0 (Entry.new c dest)

/-- A plain offer to an empty queue where an attempt may begin is on the line at once (R9, R22). -/
theorem State.offer_of_empty {s : State} {c : Content} (empty : s.queue.entries = []) (plain : c.isPlain = true)
    (sent : mayBeSent s.start.state c = true) (idle : s.mayBegin = true) (dest : Addr) :
    s.offer c dest = (.admitted, s.beginsAlone c dest) := by
  have joined : s.queue.join (Entry.new c dest) = { s.queue with entries := [Entry.new c dest] } := by
    rw [TxQueue.join, empty, List.nil_append]
  have offered : s.queue.offer s.start.state c dest =
      (.admitted, { s.queue with entries := [Entry.new c dest] }) := by
    rw [TxQueue.offer_of_room plain sent (by rw [empty]; decide), joined]
  rw [State.offer, offered]
  exact congrArg (Prod.mk _) (State.beginAt_of_single rfl sent idle)

/-- Offers in turn to an empty queue on an IDLE line: the first is on the line before the others come. -/
theorem State.offerAll_of_empty {s : State} {c : Content} {cs : List Content} (empty : s.queue.entries = [])
    (plain : ∀ d ∈ c :: cs, d.isPlain = true) (sent : ∀ d ∈ c :: cs, mayBeSent s.start.state d = true)
    (idle : s.mayBegin = true) (room : cs.length + 1 ≤ 12) (dest : Addr) :
    s.offerAll dest (c :: cs) =
      { s.beginsAlone c dest with
        queue :=
          { (s.beginsAlone c dest).queue with
            entries := (s.beginsAlone c dest).queue.entries ++ cs.map fun c => Entry.new c dest } } := by
  obtain ⟨plain_c, plain⟩ := List.forall_mem_cons.1 plain
  obtain ⟨sent_c, sent⟩ := List.forall_mem_cons.1 sent
  rw [State.offerAll, List.foldl_cons, State.offer_of_empty empty plain_c sent_c idle]
  refine State.offerAll_of_room (s := s.beginsAlone c dest) (State.mayBegin_of_ne_idle ?_) plain sent ?_ dest
  · simp [State.beginsAlone, State.beginWith]
  · show 1 + cs.length ≤ 12
    omega

theorem State.mayBegin_iff (s : State) :
    s.mayBegin = true ↔
      s.line.condition = .idle ∧ s.line.activity = .waiting ∧ s.service.restart = .clear := by
  simp only [State.mayBegin, Bool.and_eq_true, beq_iff_eq, and_assoc]

/-! ### The listen window expires -/

theorem State.listenExpiry_of_due {s : State} {t : Time} (listening : s.start.state = .listening)
    (window : s.start.listenAt = some t) (due : t ≤ s.now) : s.listenExpiry = s.enterJoining := by
  refine if_pos ⟨listening, ?_⟩
  rw [window]
  exact decide_eq_true due

/-- The state in which the RECALL entries are offered (R108). -/
def State.opensCollection (s : State) (n : Nat) : State :=
  { s with
    start :=
      { s.start with
        state := .joining, listenAt := none, recallsOut := n
        collection := some { latest := 0, triples := [] } } }

theorem State.enterJoining_eq (s : State) :
    s.enterJoining =
      (s.opensCollection (recallLists s.homeChans).length).offerAll 0
        ((recallLists s.homeChans).map Content.recall) :=
  rfl

/-- At most 64 HOME channels give at most 5 RECALL entries. -/
theorem recallLists_homeChans_length (s : State) : (recallLists s.homeChans).length ≤ 5 := by
  have homes : s.homeChans.length ≤ 64 := by
    have := List.length_filter_le (fun c => (s.chan c).isHome) (List.finRange 64)
    rwa [List.length_finRange] at this
  rw [recallLists_length]
  omega

theorem recalls_plain (ls : List (List Chan)) : ∀ c ∈ ls.map Content.recall, c.isPlain = true := by
  intro c hc
  obtain ⟨l, -, rfl⟩ := List.mem_map.1 hc
  rfl

theorem recalls_sent (ls : List (List Chan)) : ∀ c ∈ ls.map Content.recall, mayBeSent .joining c = true := by
  intro c hc
  obtain ⟨l, -, rfl⟩ := List.mem_map.1 hc
  rfl

theorem State.frameFor_recall_cls (s : State) (l : List Chan) :
    (s.frameFor (Entry.new (.recall l) 0)).cls = 2 :=
  rfl

/-- Settles O11: the queue has room for every RECALL entry, and on an IDLE line the first is on the line
before the others are offered. -/
theorem listenWindowEnds : Obligations.ListenWindowEnds := by
  refine ⟨?_, fun homes => ⟨recallLists_flatten homes, recallLists_length homes,
    fun _ => length_of_mem_recallLists, fun _ => length_of_mem_dropLast_recallLists⟩⟩
  intro s dt t0 first rest awake listening window due empty free lists joining
  have few : (first :: rest).length ≤ 5 := lists ▸ recallLists_homeChans_length s
  have line : (s.advance dt).line = s.line := State.advance_line_of_no_attempt dt free
  have queue : s.queue = TxQueue.reset := congrArg₂ TxQueue.mk empty awake.2.1
  have entered : State.listenExpiry (s.advance dt) =
      ((s.advance dt).opensCollection (rest.length + 1)).offerAll 0 ((first :: rest).map Content.recall) := by
    rw [State.listenExpiry_of_due (s := s.advance dt) listening window due, State.enterJoining_eq,
      show recallLists (s.advance dt).homeChans = first :: rest from lists]
    rfl
  refine ⟨fun busy => event_eq awake (effect := State.listenExpiry) ?_ rfl, fun idle waiting clear =>
    event_eq awake (effect := State.listenExpiry) ?_ rfl⟩
  · have behind : (s.advance dt).mayBegin = false := State.mayBegin_of_ne_idle (by rwa [line])
    have room : s.queue.entries.length + ((first :: rest).map Content.recall).length ≤ 12 := by
      rw [empty, List.length_map]
      exact Nat.le_trans (Nat.add_le_add_left few 0) (by decide)
    rw [entered, State.offerAll_of_room (s := (s.advance dt).opensCollection _) behind (recalls_plain _)
      (recalls_sent _) room]
    rw [List.map_map, show ((s.advance dt).opensCollection _).queue = TxQueue.reset from queue]
    rfl
  · have free : (s.advance dt).mayBegin = true :=
      (State.mayBegin_iff _).2 (by rw [line]; exact ⟨idle, waiting, clear⟩)
    have room : (rest.map Content.recall).length + 1 ≤ 12 := by
      rw [List.length_map]
      exact Nat.le_trans few (by decide)
    rw [entered, List.map_cons]
    refine (State.offerAll_of_empty (s := (s.advance dt).opensCollection (rest.length + 1)) empty
      (recalls_plain (first :: rest)) (recalls_sent (first :: rest)) free room 0).trans ?_
    rw [State.beginsAlone, State.beginWith_eq, List.map_map, Frame.bits_head, State.frameFor_recall_cls]
    dsimp only
    rw [show ((s.advance dt).opensCollection (rest.length + 1)).queue = TxQueue.reset from queue,
      show ((s.advance dt).opensCollection (rest.length + 1)).line = s.line from line]
    rfl

end Sys2Proof.Machine
end

section
/-! PROOFS. Join completion (R57, R58, R114, R115): the HOME records, and the outputs mapped to them. -/

namespace Sys2Proof.Machine

/-- An output mapped to a channel when that channel's HOME record is set at join completion (R58). -/
def LoadOutput.joined (o : LoadOutput) (c : Collection) (now : Time) (m : OutputMap) : Record → LoadOutput
  | .home h => o.retarget m.mode ((c.valueOf m.chan).getD h.default) now
  | _ => o

theorem LoadOutput.map_at (o : LoadOutput) (phase t t' : Time) : (o.at phase t t').map = o.map := by
  rw [LoadOutput.at_eq]

theorem State.advance_load (s : State) (dt : Moment) (o : OutId) :
    (s.advance dt).outputs.loads[o] =
      (s.outputs.loads[o]).at s.outputs.pulsePhase s.now (s.now + dt.after) :=
  getElem_mapV _ _ _ o.isLt

theorem State.tellOutputs_load (s : State) (ch : Chan) (v : Byte) (o : OutId) :
    (s.tellOutputs ch v).outputs.loads[o] =
      match (s.outputs.loads[o]).map with
      | some m => if m.chan = ch then (s.outputs.loads[o]).retarget m.mode v s.now else s.outputs.loads[o]
      | none => s.outputs.loads[o] :=
  getElem_mapV _ _ _ o.isLt

section

variable (c : Collection) (i : Byte)

theorem State.joinChan_now (s : State) (ch : Chan) : (State.joinChan c i s ch).now = s.now := by
  obtain ⟨v, ld, e⟩ := State.joinChan_eq c i s ch
  rw [e]

theorem State.joinChan_load_of_ne (s : State) (ch : Chan) (o : OutId)
    (h : ∀ m ∈ (s.outputs.loads[o]).map, m.chan ≠ ch) :
    (State.joinChan c i s ch).outputs.loads[o] = s.outputs.loads[o] := by
  unfold State.joinChan
  split
  · dsimp only
    rw [State.tellOutputs_load]
    show (match (s.outputs.loads[o]).map with | some m => _ | none => _) = _
    cases hm : (s.outputs.loads[o]).map with
    | none => rfl
    | some m => exact if_neg (h m hm)
  · rfl

theorem State.joinChan_load_of_mapped (s : State) (o : OutId) {m : OutputMap}
    (h : (s.outputs.loads[o]).map = some m) :
    (State.joinChan c i s m.chan).outputs.loads[o] =
      (s.outputs.loads[o]).joined c s.now m (s.chan m.chan) := by
  unfold State.joinChan
  cases hr : s.chan m.chan with
  | home hm =>
    dsimp only
    rw [State.tellOutputs_load]
    show (match (s.outputs.loads[o]).map with | some m => _ | none => _) = _
    rw [h]
    exact if_pos rfl
  | unused => rfl
  | mirror => rfl

/-- The outputs that no channel of a list is mapped to are left. -/
theorem State.joinChans_load_of_ne (l : List Chan) (s : State) (o : OutId)
    (h : ∀ m ∈ (s.outputs.loads[o]).map, m.chan ∉ l) :
    (l.foldl (State.joinChan c i) s).outputs.loads[o] = s.outputs.loads[o] := by
  induction l generalizing s with
  | nil => rfl
  | cons ch l ih =>
    have first := State.joinChan_load_of_ne c i s ch o fun m hm e => h m hm (e ▸ List.mem_cons_self ..)
    rw [List.foldl_cons, ih, first]
    rw [first]
    exact fun m hm => (h m hm) ∘ List.mem_cons_of_mem _

/-- An output mapped to one of the channels is told once. -/
theorem State.joinChans_load_of_mem {l : List Chan} (hl : l.Nodup) (s : State) (o : OutId) {m : OutputMap}
    (hm : (s.outputs.loads[o]).map = some m) (mem : m.chan ∈ l) :
    (l.foldl (State.joinChan c i) s).outputs.loads[o] =
      (s.outputs.loads[o]).joined c s.now m (s.chan m.chan) := by
  induction l generalizing s with
  | nil => cases mem
  | cons ch l ih =>
    obtain ⟨notMem, hl⟩ := List.nodup_cons.1 hl
    rw [List.foldl_cons]
    by_cases e : m.chan = ch
    · subst e
      have told := State.joinChan_load_of_mapped c i s o hm
      rw [State.joinChans_load_of_ne, told]
      intro m' hm'
      rw [told] at hm'
      have same : m' = m := by
        refine Option.some.inj (Eq.trans ?_ hm)
        rw [← Option.mem_def.1 hm']
        unfold LoadOutput.joined
        split
        · exact (LoadOutput.map_retarget ..)
        · rfl
      exact same ▸ notMem
    · have left := State.joinChan_load_of_ne c i s ch o fun m' hm' => Option.mem_unique hm hm' ▸ e
      rw [ih hl _ (by rw [left, hm]) ((List.mem_cons.1 mem).resolve_left e), left, State.joinChan_now,
        State.chan_joinChan, if_neg e]

/-- Every output behind the HOME channels of a state. -/
theorem State.joinHomes_load (s u : State) (hu : u.channels = s.channels) (o : OutId) :
    (s.homeChans.foldl (State.joinChan c i) u).outputs.loads[o] =
      match (u.outputs.loads[o]).map with
      | none => u.outputs.loads[o]
      | some m => (u.outputs.loads[o]).joined c u.now m (s.chan m.chan) := by
  cases hm : (u.outputs.loads[o]).map with
  | none =>
    exact State.joinChans_load_of_ne c i _ u o (by rw [hm]; exact nofun)
  | some m =>
    by_cases mem : m.chan ∈ s.homeChans
    · rw [State.joinChans_load_of_mem c i s.nodup_homeChans u o hm mem, State.chan_congr hu]
    · rw [State.joinChans_load_of_ne c i _ u o fun m' hm' => Option.mem_unique hm hm' ▸ mem]
      rw [State.mem_homeChans] at mem
      dsimp only
      cases hr : s.chan m.chan with
      | home => exact absurd (by rw [hr]; rfl) mem
      | unused => rfl
      | mirror => rfl

end

theorem Record.isHome_join (c : Collection) (i : Byte) (ch : Chan) (r : Record) :
    (r.join c i ch).isHome = r.isHome := by
  cases r <;> rfl

/-- The ANNOUNCE is offered, and its timer starts (R48). -/
theorem State.offerAnnounce_eq (s : State) :
    s.offerAnnounce =
      { (s.offer .announce 0).2 with
        peers :=
          { (s.offer .announce 0).2.peers with
            announceAt := some (s.now + 100 * s.peers.ownPeriod.toNat * ms) } } := by
  obtain ⟨-, q, l, e, -⟩ := s.offer_eq .announce 0
  rw [State.offerAnnounce]
  dsimp only
  rw [e]
  rfl

theorem State.offerAnnounce_at {s : State} {t : Time} {p : Byte} (now : s.now = t) (period : s.peers.ownPeriod = p) :
    s.offerAnnounce =
      { (s.offer .announce 0).2 with
        peers := { (s.offer .announce 0).2.peers with announceAt := some (t + 100 * p.toNat * ms) } } := by
  subst now period
  exact s.offerAnnounce_eq

theorem State.recallExpiry_of_due {s : State} {t : Time} {k : Collection} (joining : s.start.state = .joining)
    (window : s.start.recallAt = some t) (due : t ≤ s.now) (collected : s.start.collection = some k) :
    s.recallExpiry = s.joinComplete k := by
  unfold State.recallExpiry
  rw [if_pos, collected]
  · rfl
  · exact ⟨joining, by rw [window]; exact decide_eq_true due⟩

/-- Settles O12: the state before the ANNOUNCE is offered is the one with every HOME record set. -/
theorem joinCompletes : Obligations.JoinCompletes := by
  intro s dt t0 k awake joining window due collected inc valueOf fetches
  have homes : (s.advance dt).homeChans = s.homeChans := rfl
  obtain ⟨v, ld, e⟩ := State.joinChans_eq k inc s.homeChans ((s.advance dt).becomesActive inc)
  refine ⟨(s.homeChans.foldl (State.joinChan k inc) ((s.advance dt).becomesActive inc)).resetCursor, ?_, fun c => ?_,
    ?_, fun i => ?_, ?_⟩
  · rw [e]
    rfl
  · refine (State.chan_joinHomes k inc s ((s.advance dt).becomesActive inc) rfl c).trans ?_
    cases s.chan c <;> rfl
  · refine congrArg (List.headD · 0) (State.homeChans_congr fun c => ?_)
    rw [State.chan_joinHomes k inc s ((s.advance dt).becomesActive inc) rfl, Record.isHome_join]
  · refine (State.joinHomes_load k inc s ((s.advance dt).becomesActive inc) rfl i).trans ?_
    have map : ((s.advance dt).outputs.loads[i]).map = (s.outputs.loads[i]).map := by
      rw [State.advance_load, LoadOutput.map_at]
    show (match ((s.advance dt).outputs.loads[i]).map with | none => _ | some m => _) = _
    rw [map]
    cases (s.outputs.loads[i]).map with
    | none => rfl
    | some m =>
      dsimp only
      show LoadOutput.joined _ k _ m (s.chan m.chan) = _
      cases s.chan m.chan <;> rfl
  · refine (awake.event dt State.recallExpiry).trans ?_
    rw [State.recallExpiry_of_due (s := s.advance dt) joining window due collected, State.joinComplete_eq, homes]
    have now : (s.homeChans.foldl (State.joinChan k inc) ((s.advance dt).becomesActive inc)).resetCursor.now =
        s.now + dt.after := by
      rw [e]
      rfl
    have period : (s.homeChans.foldl (State.joinChan k inc)
        ((s.advance dt).becomesActive inc)).resetCursor.peers.ownPeriod = s.peers.ownPeriod := by
      rw [e]
      rfl
    exact congrArg (fun w => Host.Outcome.next (addresses.foldl State.fetchFrom w).settle)
      (State.offerAnnounce_at now period)

end Sys2Proof.Machine
end

section
/-! PROOFS. The edges of other stations, the bits of a frame and its two checks, and a header that fails:
O14. -/

namespace Sys2Proof.Machine

/-! ### The bits of a frame and its checks (R1, R7, R8) -/

theorem msbBits_eq {w : Nat} (x : BitVec w) :
    msbBits x = (List.range w).map fun i => x.getLsbD (w - 1 - i) := by
  refine List.map_congr_left fun i hi => ?_
  rw [BitVec.getMsbD, decide_eq_true (List.mem_range.1 hi), Bool.true_and]

theorem Frame.length_headBits (f : Frame) : f.headBits.length = 28 := by
  simp [Frame.headBits, msbBits]

theorem length_byteBits (l : List Byte) : (byteBits l).length = 8 * l.length := by
  rw [byteBits, List.length_flatMap]
  simp [msbBits, Nat.mul_comm]

theorem Frame.length_bitsWith (f : Frame) (h : BitVec 4) (c : BitVec 8) :
    (f.bitsWith h c).length = 40 + 8 * f.body.length := by
  rw [Frame.bitsWith, List.length_append, List.length_append, List.length_append, f.length_headBits,
    length_byteBits]
  simp only [msbBits, List.length_map, List.length_range]
  omega

theorem headerPasses_iff (kind : BitVec 4) (rx : Rx) :
    headerPasses kind rx = true ↔
      rx.body.length < 15 ∧ headerCheckOf (frameOf kind rx).headBits = rx.headerCheck := by
  rw [headerPasses, Bool.and_eq_true, decide_eq_true_eq, beq_iff_eq]
  rfl

theorem checkPasses_iff (kind : BitVec 4) (rx : Rx) :
    checkPasses kind rx = true ↔
      frameCheckOf ((frameOf kind rx).headBits ++ msbBits rx.headerCheck ++ byteBits rx.body) =
        rx.frameCheck :=
  beq_iff_eq

theorem checkBit_eq {w : Nat} (flip reg : BitVec w) (b : Bool) :
    checkBit flip reg b = if b = reg.getLsbD (w - 1) then reg <<< 1 else (reg <<< 1) ^^^ flip := by
  rw [checkBit, BitVec.msb_eq_getLsbD_last]
  cases b <;> cases reg.getLsbD (w - 1) <;> rfl

theorem headerCheckOf_snoc (bits : List Bool) (b : Bool) :
    headerCheckOf (bits ++ [b]) = checkBit 0x3#4 (headerCheckOf bits) b := by
  rw [headerCheckOf, List.foldl_append]
  rfl

theorem frameCheckOf_snoc (bits : List Bool) (b : Bool) :
    frameCheckOf (bits ++ [b]) = checkBit 0x07#8 (frameCheckOf bits) b := by
  rw [frameCheckOf, List.foldl_append]
  rfl

/-! ### A header that fails (R7) -/

theorem headerReadFails_of {bits : List Bool}
    (fails : bits.length < 32 ∨ msbBits (headerCheckOf (bits.take 28)) ≠ (bits.drop 28).take 4
      ∨ (bits.drop 24).take 4 = [true, true, true, true]) : headerReadFails bits = true := by
  rw [headerReadFails, Bool.or_eq_true, Bool.or_eq_true, decide_eq_true_eq, bne_iff_ne, or_assoc]
  refine fails.imp_right (Or.imp_right fun all => ?_)
  rw [all]
  rfl

theorem State.headerFailed_of {s : State} {r : Reception} (receiving : s.line.activity = .receiving)
    (reading : s.line.reception = some r) (fails : headerReadFails r.bits = true) :
    s.headerFailed = s.headerFailure := by
  rw [State.headerFailed, reading]
  exact if_pos ⟨receiving, fails⟩

/-- Without an attempt a failed header leaves the Line Unit as it was, but IGNORING, and counts one. -/
theorem State.headerFailure_advance {s : State} (dt : Moment) (free : s.line.attempt = none) :
    (s.advance dt).headerFailure =
      { s.advance dt with
        line :=
          { s.line with
            activity := .ignoring, reception := none, answer := none
            wire := s.line.wire.heard (s.now + dt.after) }
        service := { s.service with counters := s.service.counters.inc .headerFailures } } := by
  have line := State.advance_line_of_no_attempt dt free
  rw [State.headerFailure, State.ignoreFrame, line]
  rfl

/-! ### The level of the line (R3) -/

theorem Wire.pullBy_of_recessive {w : Wire} {now others own : Time} (recessive : w.freed ≤ now) :
    w.pullBy now others own =
      { edge := now, others := max w.others (now + others), freed := now + max others own
        quiet := now + max (max others own) 100 } := by
  rw [Wire.pullBy, Wire.pull, if_pos recessive]
  rfl

theorem Wire.pullBy_of_dominant {w : Wire} {now others own : Time} (dominant : ¬ w.freed ≤ now) :
    w.pullBy now others own =
      { w with
        others := max w.others (now + others), freed := max w.freed (now + max others own)
        quiet := max w.quiet (now + max others own) } := by
  rw [Wire.pullBy, Wire.pull, if_neg dominant]

theorem LineUnit.assertTime_of_none {l : LineUnit} (h : l.answer = none) : l.assertTime = 0 := by
  rw [LineUnit.assertTime, h]

theorem LineUnit.assertTime_of_some {l : LineUnit} {a : Answer} (h : l.answer = some a) :
    l.assertTime = if a.seen = a.slot.position then 75 else 0 := by
  rw [LineUnit.assertTime, h]
  rfl

theorem State.wirePulled_advance {s : State} (dt : Moment) (low : Time) (free : s.line.attempt = none) :
    (s.advance dt).wirePulled low =
      s.line.wire.pullBy (s.now + dt.after) low
        (if s.line.wire.freed ≤ s.now + dt.after then s.line.assertTime else 0) := by
  rw [State.wirePulled, State.advance_line_of_no_attempt dt free]
  rfl

theorem State.wirePulled_of_no_answer {s : State} (dt : Moment) (low : Time) (free : s.line.attempt = none)
    (h : s.line.answer = none) :
    (s.advance dt).wirePulled low = s.line.wire.pullBy (s.now + dt.after) low 0 := by
  rw [State.wirePulled_advance dt low free, LineUnit.assertTime_of_none h, ite_self]

/-! ### The bits of a frame being received (R2) -/

theorem sampleBit_sub (released edge : Time) : sampleBit (released - edge) = decide (released ≤ edge + 50) :=
  decide_eq_decide.2 Nat.sub_le_iff_le_add'

/-- An edge changes the bits whose sample is still to come, and starts one where the line is recessive. -/
theorem Reception.hear_of_recent {bits last : List Bool} {past recent : List Time} {now : Time}
    (released : Time) (starts : Bool) (same : last.length = recent.length)
    (old : ∀ edge ∈ past, edge + 50 < now) (new : ∀ edge ∈ recent, now ≤ edge + 50) :
    ({ bits := bits ++ last, recent := past ++ recent } : Reception).hear now released starts =
      let read := bits ++ List.zipWith (fun b edge => b && decide (released ≤ edge + 50)) last recent
      if starts then { bits := read ++ [decide (released ≤ now + 50)], recent := recent ++ [now] }
      else { bits := read, recent := recent } := by
  rw [Reception.hear_append released starts same old new]
  simp only [sampleBit_sub]

/-! ### The edge of another station (R3, R5, R9, R12, R17) -/

theorem exec_dominantEdge {s : State} (awake : s.Awake) (dt : Moment) (low : Time) :
    exec (.dominantEdge ⟨dt, low⟩) s = .next (State.dominantEdge low (s.advance dt)) := by
  refine (show exec (.dominantEdge ⟨dt, low⟩) s = execDominantEdge ⟨dt, low⟩ s from rfl).trans ?_
  rw [execDominantEdge, if_pos awake.1]
  exact event_eq awake rfl awake.2.1

theorem State.dominantEdge_advance {s : State} (dt : Moment) (low : Time) (free : s.line.attempt = none) :
    State.dominantEdge low (s.advance dt) =
      { s.advance dt with
        line :=
          s.line.edge ((s.advance dt).wirePulled low) (s.now + dt.after) (s.start.state == .loading) } := by
  have line := State.advance_line_of_no_attempt dt free
  have none (w : Wire) (b : Bool) : (s.line.edge w (s.now + dt.after) b).attempt = none := by
    unfold LineUnit.edge
    split
    · split <;> exact free
    · exact free
  have same := none ((s.advance dt).wirePulled low) (s.start.state == .loading)
  unfold State.dominantEdge
  rw [line]
  show (s.advance dt).setLine { s.line.edge _ (s.now + dt.after) (s.start.state == .loading) with
      attempt := (s.line.edge _ (s.now + dt.after) (s.start.state == .loading)).attempt.map _ } =
    (s.advance dt).setLine _
  generalize s.line.edge _ (s.now + dt.after) (s.start.state == .loading) = l at same ⊢
  obtain ⟨c, v, a, r, w, x⟩ := l
  subst same
  rfl

theorem Answer.drives_after (a : Answer) (edge after : Nat) :
    ({ a with seen := a.seen + 1 } : Answer).drives edge (edge + after) =
      (decide (a.seen = a.slot.position) && decide (after < 75)) := by
  rw [← Bool.decide_and]
  refine decide_eq_decide.2 ?_
  show a.seen + 1 = a.slot.position + 1 ∧ edge ≤ edge + after ∧ edge + after < edge + 75 ↔ _
  omega

theorem State.advance_reception (s : State) (dt : Moment) : (s.advance dt).line.reception = s.line.reception := by
  rw [State.advance_line, LineUnit.at]
  cases s.line.attempt <;> rfl

theorem State.advance_answer (s : State) (dt : Moment) : (s.advance dt).line.answer = s.line.answer := by
  rw [State.advance_line, LineUnit.at]
  cases s.line.attempt <;> rfl

theorem Option.map_eq_self {α : Type} {o : Option α} (h : o = none) (f : α → α) : o.map f = o := by
  subst h
  rfl

/-- The first edge of a frame is that of its first bit. -/
theorem Reception.first_of {now released low : Time} (h : released = now + low) :
    Reception.first now released = { bits := [decide (low ≤ 50)], recent := [now] } := by
  subst h
  rw [Reception.first, sampleBit, Nat.add_sub_cancel_left]
  rfl

/-- On a line that is not IDLE an edge moves the line, and what is received or answered with it. -/
theorem exec_dominantEdge_of_busy {s : State} (awake : s.Awake) (dt : Moment) (low : Time)
    (free : s.line.attempt = none) (busy : s.line.condition ≠ .idle) :
    exec (.dominantEdge ⟨dt, low⟩) s =
      .next
        { s.advance dt with
          line :=
            { s.line with
              wire := (s.advance dt).wirePulled low
              reception :=
                s.line.reception.map fun r =>
                  r.hear (s.now + dt.after) ((s.advance dt).wirePulled low).freed
                    (decide (s.line.wire.freed ≤ s.now + dt.after))
              answer :=
                s.line.answer.map fun a =>
                  if s.line.wire.freed ≤ s.now + dt.after then { a with seen := a.seen + 1 } else a } } := by
  rw [exec_dominantEdge awake, State.dominantEdge_advance dt low free]
  exact congrArg (fun l => Host.Outcome.next { s.advance dt with line := l }) (if_neg busy)

/-- A station that answers drives the slot it has decided on, from its edge for 37.5 µs. -/
theorem State.lineDriven_advance_of_answer {t : State} {a : Answer} (d : Moment) (free : t.line.attempt = none)
    (answers : t.line.answer = some a) :
    (t.advance d).lineDriven = a.drives t.line.wire.edge (t.now + d.after) := by
  unfold State.lineDriven
  rw [State.advance_line_of_no_attempt d free, free, answers]
  rfl

/-- Settles O14: an edge is what the wire of it is and what it means in the activity. -/
theorem firstEdgeAndHeader : Obligations.FirstEdgeAndHeader := by
  refine ⟨?_, ?_, ?_, fun bits b => ⟨rfl, rfl, ?_, ?_⟩, ?_⟩
  · intro s dt low awake free now w struck held
    have edge := State.dominantEdge_advance dt low free
    have alone : (struck 0).freed = now + low := congrArg (now + ·) (Nat.max_zero low)
    refine ⟨fun idle waiting silent recessive => ?_, fun bits last past recent busy reading silent same old new => ?_,
      fun a busy deaf answers recessive => ?_, fun a busy deaf answers dominant => ?_, fun early => ?_⟩
    · have pulled : (s.advance dt).wirePulled low = struck 0 :=
        (State.wirePulled_of_no_answer dt low free silent).trans (Wire.pullBy_of_recessive recessive)
      have freed : ((s.advance dt).wirePulled low).freed = now + low := by
        rw [pulled, alone]
      rw [exec_dominantEdge awake, edge, LineUnit.edge, if_pos idle, Reception.first_of freed, pulled]
      by_cases loading : s.start.state = .loading
      · rw [if_pos loading, if_neg (by rw [loading]; exact fun h => nomatch h.1)]
      · rw [if_neg loading, if_pos ⟨beq_eq_false_iff_ne.2 loading, waiting⟩]
    · intro starts released read
      have pulled : (s.advance dt).wirePulled low = if starts then struck 0 else held := by
        rw [State.wirePulled_of_no_answer dt low free silent]
        by_cases recessive : starts
        · rw [if_pos recessive, Wire.pullBy_of_recessive recessive]
        · rw [if_neg recessive, Wire.pullBy_of_dominant recessive, Nat.max_zero]
      have freed : ((s.advance dt).wirePulled low).freed = released := by
        rw [pulled, apply_ite Wire.freed, alone]
      have heard : (({ bits := bits ++ last, recent := past ++ recent } : Reception).hear (s.now + dt.after)
          ((s.advance dt).wirePulled low).freed (decide (s.line.wire.freed ≤ s.now + dt.after))) =
          if starts then { bits := read ++ [decide (low ≤ 50)], recent := recent ++ [now] }
          else { bits := read, recent := recent } := by
        rw [Reception.hear_of_recent _ _ same old new, freed]
        by_cases recessive : starts
        · have short : decide (released ≤ s.now + dt.after + 50) = decide (low ≤ 50) := by
            rw [show released = now + low from if_pos recessive]
            exact decide_eq_decide.2 Nat.add_le_add_iff_left
          dsimp only
          rw [short, decide_eq_true recessive, if_pos rfl, if_pos recessive]
        · dsimp only
          rw [decide_eq_false recessive, if_neg nofun, if_neg recessive]
      rw [exec_dominantEdge_of_busy awake dt low free busy, Option.map_eq_self silent, reading, Option.map_some, heard,
        pulled]
    · have pulled : (s.advance dt).wirePulled low = struck (if a.seen = a.slot.position then 75 else 0) := by
        rw [State.wirePulled_advance dt low free, if_pos recessive, LineUnit.assertTime_of_some answers,
          Wire.pullBy_of_recessive recessive]
      intro own t
      refine ⟨?_, fun d => ?_⟩
      · rw [exec_dominantEdge_of_busy awake dt low free busy, Option.map_eq_self deaf, answers, Option.map_some,
          if_pos recessive, pulled]
      · rw [State.lineDriven_advance_of_answer (t := t) d free rfl]
        exact Answer.drives_after a now d.after
    · have pulled : (s.advance dt).wirePulled low = held := by
        rw [State.wirePulled_advance dt low free, if_neg (Nat.not_le.2 dominant),
          Wire.pullBy_of_dominant (Nat.not_le.2 dominant), Nat.max_zero]
      have waits : (s.line.answer.map fun a =>
          if s.line.wire.freed ≤ s.now + dt.after then { a with seen := a.seen + 1 } else a) = s.line.answer := by
        rw [answers, Option.map_some, if_neg (Nat.not_le.2 dominant)]
      rw [exec_dominantEdge_of_busy awake dt low free busy, Option.map_eq_self deaf, waits, pulled]
    · refine event_eq awake (effect := State.idleDeclared) (if_neg fun h => ?_) awake.2.1
      rw [State.advance_line_of_no_attempt dt free] at h
      exact absurd h.2.2 (Nat.not_le.2 early)
  · intro s dt low awake busy deaf silent now l
    have busy' : l.condition ≠ .idle := (State.advance_condition s dt).symm ▸ busy
    have reading : l.reception = none := (State.advance_reception s dt).trans deaf
    have answering : l.answer = none := (State.advance_answer s dt).trans silent
    have pulled : (s.advance dt).wirePulled low =
        if l.wire.freed ≤ now then
          { edge := now, others := max l.wire.others (now + low), freed := now + low, quiet := now + max low 100 }
        else
          { l.wire with
            others := max l.wire.others (now + low), freed := max l.wire.freed (now + low)
            quiet := max l.wire.quiet (now + low) } := by
      rw [State.wirePulled, LineUnit.assertTime_of_none answering, ite_self]
      by_cases recessive : l.wire.freed ≤ now
      · rw [if_pos recessive]
        refine (Wire.pullBy_of_recessive recessive).trans ?_
        rw [Nat.max_zero]
      · rw [if_neg recessive]
        refine (Wire.pullBy_of_dominant recessive).trans ?_
        rw [Nat.max_zero]
    rw [exec_dominantEdge awake, State.dominantEdge, LineUnit.edge, if_neg busy', Option.map_eq_self reading,
      Option.map_eq_self answering, pulled]
    rfl
  · intro kind rx msb head body
    have hb : (frameOf kind rx).headBits = head := by
      simp only [Frame.headBits, msbBits_eq]
      rfl
    have bb : byteBits rx.body = body :=
      congrArg (List.flatMap · rx.body) (funext msbBits_eq)
    have four : msbBits rx.headerCheck = msb rx.headerCheck := msbBits_eq _
    refine ⟨?_, ?_, ?_, ?_, ?_⟩
    · rw [rxBits, Frame.bitsWith, hb, four, msbBits_eq rx.frameCheck, show byteBits (frameOf kind rx).body = body from bb]
    · rw [← hb, Frame.length_headBits]
    · exact Frame.length_bitsWith _ _ _
    · rw [headerPasses_iff, hb]
    · rw [checkPasses_iff, hb, four, bb]
  · rw [headerCheckOf_snoc, checkBit_eq]
    rfl
  · rw [frameCheckOf_snoc, checkBit_eq]
    rfl
  · intro s dt r now ignored awake free receiving reading
    have failed := State.headerFailure_advance dt free
    have line := State.advance_line_of_no_attempt dt free
    refine ⟨fun fails => ?_, fun c kind rx row at_ hears bad => ?_⟩
    · refine event_eq awake (effect := State.headerFailed) ?_ awake.2.1
      rw [State.headerFailed_of (s := s.advance dt) (by rwa [line]) (by rwa [line]) (headerReadFails_of fails)]
      exact failed
    · subst at_
      rw [exec_frameRow row awake, State.receive_of_bad_header (hears.advance _) bad, failed]
      exact congrArg Host.Outcome.next (State.settle_of_not_evicted awake.2.1)

end Sys2Proof.Machine
end

section
/-! PROOFS. What an attempt sends and carries, and the entry it begins with: O15. -/

namespace Sys2Proof.Machine

/-! ### The bits sent (R1, R7, R8) -/

theorem Frame.headBits_eq (f : Frame) :
    let msb : ∀ {w : Nat}, BitVec w → List Bool :=
      fun {w} x => (List.range w).map fun i => x.getLsbD (w - 1 - i)
    f.headBits =
      msb f.cls ++ msb f.source ++ msb f.kind ++ msb f.destination ++ msb f.incarnation
        ++ msb (BitVec.ofNat 4 f.body.length) := by
  simp only [Frame.headBits, msbBits_eq]

theorem byteBits_msb (l : List Byte) :
    byteBits l = l.flatMap fun x => (List.range 8).map fun i => x.getLsbD (8 - 1 - i) :=
  congrArg (List.flatMap · l) (funext msbBits_eq)

/-! ### What is carried (R73, R77, R79) -/

theorem State.homeTriple_eq (s : State) :
    s.homeTriple = fun c =>
      match s.chan c with
      | .home h => some { chan := c, value := h.value, version := h.version }
      | _ => none := by
  funext c
  unfold State.homeTriple
  cases s.chan c <;> rfl

theorem State.dirtyChans_eq (s : State) :
    s.chansWhere Record.isDirty =
      ((List.finRange 64).filter fun c => (s.chan c).isHome).filter fun c =>
        match s.chan c with
        | .home h => h.dirty
        | _ => false := by
  rw [List.filter_filter]
  refine List.filter_congr fun c _ => ?_
  show (s.chan c).isDirty = _
  cases s.chan c with
  | home h => exact (Bool.and_true _).symm
  | unused => rfl
  | mirror m => rfl

theorem State.replyTriple_eq (s : State) (j : Byte) :
    s.replyTriple j = fun c =>
      match s.chan c with
      | .mirror m =>
        if m.state ≠ .unknown ∧ m.heldIncarnation = j then
          some { chan := c, value := m.value, version := m.version }
        else none
      | _ => none := by
  funext c
  unfold State.replyTriple
  cases s.chan c with
  | mirror m =>
    refine if_congr ?_ rfl rfl
    rw [MirrorRec.reports, Bool.and_eq_true, bne_iff_ne, beq_iff_eq]
  | unused => rfl
  | home h => rfl

/-! ### The entry chosen (R9, R28) -/

/-- An attempt begins with the eligible entry of the lowest class, the oldest of those. -/
theorem State.attemptBegin_of_eligible {s : State} {f : Entry} (may : s.mayBegin = true)
    (mem : f ∈ s.queue.entries) (eligible : f.eligible s.start.state = true) :
    ∃ before e after, s.queue.entries = before ++ e :: after
      ∧ e.eligible s.start.state = true
      ∧ (∀ g ∈ before, g.eligible s.start.state = true → e.content.cls < g.content.cls)
      ∧ (∀ g ∈ after, g.eligible s.start.state = true → e.content.cls ≤ g.content.cls)
      ∧ s.attemptBegin = s.beginWith before.length e := by
  obtain ⟨⟨i, e⟩, chosen⟩ := Option.isSome_iff_exists.1 (bestEligible_isSome 0 mem eligible)
  obtain ⟨before, after, split, at_, ready, older, younger⟩ := bestEligible_spec chosen
  refine ⟨before, e, after, split, ready, older, younger, ?_⟩
  rw [State.attemptBegin, if_pos may, State.chosen, chosen]
  dsimp only
  rw [at_, Nat.zero_add]

/-- Settles O15: the choice gives the entry, and the records at this moment what it carries. -/
theorem attemptBegins : Obligations.AttemptBegins := by
  refine ⟨fun f => ?_, ?_, fun s => ?_, fun period k => ?_⟩
  · intro msb head checked
    have hb : f.headBits = head := f.headBits_eq
    have hc : f.headBits ++ msbBits f.headerCheck ++ byteBits f.body = checked := by
      rw [Frame.headerCheck, hb, msbBits_eq, byteBits_msb]
    refine ⟨?_, f.length_bitsWith _ _⟩
    rw [Frame.bits, Frame.bitsWith, Frame.frameCheck, Frame.frameCheckWith, hc, msbBits_eq]
  · intro s dt f awake idle waiting free clear mem eligible
    have line := State.advance_line_of_no_attempt dt free
    have may : (s.advance dt).mayBegin = true :=
      (State.mayBegin_iff _).2 (by rw [line]; exact ⟨idle, waiting, clear⟩)
    obtain ⟨before, e, after, split, ready, older, younger, begins⟩ :=
      State.attemptBegin_of_eligible (s := s.advance dt) may mem eligible
    refine ⟨before, e, after, split, ready, older, younger, ?_⟩
    refine event_eq awake (effect := State.attemptBegin) ?_ ?_
    · rw [begins, State.beginWith_eq, line, split, TxKept.modifyAt_append]
      rfl
    · exact awake.2.1
  · intro triple homes dirty turn
    have ht : s.homeTriple = triple := s.homeTriple_eq
    have hd : s.announceChoice = (dirty, turn) := by
      rw [State.announceChoice, State.dirtyChans_eq]
      rfl
    refine ⟨?_, fun _ _ => rfl, fun cs => ?_, fun j cs => ?_, fun _ _ _ _ => rfl, fun _ => rfl, fun _ => rfl, fun _ => rfl⟩
    · rw [State.carriedBy, hd, ht]
    · rw [State.carriedBy, ht]
    · exact congrArg (fun f => ({ fixed := cs.filterMap f, byTurn := [] } : Carried)) (s.replyTriple_eq j)
  · exact ⟨rfl, fun _ _ => rfl, fun _ _ _ _ => rfl, fun _ => rfl, fun _ => rfl, fun _ => rfl, fun _ _ => rfl, fun _ => rfl⟩

end Sys2Proof.Machine
end

section
/-! PROOFS. The bits of an attempt at their samples, and its ending at one of them: O16 and O17. -/

namespace Sys2Proof.Machine

/-! ### The bit an attempt is in (R1, R2) -/

section

variable {a : Attempt} {k : Nat} {now : Time}

theorem Attempt.bitAt_of_during (few : k < 43 + 8 * a.frame.body.length) (start : a.start + k * 100 ≤ now)
    (stop : now < a.start + k * 100 + 100) : a.bitAt now = k := by
  have bit : (now - a.start) / 100 = k := by
    refine Nat.div_eq_of_lt_le (Nat.le_sub_of_add_le' start) ?_
    rw [Nat.succ_mul]
    exact Nat.sub_lt_left_of_lt_add (Nat.le_trans (Nat.le_add_right _ _) start) stop
  rw [Attempt.bitAt_eq, bit]
  omega

theorem Attempt.sampled_of_after (at_ : a.bitAt now = k) (after : a.start + k * 100 + 50 ≤ now) :
    a.sampled now = true := by
  rw [Attempt.sampled, at_]
  exact decide_eq_true after

theorem Attempt.sent_of_bitAt (at_ : a.bitAt now = k) (few : k < 40 + 8 * a.frame.body.length) :
    a.sent now = a.frame.bits.getD k true := by
  rw [Attempt.sent, at_, Attempt.bits]
  exact List.getD_append _ _ _ _ (by rw [Frame.bits, Frame.length_bitsWith]; exact few)

/-- A bit reads 0 where the line is dominant at its sample (R2). -/
theorem Attempt.reads_eq_false_iff (a : Attempt) (bit : Nat) (low : Time) :
    a.reads bit low = false ↔
      50 < low ∨ ∃ p ∈ a.heard, p.start ≤ a.start + bit * 100 + 50 ∧ a.start + bit * 100 + 50 < p.stop := by
  rw [Attempt.reads, Bool.and_eq_false_iff, Bool.not_eq_false', Attempt.pulledAt, List.any_eq_true,
    sampleBit, decide_eq_false_iff_not, Nat.not_le]
  simp only [decide_eq_true_eq]
  rfl

theorem Attempt.reads_eq_true_iff (a : Attempt) (bit : Nat) (low : Time) :
    a.reads bit low = true ↔
      low ≤ 50 ∧ ∀ p ∈ a.heard, ¬(p.start ≤ a.start + bit * 100 + 50 ∧ a.start + bit * 100 + 50 < p.stop) := by
  rw [← Bool.not_eq_false, Attempt.reads_eq_false_iff, not_or, Nat.not_lt]
  push Not
  rfl

theorem activityAt_of_arbitrating (few : k < 7) (stop : now < a.start + k * 100 + 100) :
    activityAt now a = .arbitrating :=
  if_pos (Nat.lt_of_lt_of_le stop (by
    rw [Nat.add_assoc, ← Nat.succ_mul]
    exact Nat.add_le_add_left (Nat.mul_le_mul_right 100 few) _))

theorem activityAt_of_sending (many : 7 ≤ k) (few : k < 40 + 8 * a.frame.body.length)
    (start : a.start + k * 100 ≤ now) (stop : now < a.start + k * 100 + 100) : activityAt now a = .sending := by
  rw [activityAt_eq, if_neg, if_pos]
  · refine Nat.lt_of_lt_of_le stop ?_
    rw [Nat.add_assoc, ← Nat.succ_mul]
    exact Nat.add_le_add_left (Nat.mul_le_mul_right 100 few) _
  · exact Nat.not_lt.2 (Nat.le_trans (Nat.add_le_add_left (Nat.mul_le_mul_right 100 many) _) start)

end

theorem State.advance_line_attempt {s : State} {a : Attempt} (dt : Moment) (sends : s.line.attempt = some a) :
    (s.advance dt).line =
      { s.line with
        activity := activityAt (s.now + dt.after) a, wire := (s.advance dt).line.wire } := by
  rw [State.advance_line_of_attempt dt sends]

/-- An attempt ends, counted, in the Line Unit as it is when the time has passed. -/
theorem State.endAttempt_advance {s : State} {a : Attempt} (dt : Moment) (sends : s.line.attempt = some a)
    (c : Counter) (activity : Activity) (reception : Option Reception) (wire : Wire) (ending : Ending) :
    ((s.advance dt).bump c).endAttempt activity reception wire ending =
      ({ s.advance dt with
          line := { s.line with activity := activity, attempt := none, reception := reception, wire := wire }
          service := { s.service with counters := s.service.counters.inc c } } : State).handBack ending := by
  have line := State.advance_line_attempt dt sends
  generalize (s.advance dt).line.wire = w at line
  show (((s.advance dt).bump c).setLine { (s.advance dt).line with
      activity := activity, attempt := none, reception := reception, wire := wire }).handBack ending = _
  rw [line]
  rfl

/-- Settles O16: the bit the loss is at is sampled, was sent as 1 and reads 0. -/
theorem arbitrationIsLost : Obligations.ArbitrationIsLost := by
  intro s dt bit low a before e after edge w run released zero awake sends sampled during one reads queued
  have few : bit.val < 7 := bit.isLt
  have start : a.start + bit.val * 100 ≤ s.now + dt.after := Nat.le_trans (Nat.le_add_right _ _) sampled
  have at_ : a.bitAt (s.now + dt.after) = bit.val := Attempt.bitAt_of_during (by omega) start during
  have line := State.advance_line_attempt dt sends
  have attempt : (s.advance dt).line.attempt = some a := by rw [line]; exact sends
  have lost : (s.advance dt).line.activity = .arbitrating ∧ a.bitAt (s.advance dt).now = bit.val
      ∧ a.sampled (s.advance dt).now = true ∧ a.sent (s.advance dt).now = true
      ∧ a.reads bit.val low = false := by
    refine ⟨?_, at_, Attempt.sampled_of_after at_ sampled, ?_, (Attempt.reads_eq_false_iff _ _ _).2 reads⟩
    · rw [line]
      exact activityAt_of_arbitrating few during
    · exact (Attempt.sent_of_bitAt at_ (by omega)).trans one
  refine event_eq awake (effect := State.arbitrationLost bit low) ?_ awake.2.1
  rw [State.arbitrationLost, attempt]
  dsimp only
  rw [if_pos lost, State.endAttempt_advance dt sends]
  exact State.handBack_lost queued

/-! ### A bit error (R10, R11, R31) -/

theorem State.behind_of_no_rival {s : State} (h : s.rival = 0) : s.behind = false := by
  rw [State.behind, h]
  rfl

/-- A bit is misread where it reads as it was not sent, in the arbitration bits only where a 0 reads 1. -/
theorem State.misread_of {s : State} {a : Attempt} {k : Nat} {low : Time}
    (few : k < 40 + 8 * a.frame.body.length) (at_ : a.bitAt s.now = k) (after : a.start + k * 100 + 50 ≤ s.now)
    (activity : s.line.activity = if k < 7 then .arbitrating else .sending)
    (differs : a.reads k low = true ↔ a.frame.bits.getD k true = false)
    (zero : k < 7 → a.frame.bits.getD k true = false) : s.misread a low = true := by
  have sent := Attempt.sent_of_bitAt at_ few
  rw [State.misread, Attempt.sampled_of_after at_ after, at_, sent, activity]
  by_cases early : k < 7
  · rw [if_pos early, zero early, differs.2 (zero early)]
    rfl
  · rw [if_neg early]
    cases hb : a.frame.bits.getD k true with
    | false => rw [differs.2 hb]; rfl
    | true =>
      have : a.reads k low = false := by
        rw [← Bool.not_eq_true, differs, hb]
        exact nofun
      rw [this]
      rfl

/-- Nobody is told that a RECALL REPLY has failed (Table 2-4). -/
theorem State.tellProducer_recallReply (s : State) {e : Entry} (kind : e.content.kind = kindRecallReply)
    (o : Outcome) : s.tellProducer e o = s := by
  unfold State.tellProducer
  cases content : e.content with
  | recallReply j cs => rfl
  | reply bs => rfl
  | _ =>
    rw [content] at kind
    exact absurd kind (of_decide_eq_false rfl)

/-! ### The hold-back ends (R32) -/

/-- The entry the queue chooses is the oldest of the lowest class. -/
theorem bestEligible_of {st : StationState} {before after : List Entry} {e : Entry} (k : Nat)
    (eligible : e.eligible st = true)
    (older : ∀ g ∈ before, g.eligible st = true → e.content.cls < g.content.cls)
    (younger : ∀ g ∈ after, g.eligible st = true → e.content.cls ≤ g.content.cls) :
    bestEligible st k (before ++ e :: after) = some (k + before.length, e) := by
  induction before generalizing k with
  | nil =>
    rw [List.nil_append, bestEligible]
    cases rest : bestEligible st (k + 1) after with
    | none => exact if_pos eligible
    | some x =>
      obtain ⟨j, b⟩ := x
      obtain ⟨l, r, split, -, ready, -, -⟩ := bestEligible_spec rest
      have lower := younger b (by rw [split]; simp) ready
      exact if_pos (by rw [eligible, decide_eq_true lower]; rfl)
  | cons a before ih =>
    rw [List.cons_append, bestEligible, ih (k + 1) fun g hg => older g (List.mem_cons_of_mem _ hg)]
    have higher : (a.eligible st && decide (a.content.cls ≤ e.content.cls)) = false := by
      cases ha : a.eligible st with
      | false => rfl
      | true => exact decide_eq_false (Nat.not_le.2 (older a List.mem_cons_self ha))
    dsimp only
    rw [higher, List.length_cons, Nat.add_assoc, Nat.add_comm 1]
    rfl

theorem State.beginAt_of_chosen {s : State} {i : Nat} {e : Entry} (may : s.mayBegin = true)
    (chosen : s.chosen = some (i, e)) : s.beginAt i = s.beginWith i e := by
  rw [State.beginAt, chosen]
  exact if_pos ⟨may, rfl⟩

/-- What the entry at a position chosen is, by where the queue is split. -/
theorem bestEligible_at {st : StationState} {before after : List Entry} {e b : Entry}
    (chosen : bestEligible st 0 (before ++ e :: after) = some (before.length, b)) :
    e.eligible st = true
      ∧ (∀ g ∈ before, g.eligible st = true → e.content.cls < g.content.cls)
      ∧ ∀ g ∈ after, g.eligible st = true → e.content.cls ≤ g.content.cls := by
  obtain ⟨l, r, split, len, ready, older, younger⟩ := bestEligible_spec chosen
  obtain ⟨rfl, tail⟩ := List.append_inj split (by omega)
  obtain ⟨rfl, rfl⟩ := List.cons.inj tail
  exact ⟨ready, older, younger⟩

theorem Entry.eligible_iff (e : Entry) (st : StationState) :
    e.eligible st = true ↔ e.onLine = false ∧ e.holdBack = none ∧ mayBeSent st e.content = true := by
  rw [Entry.eligible, Entry.ready, Bool.and_eq_true, Bool.and_eq_true, Bool.not_eq_true', Option.isNone_iff_eq_none,
    and_assoc]

/-- The entry whose hold-back has ended waits with the others, or goes on the line at once. -/
theorem State.holdBackExpiry_of_due {s : State} {p : Fin 12} {before after : List Entry} {e : Entry} {t : Time}
    (split : s.queue.entries = before ++ e :: after) (at_ : before.length = p.val) (held : e.holdBack = some t)
    (expired : t ≤ s.now) :
    s.holdBackExpiry p =
      ({ s with queue := { s.queue with entries := before ++ { e with holdBack := none } :: after } } :
        State).beginAt before.length := by
  have found : s.queue.entries[p.val]? = some e := by
    rw [split, ← at_, List.getElem?_append_right (Nat.le_refl _), Nat.sub_self]
    rfl
  have passed : due s.now e.holdBack = true := by
    rw [held]
    exact decide_eq_true expired
  rw [State.holdBackExpiry, found]
  dsimp only
  rw [if_pos passed, split, ← at_, TxKept.modifyAt_append]

/-- Settles O17: a bit misread fails the attempt, and behind the hold-back the queue chooses again. -/
theorem bitErrorFailsTheAttempt : Obligations.BitErrorFailsTheAttempt := by
  refine ⟨?_, ?_⟩
  · intro s dt low a k before e after edge w run released one failed awake sends few sampled during differs zero queued
    have start : a.start + k * 100 ≤ s.now + dt.after := Nat.le_trans (Nat.le_add_right _ _) sampled
    have at_ : a.bitAt (s.now + dt.after) = k := Attempt.bitAt_of_during (by omega) start during
    have line := State.advance_line_attempt dt sends
    have activity : (s.advance dt).line.activity = if k < 7 then .arbitrating else .sending := by
      rw [line]
      by_cases early : k < 7
      · rw [if_pos early]
        exact activityAt_of_arbitrating early during
      · rw [if_neg early]
        exact activityAt_of_sending (Nat.not_lt.1 early) few start during
    have misread : (s.advance dt).misread a low = true :=
      State.misread_of few at_ sampled activity ((Attempt.reads_eq_true_iff a k low).trans differs) zero
    have ends : State.bitErred low (s.advance dt) = (failed s.queue.entries).handBack (.ended .failed) := by
      rw [State.bitErred, show (s.advance dt).line.attempt = some a by rw [line]; exact sends]
      dsimp only
      rw [if_pos misread, State.endAttempt_advance dt sends, show a.bitAt (s.advance dt).now = k from at_]
      rfl
    have leaves (last : e.attempts = 3) : State.bitErred low (s.advance dt) =
        ((failed (before ++ after)).tellProducer e .failed).grantOccasion :=
      ends.trans (State.handBack_leaves queued fun _ => last)
    refine ⟨fun more => ?_, fun last => ?_, fun last kind none => ?_⟩
    · exact event_eq awake (effect := State.bitErred low) (ends.trans (State.handBack_failed queued more)) awake.2.1
    · exact (awake.event dt (State.bitErred low)).trans (congrArg (fun t => Host.Outcome.next t.settle) (leaves last))
    · refine event_eq awake (effect := State.bitErred low) ((leaves last).trans ?_) awake.2.1
      rw [State.tellProducer_recallReply _ kind]
      exact State.grantOccasion_of_none none (State.behind_of_no_rival awake.2.2.1)
  · intro s dt p before e after t0 awake split at_ held expired
    have ends := State.holdBackExpiry_of_due (s := s.advance dt) split at_ held expired
    refine ⟨fun waits => ?_, fun free idle waiting clear off sent older younger => ?_⟩
    · refine event_eq awake (effect := State.holdBackExpiry p) (ends.trans ?_) awake.2.1
      unfold State.beginAt
      split
      · next j b chosen =>
        refine if_neg ?_
        rintro ⟨may, rfl⟩
        obtain ⟨idle, -, clear⟩ := (State.mayBegin_iff _).1 may
        obtain ⟨eligible, older, younger⟩ := bestEligible_at chosen
        obtain ⟨off, -, sent⟩ := (Entry.eligible_iff _ _).1 eligible
        rcases waits with busy | pending | on | unsent | ⟨g, mem, ready, lower⟩ | ⟨g, mem, ready, lower⟩
        · exact busy ((State.advance_condition s dt).symm.trans idle)
        · exact pending clear
        · exact Bool.noConfusion (off.symm.trans on)
        · exact Bool.noConfusion (unsent.symm.trans sent)
        · exact Nat.not_lt.2 lower (older g mem ready)
        · exact Nat.not_le.2 lower (younger g mem ready)
      · rfl
    · refine event_eq awake (effect := State.holdBackExpiry p) (ends.trans ?_) awake.2.1
      have line := State.advance_line_of_no_attempt dt free
      have eligible : ({ e with holdBack := none } : Entry).eligible s.start.state = true :=
        (Entry.eligible_iff _ _).2 ⟨off, rfl, sent⟩
      have may : ({ s.advance dt with
          queue := { s.queue with entries := before ++ { e with holdBack := none } :: after } } : State).mayBegin =
          true := (State.mayBegin_iff _).2 (by dsimp only; rw [line]; exact ⟨idle, waiting, clear⟩)
      have chosen := bestEligible_of 0 eligible older younger
      rw [Nat.zero_add] at chosen
      refine (State.beginAt_of_chosen may chosen).trans ?_
      rw [State.beginWith_eq]
      dsimp only
      rw [line, TxKept.modifyAt_append]
      rfl

end Sys2Proof.Machine
end

section
/-! PROOFS. What an outcome does at its producer: O20. -/

namespace Sys2Proof.Machine

/-! ### Delivered triples (R71) -/

/-- A record after triples of its channel have been delivered. -/
def Record.afterDelivery (ts : List Triple) (c : Chan) : Record → Record
  | .home h =>
    .home { h with dirty := h.dirty && !(ts.any fun x => x.chan == c && x.version == h.version) }
  | r => r

theorem Record.afterDelivery_nil (c : Chan) (r : Record) : r.afterDelivery [] c = r := by
  cases r with
  | home h => exact congrArg (fun d => Record.home { h with dirty := d }) (Bool.and_true _)
  | unused => rfl
  | mirror m => rfl

theorem Record.afterDelivery_append (ts us : List Triple) (c : Chan) (r : Record) :
    (r.afterDelivery ts c).afterDelivery us c = r.afterDelivery (ts ++ us) c := by
  cases r with
  | home h =>
    refine congrArg (fun d => Record.home { h with dirty := d }) ?_
    dsimp only
    rw [List.any_append, Bool.not_or, Bool.and_assoc]
  | unused => rfl
  | mirror m => rfl

theorem HomeRec.delivered_eq (h : HomeRec) (v : Version) :
    h.delivered v = { h with dirty := h.dirty && !(v == h.version) } := by
  rw [HomeRec.delivered]
  by_cases held : h.version = v
  · rw [if_pos held, held, beq_self_eq_true, Bool.not_true, Bool.and_false]
  · rw [if_neg held, beq_eq_false_iff_ne.2 (Ne.symm held), Bool.not_false, Bool.and_true]

theorem State.modifyHome_records (s : State) (c : Chan) (f : HomeRec → HomeRec) :
    ∃ v, s.modifyHome c f = { s with channels := { s.channels with records := v } } := by
  unfold State.modifyHome
  split
  · exact ⟨_, rfl⟩
  · exact ⟨s.channels.records, rfl⟩

theorem State.modifyHome_of_home {s : State} {c : Chan} {h : HomeRec} (home : s.chan c = .home h)
    (f : HomeRec → HomeRec) : s.modifyHome c f = s.setChan c (.home (f h)) := by
  rw [State.modifyHome, home]

theorem State.chan_modifyHome (s : State) (c d : Chan) (f : HomeRec → HomeRec) :
    (s.modifyHome c f).chan d =
      match s.chan d with
      | .home h => if c = d then .home (f h) else .home h
      | r => r := by
  unfold State.modifyHome
  by_cases same : c = d
  · subst same
    cases hr : s.chan c with
    | home h => simp
    | unused => exact hr
    | mirror m => exact hr
  · cases s.chan c with
    | home h =>
      rw [State.chan_setChan_ne s _ (Ne.symm same)]
      cases s.chan d <;> simp [same]
    | unused => cases s.chan d <;> simp [same]
    | mirror m => cases s.chan d <;> simp [same]

theorem State.chan_clearDirty (s : State) (t : Triple) (c : Chan) :
    (s.clearDirty t).chan c = (s.chan c).afterDelivery [t] c := by
  rw [State.clearDirty, State.chan_modifyHome]
  cases s.chan c with
  | home h =>
    by_cases same : t.chan = c
    · simp [Record.afterDelivery, same, HomeRec.delivered_eq]
    · simp [Record.afterDelivery, same, beq_eq_false_iff_ne.2 same]
  | unused => rfl
  | mirror m => rfl

theorem State.clearDirtyAll_records (ts : List Triple) (s : State) :
    ∃ v, s.clearDirtyAll ts = { s with channels := { s.channels with records := v } } := by
  induction ts generalizing s with
  | nil => exact ⟨s.channels.records, rfl⟩
  | cons t ts ih =>
    obtain ⟨v, hv⟩ := s.modifyHome_records t.chan fun h => h.delivered t.version
    obtain ⟨w, hw⟩ := ih (s.clearDirty t)
    refine ⟨w, hw.trans ?_⟩
    rw [State.clearDirty, hv]

theorem State.chan_clearDirtyAll (ts : List Triple) (s : State) (c : Chan) :
    (s.clearDirtyAll ts).chan c = (s.chan c).afterDelivery ts c := by
  induction ts generalizing s with
  | nil => exact ((s.chan c).afterDelivery_nil c).symm
  | cons t ts ih => exact (ih (s.clearDirty t)).trans (by rw [State.chan_clearDirty, Record.afterDelivery_append]; rfl)

/-! ### Outcomes by content (Table 2-4) -/

section

variable (s : State) {e : Entry}

theorem State.tellProducer_fetch {cs : List Chan} (h : e.content = .fetch cs) (o : Outcome) :
    s.tellProducer e o = s.fetchEnded e.destination := by
  unfold State.tellProducer
  rw [h]

theorem State.tellProducer_recall {cs : List Chan} (h : e.content = .recall cs) (o : Outcome) :
    s.tellProducer e o = s.recallEnded := by
  unfold State.tellProducer
  rw [h]

theorem State.tellProducer_state {cs : List Chan} (h : e.content = .state cs) (o : Outcome) :
    s.tellProducer e o = if o = .delivered then s.clearDirtyAll e.carried.all else s := by
  unfold State.tellProducer
  rw [h]
  cases o <;> rfl

theorem State.tellProducer_reply {bs : List Byte} (h : e.content = .reply bs) (o : Outcome) :
    s.tellProducer e o = s := by
  unfold State.tellProducer
  rw [h]

theorem State.tellProducer_change_delivered {x : Triple} {ps : List Pair} (h : e.content = .change x ps) :
    s.tellProducer e .delivered = s.clearDirtyAll e.carried.all := by
  unfold State.tellProducer
  rw [h]

theorem State.tellProducer_change_failed {x : Triple} {ps : List Pair} (h : e.content = .change x ps) :
    s.tellProducer e .failed = s.changeFailed x.chan := by
  unfold State.tellProducer
  rw [h]

theorem State.tellProducer_announce_delivered (h : e.content = .announce) :
    s.tellProducer e .delivered = s.announceDelivered e.carried := by
  unfold State.tellProducer
  rw [h]

theorem State.tellProducer_announce_failed (h : e.content = .announce) : s.tellProducer e .failed = s := by
  unfold State.tellProducer
  rw [h]

variable {tag : Byte} {c : Chan} {op : Op} {x : Byte}

theorem State.tellProducer_request_delivered (h : e.content = .request tag c op x) :
    s.tellProducer e .delivered = s.requestSent tag := by
  unfold State.tellProducer
  rw [h]

theorem State.tellProducer_request_declined (h : e.content = .request tag c op x) :
    s.tellProducer e .declined = s.endRequest tag .declined := by
  unfold State.tellProducer
  rw [h]

theorem State.tellProducer_request_failed (h : e.content = .request tag c op x) :
    s.tellProducer e .failed = s.endRequest tag .unreachable := by
  unfold State.tellProducer
  rw [h]

end

/-- Settles O20. -/
theorem outcomesReachProducers : Obligations.OutcomesReachProducers := by
  intro s e o
  refine ⟨fun cs fetch => s.tellProducer_fetch fetch o, fun cs collects => s.tellProducer_recall collects o,
    fun cs state => ⟨fun other => ?_, fun delivered => ?_⟩, ?_⟩
  · rw [s.tellProducer_state state, if_neg other]
  · have tells : s.tellProducer e o = s.clearDirtyAll e.carried.all := by
      rw [s.tellProducer_state state, if_pos delivered]
    obtain ⟨v, hv⟩ := s.clearDirtyAll_records e.carried.all
    refine ⟨v, tells.trans hv, fun c => ?_⟩
    have chan := s.chan_clearDirtyAll e.carried.all c
    rw [hv] at chan
    refine Eq.trans chan ?_
    cases s.chan c <;> rfl
  · rintro (⟨j, cs, reply⟩ | ⟨bs, reply⟩)
    · exact s.tellProducer_recallReply (by rw [reply]; rfl) o
    · exact s.tellProducer_reply reply o

end Sys2Proof.Machine
end

section
/-! PROOFS. The answer window, and what its outcome does: O18 and O19. -/

namespace Sys2Proof.Machine

/-! ### The answer window (R17, R19) -/

section

variable {s : State} {a : Attempt}

/-- The edge of the third slot. -/
def Attempt.third (a : Attempt) : Time := a.start + (42 + 8 * a.frame.body.length) * 100

theorem Attempt.edge_slots (a : Attempt) :
    a.edge a.frame.bitCount = a.third - 200 ∧ a.edge (a.frame.bitCount + 1) = a.third - 100
      ∧ a.edge (a.frame.bitCount + 2) = a.third := by
  have slots (t n : Nat) : t + (40 + 8 * n) * 100 = t + (42 + 8 * n) * 100 - 200
      ∧ t + (40 + 8 * n + 1) * 100 = t + (42 + 8 * n) * 100 - 100
      ∧ t + (40 + 8 * n + 2) * 100 = t + (42 + 8 * n) * 100 := by omega
  exact slots a.start a.frame.body.length

/-- The line is dominant 25 µs after an edge: from it, or by another station behind it (R2). -/
def Attempt.zero (a : Attempt) (edge low : Time) : Prop :=
  50 < low ∨ ∃ p ∈ a.heard, p.start ≤ edge + 50 ∧ edge + 50 < p.stop

theorem Attempt.asserted_iff (a : Attempt) (slot : Nat) (low : Time) :
    a.asserted slot low = true ↔ a.zero (a.edge (a.frame.bitCount + slot)) low := by
  rw [Attempt.asserted, Bool.not_eq_true', Attempt.reads_eq_false_iff]
  rfl

theorem Attempt.windowEnd_eq (a : Attempt) : a.windowEnd = a.third + 100 := by
  have slots (t n : Nat) : t + (40 + 8 * n + 3) * 100 = t + (42 + 8 * n) * 100 + 100 := by omega
  exact slots a.start a.frame.body.length

theorem Attempt.windowHeld_eq (a : Attempt) (w : Wire) (taken declined garbled : Time) :
    a.windowHeld w taken declined garbled =
      ((w.held a.third garbled).held (a.third - 100) declined).held (a.third - 200) taken := by
  obtain ⟨first, second, third⟩ := a.edge_slots
  rw [Attempt.windowHeld, first, second, third]

/-- The Line Unit behind an answer window, with the entries left (R5). -/
def State.windowEnded (s : State) (a : Attempt) (dt : Moment) (taken declined garbled : Time)
    (entries : List Entry) : State :=
  { s.advance dt with
    queue := { s.queue with entries := entries }
    line :=
      { s.line with
        activity := .reading, attempt := none, reception := none
        wire :=
          (((s.advance dt).line.wire.held a.third garbled).held (a.third - 100) declined).held (a.third - 200)
            taken } }

/-- The window is read at its end, and the attempt handed back with its outcome. -/
theorem State.windowRead_advance (dt : Moment) (taken declined garbled : Time) (sends : s.line.attempt = some a)
    (past : a.third + 100 ≤ s.now + dt.after) {o : Outcome}
    (outcome : outcomeOf a.frame.destination (a.asserted 0 taken) (a.asserted 1 declined) (a.asserted 2 garbled) = o) :
    (s.advance dt).windowRead taken declined garbled =
      ((s.windowEnded a dt taken declined garbled s.queue.entries).countOutcome o).handBack (.ended o) := by
  have line := State.advance_line_attempt dt sends
  rw [State.windowRead, show (s.advance dt).line.attempt = some a by rw [line]; exact sends]
  dsimp only
  rw [if_pos (by rw [Attempt.windowEnd_eq]; exact past), outcome, Attempt.windowHeld_eq]
  have ended : ((s.advance dt).setLine
      { (s.advance dt).line with
        activity := .reading, attempt := none, reception := none
        wire :=
          (((s.advance dt).line.wire.held a.third garbled).held (a.third - 100) declined).held (a.third - 200)
            taken }) = s.windowEnded a dt taken declined garbled s.queue.entries := by
    rw [State.windowEnded, line]
    rfl
  rw [← ended]
  cases o <;> rfl

variable {before after : List Entry} {e : Entry} {dt : Moment} {taken declined garbled : Time} {o : Outcome}

/-- The window is read and the entry leaves the queue. -/
theorem exec_answerWindowRead_leaves (awake : s.Awake) (sends : s.line.attempt = some a)
    (past : a.third + 100 ≤ s.now + dt.after) (queued : s.Sends before e after)
    (outcome : outcomeOf a.frame.destination (a.asserted 0 taken) (a.asserted 1 declined) (a.asserted 2 garbled) = o)
    (last : o = .failed → e.attempts = 3) :
    exec (.answerWindowRead dt taken declined garbled) s =
      .next
        ((((s.windowEnded a dt taken declined garbled (before ++ after)).countOutcome o).tellProducer e
          o).grantOccasion.settle) := by
  refine (awake.event dt (State.windowRead taken declined garbled)).trans ?_
  rw [State.windowRead_advance dt taken declined garbled sends past outcome]
  have sent : ((s.windowEnded a dt taken declined garbled s.queue.entries).countOutcome o).Sends before e after := by
    cases o <;> exact queued
  rw [State.handBack_leaves sent last]
  cases o <;> rfl

/-- A failed attempt that is not the fourth holds the entry back. -/
theorem exec_answerWindowRead_retries (awake : s.Awake) (sends : s.line.attempt = some a)
    (past : a.third + 100 ≤ s.now + dt.after) (queued : s.Sends before e after)
    (outcome : outcomeOf a.frame.destination (a.asserted 0 taken) (a.asserted 1 declined) (a.asserted 2 garbled) =
      .failed)
    (more : e.attempts < 3) :
    exec (.answerWindowRead dt taken declined garbled) s =
      .next
        ((s.windowEnded a dt taken declined garbled
          (before ++
            { e with
              onLine := false, carried := Carried.none, attempts := e.attempts + 1
              holdBack := some (s.now + dt.after + 20 * ms) } :: after)).bump .attemptsFailed) := by
  refine event_eq awake (effect := State.windowRead taken declined garbled) ?_ awake.2.1
  rw [State.windowRead_advance dt taken declined garbled sends past outcome]
  exact State.handBack_failed queued more

end

/-! ### A broadcast (R19, R71 to R74, R109) -/

theorem outcomeOf_broadcast_failed {garbled : Bool} (taken declined : Bool) (h : garbled = true) :
    outcomeOf 0 taken declined garbled = .failed := by
  subst h
  rfl

theorem outcomeOf_broadcast_delivered {garbled : Bool} (taken declined : Bool) (h : ¬ garbled = true) :
    outcomeOf 0 taken declined garbled = .delivered := by
  rw [outcomeOf, if_pos rfl, if_neg h]

theorem headD_filter_append {α : Type} (p : α → Bool) (l : List α) (d : α) :
    (l.filter p ++ l).headD d = match l.find? p with
      | some c => c
      | none => l.headD d := by
  rw [← List.head?_filter]
  cases l.filter p <;> rfl

theorem State.homeAfter_eq (s : State) (c : Chan) :
    s.homeAfter c = ((s.homeChans.filter fun d => decide (c < d)) ++ s.homeChans).headD c := by
  rw [headD_filter_append, State.homeAfter]
  cases s.homeChans.find? fun d => decide (c < d) <;> rfl

theorem Record.isHome_afterDelivery (ts : List Triple) (c : Chan) (r : Record) :
    (r.afterDelivery ts c).isHome = r.isHome := by
  cases r <;> rfl

/-- A delivered ANNOUNCE, field by field (R74). -/
theorem State.announceDelivered_spec (s : State) (c : Carried) :
    ∃ v, s.announceDelivered c =
        { s with
          channels :=
            { records := v
              cursor :=
                match c.byTurn.getLast? with
                | none => s.channels.cursor
                | some x =>
                  ((s.homeChans.filter fun d => decide (x.chan < d)) ++ s.homeChans).headD x.chan } }
      ∧ ∀ d : Chan, v[d] = (s.chan d).afterDelivery c.all d := by
  obtain ⟨v, hv⟩ := s.clearDirtyAll_records c.all
  have chan (d : Chan) : (s.clearDirtyAll c.all).chan d = (s.chan d).afterDelivery c.all d :=
    s.chan_clearDirtyAll c.all d
  have homes : (s.clearDirtyAll c.all).homeChans = s.homeChans :=
    State.homeChans_congr fun d => by rw [chan, Record.isHome_afterDelivery]
  refine ⟨v, ?_, fun d => ?_⟩
  · unfold State.announceDelivered
    cases c.byTurn.getLast? with
    | none => exact hv
    | some x =>
      dsimp only
      rw [State.homeAfter_eq, homes, hv]
  · rw [← chan, hv]
    rfl

/-- Where nobody waits, a departure notice grants nothing (R95). -/
theorem next_of_quiet {t : State} (waits : t.NoneWaits) (free : t.rival = 0) (kept : t.queue.evicted = false) :
    (Host.Outcome.next t.grantOccasion.settle : Result) = .next t := by
  rw [State.grantOccasion_of_none waits (State.behind_of_no_rival free), State.settle_of_not_evicted kept]

/-- Settles O18. -/
theorem changeIsDeliveredOrFails : Obligations.ChangeIsDeliveredOrFails := by
  intro s dt taken declined garbled a before e after third zero held wire ended awake sends broadcast past queued
  have slot : a.asserted 2 garbled = true ↔ zero third garbled := by
    rw [Attempt.asserted_iff, a.edge_slots.2.2]
    rfl
  have failed (z : zero third garbled) :
      outcomeOf a.frame.destination (a.asserted 0 taken) (a.asserted 1 declined) (a.asserted 2 garbled) = .failed := by
    rw [broadcast]
    exact outcomeOf_broadcast_failed _ _ (slot.2 z)
  have delivered (z : ¬zero third garbled) :
      outcomeOf a.frame.destination (a.asserted 0 taken) (a.asserted 1 declined) (a.asserted 2 garbled) =
        .delivered := by
    rw [broadcast]
    exact outcomeOf_broadcast_delivered _ _ (slot.not.2 z)
  have leavesFailed (z : zero third garbled) (last : e.attempts = 3) :=
    exec_answerWindowRead_leaves awake sends past queued (failed z) fun _ => last
  have leavesDelivered (z : ¬zero third garbled) :=
    exec_answerWindowRead_leaves awake sends past queued (delivered z) nofun
  refine ⟨fun z more => ?_, fun z => ?_, fun z last => ?_, fun waits cs content counter which => ?_,
    fun waits x ps h content carried home => ⟨fun z => ?_, fun z last => ?_⟩,
    fun waits content => ⟨fun z last => ?_, fun z => ?_⟩⟩
  · exact exec_answerWindowRead_retries awake sends past queued (failed z) more
  · exact leavesDelivered z
  · exact leavesFailed z last
  · rcases which with ⟨z, rfl⟩ | ⟨z, last, rfl⟩
    · refine (leavesDelivered z).trans ?_
      rw [State.tellProducer_recall _ content]
      exact next_of_quiet waits awake.2.2.1 awake.2.1
    · refine (leavesFailed z last).trans ?_
      rw [State.tellProducer_recall _ content]
      exact next_of_quiet waits awake.2.2.1 awake.2.1
  · refine (leavesDelivered z).trans ?_
    rw [State.tellProducer_change_delivered _ content, carried]
    have told (u : State) (h' : u.chan x.chan = .home h) :
        u.clearDirtyAll ({ fixed := [x], byTurn := [] } : Carried).all =
          u.setChan x.chan (.home (h.delivered x.version)) := State.modifyHome_of_home h' _
    rw [told ((s.windowEnded a dt taken declined garbled (before ++ after)).countOutcome .delivered) home]
    exact next_of_quiet waits awake.2.2.1 awake.2.1
  · refine (leavesFailed z last).trans ?_
    rw [State.tellProducer_change_failed _ content, State.changeFailed,
      State.modifyHome_of_home (s := (s.windowEnded a dt taken declined garbled (before ++ after)).countOutcome .failed)
        home]
    exact next_of_quiet waits awake.2.2.1 awake.2.1
  · refine (leavesFailed z last).trans ?_
    rw [State.tellProducer_announce_failed _ content]
    exact next_of_quiet waits awake.2.2.1 awake.2.1
  · obtain ⟨v, he, hv⟩ :=
      ((s.windowEnded a dt taken declined garbled (before ++ after)).countOutcome .delivered).announceDelivered_spec
        e.carried
    refine ⟨((s.windowEnded a dt taken declined garbled (before ++ after)).countOutcome .delivered).announceDelivered
      e.carried, (leavesDelivered z).trans ?_, ?_, fun c => ?_, ?_⟩
    · rw [State.tellProducer_announce_delivered _ content]
      exact next_of_quiet (by rw [he]; exact waits) (by rw [he]; exact awake.2.2.1) (by rw [he]; exact awake.2.1)
    · rw [he]
      rfl
    · rw [he]
      refine (hv c).trans ?_
      show (s.chan c).afterDelivery _ c = _
      cases s.chan c <;> rfl
    · rw [he]
      cases e.carried.byTurn.getLast? <;> rfl

/-! ### An addressed frame (R19, R84, R90) -/

theorem outcomeOf_addressed {d : Addr} (addressed : d ≠ 0) (taken declined garbled : Bool) :
    outcomeOf d taken declined garbled =
      if taken then .delivered else if declined then .declined else .failed :=
  if_neg addressed

theorem ReqEntry.filter_tag {r : ReqEntry} {r1 r2 : List ReqEntry}
    (other : ∀ r' ∈ r1 ++ r2, r'.tag ≠ r.tag) :
    (r1 ++ r :: r2).filter (fun e => e.tag != r.tag) = r1 ++ r2 := by
  rw [List.filter_append, List.filter_cons_of_neg (by simp), ← List.filter_append]
  exact List.filter_eq_self.2 fun e he => bne_iff_ne.2 (other e he)

theorem ReqEntry.find?_tag {r : ReqEntry} {r1 : List ReqEntry} (r2 : List ReqEntry)
    (other : ∀ r' ∈ r1, r'.tag ≠ r.tag) :
    (r1 ++ r :: r2).find? (fun e => e.tag == r.tag) = some r := by
  rw [List.find?_append, List.find?_eq_none.2 fun e he => by simpa using other e he, Option.none_or,
    List.find?_cons_of_pos (by simp)]

theorem ReqEntry.modifyFirst_tag (f : ReqEntry → ReqEntry) {r : ReqEntry} {r1 : List ReqEntry}
    (r2 : List ReqEntry) (other : ∀ r' ∈ r1, r'.tag ≠ r.tag) :
    modifyFirst (fun e => e.tag == r.tag) f (r1 ++ r :: r2) = r1 ++ f r :: r2 := by
  induction r1 with
  | nil => exact if_pos (beq_self_eq_true _)
  | cons a r1 ih =>
    refine (if_neg ?_).trans (congrArg (a :: ·) (ih fun e he => other e (List.mem_cons_of_mem _ he)))
    simpa using other a List.mem_cons_self

/-- Where nobody waits, an entry that ends is withdrawn if it has to be, leaves the table, and is concluded
(R90). -/
theorem State.endRequest_eq {s w : State} {tag : Byte} {r : ReqEntry} {o : ReqOutcome}
    (found : s.requestOf tag = some r)
    (withdrawn : (if r.state = .queued ∧ o.withdraws = true then s.withdrawRequest tag else s) = w)
    (waits : w.NoneWaits) (free : w.rival = 0) :
    s.endRequest tag o = (w.removeRequest tag).conclude r o := by
  have same : r.tag = tag := beq_iff_eq.1 (List.find?_some found :)
  have removed : (w.removeRequest tag).grantOccasion = w.removeRequest tag :=
    State.grantOccasion_of_none waits (State.behind_of_no_rival free)
  rw [State.endRequest, found]
  dsimp only
  rw [withdrawn, State.thenDo_of_no_rival free, State.finish, same, removed,
    State.thenDo_of_no_rival (s := w.removeRequest tag) free]

/-- A binding's request whose REQUEST is no longer in the queue ends: it leaves the table, counted and
flashed (R90, R91). -/
theorem State.endRequest_of_binding {s : State} {tag : Byte} {r : ReqEntry} {o : ReqOutcome}
    (found : s.requestOf tag = some r) (binding : r.origin = .binding) (unconfirmed : o ≠ .confirmed)
    (stays : ¬(r.state = .queued ∧ o.withdraws = true)) (waits : s.NoneWaits) (free : s.rival = 0) :
    s.endRequest tag o =
      ({ s with requests := { s.requests with entries := s.requests.entries.filter fun e => e.tag != tag } } :
        State).requestFailed r.chan := by
  rw [State.endRequest_eq found (if_neg stays) waits free, State.conclude, if_neg unconfirmed, State.routeOutcome,
    binding]
  rfl

/-- Settles O19. -/
theorem requestIsDelivered : Obligations.RequestIsDelivered := by
  intro s dt taken declined garbled a before e after third zero held wire ended awake sends addressed past queued
  have first : a.asserted 0 taken = true ↔ zero (third - 200) taken := by
    rw [Attempt.asserted_iff, Nat.add_zero, a.edge_slots.1]
    rfl
  have second : a.asserted 1 declined = true ↔ zero (third - 100) declined := by
    rw [Attempt.asserted_iff, a.edge_slots.2.1]
    rfl
  have delivered (z : zero (third - 200) taken) :
      outcomeOf a.frame.destination (a.asserted 0 taken) (a.asserted 1 declined) (a.asserted 2 garbled) =
        .delivered := by
    rw [outcomeOf_addressed addressed, if_pos (first.2 z)]
  have refused (z : ¬zero (third - 200) taken) (d : zero (third - 100) declined) :
      outcomeOf a.frame.destination (a.asserted 0 taken) (a.asserted 1 declined) (a.asserted 2 garbled) =
        .declined := by
    rw [outcomeOf_addressed addressed, if_neg (first.not.2 z), if_pos (second.2 d)]
  have failed (z : ¬zero (third - 200) taken) (d : ¬zero (third - 100) declined) :
      outcomeOf a.frame.destination (a.asserted 0 taken) (a.asserted 1 declined) (a.asserted 2 garbled) = .failed := by
    rw [outcomeOf_addressed addressed, if_neg (first.not.2 z), if_neg (second.not.2 d)]
  have leavesDelivered (z : zero (third - 200) taken) :=
    exec_answerWindowRead_leaves awake sends past queued (delivered z) nofun
  have leavesRefused (z : ¬zero (third - 200) taken) (d : zero (third - 100) declined) :=
    exec_answerWindowRead_leaves awake sends past queued (refused z d) nofun
  have leavesFailed (z : ¬zero (third - 200) taken) (d : ¬zero (third - 100) declined) (last : e.attempts = 3) :=
    exec_answerWindowRead_leaves awake sends past queued (failed z d) fun _ => last
  refine ⟨fun z d more => exec_answerWindowRead_retries awake sends past queued (failed z d) more,
    leavesDelivered, leavesRefused, leavesFailed, ?_⟩
  intro tag c op x r1 r r2 content entries tag_eq other waits left
  subst tag_eq
  have found : s.requestOf r.tag = some r := by
    rw [State.requestOf, entries]
    exact ReqEntry.find?_tag r2 fun r' h => other r' (List.mem_append_left _ h)
  have rest := ReqEntry.filter_tag other
  rw [← entries] at rest
  have fails (u : State) (same : u.requests = s.requests) (free : u.rival = 0) (kept : u.queue.evicted = false)
      (o : ReqOutcome) (unconfirmed : o ≠ .confirmed) (stays : ¬(r.state = .queued ∧ o.withdraws = true))
      (binding : r.origin = .binding) :
      (Host.Outcome.next (u.endRequest r.tag o).grantOccasion.settle : Result) =
        .next (({ u with requests := { s.requests with entries := r1 ++ r2 } } : State).requestFailed r.chan) := by
    have none : u.NoneWaits := by rw [State.NoneWaits, same]; exact waits
    rw [State.endRequest_of_binding (by rw [State.requestOf, same]; exact found) binding unconfirmed stays none free,
      same, rest]
    exact next_of_quiet waits free kept
  refine ⟨fun z => ?_, fun binding z d => ?_, fun binding z d last => ?_⟩
  · refine (leavesDelivered z).trans ?_
    rw [State.tellProducer_request_delivered _ content]
    refine (next_of_quiet (t := ((ended (before ++ after)).bump .framesDelivered).requestSent r.tag) waits awake.2.2.1 awake.2.1).trans ?_
    have sent := ReqEntry.modifyFirst_tag (fun e => { e with state := .sent (s.now + dt.after + confirmTime) }) r2
      (fun r' h => other r' (List.mem_append_left r2 h))
    rw [← entries] at sent
    exact congrArg (fun es => Host.Outcome.next
      { (ended (before ++ after)).bump .framesDelivered with requests := { s.requests with entries := es } }) sent
  · refine (leavesRefused z d).trans ?_
    rw [State.tellProducer_request_declined _ content]
    exact fails (ended (before ++ after)) rfl awake.2.2.1 awake.2.1 .declined nofun (nomatch ·.2) binding
  · refine (leavesFailed z d last).trans ?_
    rw [State.tellProducer_request_failed _ content]
    exact fails ((ended (before ++ after)).bump .attemptsFailed) rfl awake.2.2.1 awake.2.1 .unreachable nofun (nomatch ·.2) binding

end Sys2Proof.Machine
end

section
/-! PROOFS. A line that becomes STUCK: O21. -/

namespace Sys2Proof.Machine

theorem PendingRestart.stuck_eq (now : Time) (r : PendingRestart) :
    r.stuck now =
      match r with
      | .atTime t => if now < t then .atIdle else .atTime t
      | r => r := by
  cases r <;> rfl

/-- The Line Unit and the counters as the line becomes STUCK (R4, R176). -/
def State.stuckLine (s : State) : State :=
  { s with
    line := s.line.stuck s.now
    service :=
      { counters := s.service.counters.inc .lineStuckEvents, restart := s.service.restart.stuck s.now } }

theorem Wire.stuck_iff (w : Wire) (now : Time) :
    w.stuck now = true ↔ w.edge + 20 * 100 ≤ now ∧ w.edge + 20 * 100 < w.freed :=
  decide_eq_true_iff

theorem State.lineStuck_of_stuck {s : State} (busy : s.line.condition = .busy)
    (stuck : s.line.wire.stuck s.now = true) :
    s.lineStuck =
      if s.line.attempt = none then s.stuckLine
      else (s.stuckLine.bump .attemptsFailed).endAttempt .ignoring none s.stuckLine.line.wire (.ended .failed) :=
  if_pos ⟨busy, stuck⟩

/-- Settles O21. -/
theorem lineBecomesStuck : Obligations.LineBecomesStuck := by
  intro s dt now w freed stuck awake
  refine ⟨fun busy lasted goes => ?_, fun other => ?_⟩
  · have run : (s.advance dt).line.wire.stuck (s.advance dt).now = true := (Wire.stuck_iff _ _).2 ⟨lasted, goes⟩
    have begins := State.lineStuck_of_stuck (s := s.advance dt) ((s.advance_condition dt).trans busy) run
    refine ⟨fun free => ?_, ?_⟩
    · have line := State.advance_line_of_no_attempt dt free
      have attempt : (s.advance dt).line.attempt = none := by rw [line, free]
      have activity : (s.advance dt).line.activity = s.line.activity := by rw [line]
      rw [attempt, if_pos rfl, State.stuckLine, PendingRestart.stuck_eq, LineUnit.stuck, attempt, activity] at begins
      exact event_eq awake (effect := State.lineStuck) begins awake.2.1
    · intro a before e after sends queued counters
      have line := State.advance_line_attempt dt sends
      have attempt : (s.advance dt).line.attempt = some a := by rw [line]; exact sends
      rw [attempt, if_neg nofun, State.stuckLine, PendingRestart.stuck_eq] at begins
      have ended : (s.advance dt).lineStuck = (stuck .ignoring s.queue.entries counters).handBack (.ended .failed) :=
        begins
      refine ⟨fun more => ?_, fun last => ?_⟩
      · exact event_eq awake (effect := State.lineStuck) (ended.trans (State.handBack_failed queued more)) awake.2.1
      · refine (awake.event dt State.lineStuck).trans ?_
        rw [ended]
        exact congrArg (fun t => Host.Outcome.next t.settle) 
          (State.handBack_leaves (s := stuck .ignoring s.queue.entries counters) queued fun _ => last)
  · refine event_eq awake (effect := State.lineStuck) (if_neg fun h => ?_) awake.2.1
    obtain ⟨busy, run⟩ := h
    obtain ⟨lasted, goes⟩ := (Wire.stuck_iff _ _).1 run
    rcases other with other | short | ends
    · exact other ((s.advance_condition dt).symm.trans busy)
    · exact Nat.not_le.2 short lasted
    · exact Nat.not_le.2 goes ends

end Sys2Proof.Machine
end

section
/-! PROOFS. Admission, eviction, coalescing, the attempt that an offer begins, and withdrawal: O22. -/

namespace Sys2Proof.Machine

/-! ### Lists -/

theorem removeLast_eq_none {α : Type} {p : α → Bool} {l : List α} (h : ∀ a ∈ l, p a = false) :
    removeLast p l = none := by
  induction l with
  | nil => rfl
  | cons a l ih =>
    rw [removeLast, ih fun b hb => h b (List.mem_cons_of_mem _ hb)]
    exact if_neg (by rw [h a List.mem_cons_self]; exact nofun)

theorem removeLast_of_last {α : Type} {p : α → Bool} (before : List α) {a : α} {after : List α} (ha : p a = true)
    (last : ∀ b ∈ after, p b = false) : removeLast p (before ++ a :: after) = some (before ++ after) := by
  induction before with
  | nil =>
    rw [List.nil_append, removeLast, removeLast_eq_none last]
    exact if_pos ha
  | cons b before ih => rw [List.cons_append, removeLast, ih]; rfl

theorem modifyLast_of_last {α : Type} {p : α → Bool} (f : α → α) (before : List α) {a : α} {after : List α}
    (ha : p a = true) (last : ∀ b ∈ after, p b = false) :
    modifyLast p f (before ++ a :: after) = before ++ f a :: after := by
  induction before with
  | nil =>
    have none : after.any p = false := by
      rw [List.any_eq_false]
      exact fun b hb => by rw [last b hb]; exact nofun
    exact if_pos (by rw [none, ha]; rfl)
  | cons b before ih =>
    have some : (before ++ a :: after).any p = true := List.any_eq_true.2 ⟨a, by simp, ha⟩
    have later : ¬(!(before ++ a :: after).any p && p b) = true := by rw [some]; exact nofun
    exact (if_neg later).trans (congrArg (b :: ·) ih)

/-! ### Admission and eviction (R22, R23, R24) -/

section

variable {q : TxQueue} {c : Content} {dest : Addr}

theorem Entry.lowClass_iff (e : Entry) : e.lowClass = true ↔ e.content.cls = 3 ∧ e.onLine = false := by
  rw [Entry.lowClass, Bool.and_eq_true, beq_iff_eq, Bool.not_eq_true']

theorem Entry.idleAnnounce_iff (e : Entry) :
    e.idleAnnounce = true ↔ e.content.isAnnounce = true ∧ e.onLine = false := by
  rw [Entry.idleAnnounce, Bool.and_eq_true, Bool.not_eq_true']

theorem TxQueue.evict_of_lowClass {before after : List Entry} {e : Entry} (split : q.entries = before ++ e :: after)
    (low : e.lowClass = true) (last : ∀ f ∈ after, f.lowClass = false) :
    q.evict = some { entries := before ++ after, evicted := true } := by
  rw [TxQueue.evict, split, removeLast_of_last before low last]

theorem TxQueue.evict_of_announce {before after : List Entry} {e : Entry} (split : q.entries = before ++ e :: after)
    (high : ∀ f ∈ q.entries, f.lowClass = false) (idle : e.idleAnnounce = true)
    (last : ∀ f ∈ after, f.idleAnnounce = false) :
    q.evict = some { entries := before ++ after, evicted := true } := by
  rw [TxQueue.evict, removeLast_eq_none high, split, removeLast_of_last before idle last]

theorem TxQueue.evict_of_none (high : ∀ f ∈ q.entries, f.lowClass = false)
    (busy : ∀ f ∈ q.entries, f.idleAnnounce = false) : q.evict = none := by
  rw [TxQueue.evict, removeLast_eq_none high, removeLast_eq_none busy]

theorem TxQueue.room_eq (q : TxQueue) (cls : Nat) :
    q.room cls =
      12 - q.entries.length
        + (if cls ≤ 1 then
            q.entries.countP (fun e => e.content.cls == 3 && !e.onLine)
              + if q.entries.any (fun e => e.content.isAnnounce && !e.onLine) then 1 else 0
          else 0) := by
  unfold TxQueue.room
  by_cases high : cls ≤ 1
  · rw [if_pos high, if_pos high, ← Nat.add_assoc]
    rfl
  · rw [if_neg high, if_neg high]
    rfl

theorem TxQueue.not_free (full : 12 ≤ q.entries.length) : ¬q.entries.length < queueSize :=
  Nat.not_lt.2 full

theorem TxQueue.placeNew_of_class (full : 12 ≤ q.entries.length) (low : 2 ≤ c.cls) :
    q.placeNew c dest = (.refused, q) := by
  rw [TxQueue.placeNew, if_neg (TxQueue.not_free full), if_neg (by omega)]

theorem TxQueue.placeNew_of_evict (full : 12 ≤ q.entries.length) (high : c.cls ≤ 1) {q' : TxQueue}
    (evicts : q.evict = some q') : q.placeNew c dest = (.admitted, q'.join (Entry.new c dest)) := by
  rw [TxQueue.placeNew, if_neg (TxQueue.not_free full), if_pos high, evicts]

theorem TxQueue.placeNew_of_no_room (full : 12 ≤ q.entries.length) (room : q.room c.cls = 0) :
    q.placeNew c dest = (.refused, q) := by
  by_cases high : c.cls ≤ 1
  · rw [TxQueue.room_eq, if_pos high] at room
    obtain ⟨-, room⟩ := Nat.add_eq_zero_iff.1 room
    obtain ⟨low, idle⟩ := Nat.add_eq_zero_iff.1 room
    have low : ∀ f ∈ q.entries, ¬f.lowClass = true := List.countP_eq_zero.1 low
    have idle : ∀ f ∈ q.entries, ¬f.idleAnnounce = true := fun f hf h =>
      Nat.one_ne_zero ((if_pos (List.any_eq_true.2 ⟨f, hf, h⟩)).symm.trans idle)
    have none : q.evict = none := TxQueue.evict_of_none (fun f hf => Bool.eq_false_iff.2 (low f hf))
      fun f hf => Bool.eq_false_iff.2 (idle f hf)
    rw [TxQueue.placeNew, if_neg (TxQueue.not_free full), if_pos high, none]
  · exact TxQueue.placeNew_of_class full (by omega)

/-! ### Coalescing (R25) -/

theorem Content.isChangeOf_iff (x : Chan) : c.isChangeOf x = true ↔ ∃ t ps, c = .change t ps ∧ t.chan = x := by
  cases c with
  | change t ps =>
    refine beq_iff_eq.trans ⟨fun h => ⟨t, ps, rfl, h⟩, ?_⟩
    rintro ⟨_, _, h, rfl⟩
    cases h
    rfl
  | _ => exact ⟨nofun, fun ⟨_, _, h, _⟩ => nomatch h⟩

theorem Content.not_changeOf_iff (x : Chan) :
    c.isChangeOf x = false ↔ ∀ y qs, c = .change y qs → y.chan ≠ x := by
  rw [← Bool.not_eq_true, Content.isChangeOf_iff]
  exact ⟨fun h y qs hc hx => h ⟨y, qs, hc, hx⟩, fun h ⟨y, qs, hc, hx⟩ => h y qs hc hx⟩

theorem TxQueue.youngestChange_eq_some_iff (x : Chan) (e : Entry) :
    q.youngestChange x = some e ↔
      ∃ before after, q.entries = before ++ e :: after ∧ e.content.isChangeOf x = true
        ∧ ∀ f ∈ after, f.content.isChangeOf x = false := by
  rw [TxQueue.youngestChange, List.find?_eq_some_iff_append]
  constructor
  · rintro ⟨change, l, r, split, others⟩
    refine ⟨r.reverse, l.reverse, ?_, change, fun f hf => by simpa using others f (List.mem_reverse.1 hf)⟩
    rw [← List.reverse_reverse q.entries, split]
    simp
  · rintro ⟨before, after, split, change, others⟩
    refine ⟨change, after.reverse, before.reverse, ?_, fun f hf => by simpa using others f (List.mem_reverse.1 hf)⟩
    rw [split]
    simp

theorem TxQueue.coalesces_eq_true_iff (x : Chan) (hasPair : Bool) :
    q.coalesces x hasPair = true ↔
      ∃ e, q.youngestChange x = some e ∧ e.onLine = false ∧ (e.content.pairCount < 4 ∨ hasPair = false) := by
  unfold TxQueue.coalesces
  cases q.youngestChange x with
  | none => exact ⟨nofun, fun ⟨_, h, _⟩ => nomatch h⟩
  | some e => simp

theorem TxQueue.changeCanBeHad_iff (x : Chan) :
    q.changeCanBeHad x = true ↔
      1 ≤ q.room 1
        ∨ ∃ before e after y ps, q.entries = before ++ e :: after
          ∧ e.content = .change y ps ∧ y.chan = x ∧ e.onLine = false ∧ ps.length < 4
          ∧ ∀ f ∈ after, ∀ z qs, f.content = .change z qs → z.chan ≠ x := by
  rw [TxQueue.changeCanBeHad, Bool.or_eq_true, decide_eq_true_eq, TxQueue.coalesces_eq_true_iff, or_comm]
  refine or_congr_right ?_
  constructor
  · rintro ⟨e, youngest, off, room⟩
    obtain ⟨before, after, split, change, others⟩ := (TxQueue.youngestChange_eq_some_iff x e).1 youngest
    obtain ⟨y, ps, content, chan⟩ := (Content.isChangeOf_iff x).1 change
    rw [content] at room
    exact ⟨before, e, after, y, ps, split, content, chan, off, room.resolve_right nofun,
      fun f hf => (Content.not_changeOf_iff x).1 (others f hf)⟩
  · rintro ⟨before, e, after, y, ps, split, content, chan, off, room, others⟩
    refine ⟨e, (TxQueue.youngestChange_eq_some_iff x e).2 ⟨before, after, split,
      (Content.isChangeOf_iff x).2 ⟨y, ps, content, chan⟩, fun f hf => (Content.not_changeOf_iff x).2 (others f hf)⟩,
      off, .inl ?_⟩
    rw [content]
    exact room

/-! ### Offers by kind (R22, R25) -/

theorem mayBeSent_iff (st : StationState) :
    mayBeSent st c = true ↔ st = .joining ∨ st = .active ∨ (st = .configFault ∧ c.isReply = true) := by
  cases st <;> simp [mayBeSent]

theorem TxQueue.take_announce :
    q.take .announce dest =
      if q.entries.any (fun e => e.content.isAnnounce) then (.present, q) else q.placeNew .announce dest := rfl

theorem TxQueue.take_of_no_change (first : c = .announce → q.entries.any (fun e => e.content.isAnnounce) = false)
    (other : ∀ x ps, c ≠ .change x ps) : q.take c dest = q.placeNew c dest := by
  cases c with
  | announce => rw [TxQueue.take_announce, if_neg (by rw [first rfl]; exact nofun)]
  | change x ps => exact absurd rfl (other x ps)
  | _ => rfl

theorem TxQueue.take_change_new {x : Triple} {ps : List Pair}
    (new : ∀ e ∈ q.entries, ∀ y qs, e.content = .change y qs → y.chan ≠ x.chan) :
    q.take (.change x ps) dest = q.placeNew (.change x ps) dest := by
  refine if_neg fun joins => ?_
  obtain ⟨e, youngest, -⟩ := (TxQueue.coalesces_eq_true_iff _ _).1 joins
  obtain ⟨before, after, split, change, -⟩ := (TxQueue.youngestChange_eq_some_iff _ e).1 youngest
  obtain ⟨y, qs, content, chan⟩ := (Content.isChangeOf_iff _).1 change
  exact new e (by rw [split]; simp) y qs content chan

theorem TxQueue.take_change_next {x y : Triple} {ps qs : List Pair} {before after : List Entry} {e : Entry}
    (split : q.entries = before ++ e :: after) (content : e.content = .change y qs) (chan : y.chan = x.chan)
    (youngest : ∀ f ∈ after, ∀ z rs, f.content = .change z rs → z.chan ≠ x.chan) :
    q.take (.change x ps) dest =
      if e.onLine = false ∧ (qs.length < 4 ∨ ps = []) then
        (.coalesced, { q with entries := before ++ { e with content := .change x (qs ++ ps) } :: after })
      else q.placeNew (.change x ps) dest := by
  have change := (Content.isChangeOf_iff x.chan).2 ⟨y, qs, content, chan⟩
  have others : ∀ f ∈ after, f.content.isChangeOf x.chan = false := fun f hf =>
    (Content.not_changeOf_iff x.chan).2 (youngest f hf)
  have found := (TxQueue.youngestChange_eq_some_iff x.chan e).2 ⟨before, after, split, change, others⟩
  have joins : q.coalesces x.chan (!ps.isEmpty) = true ↔ e.onLine = false ∧ (qs.length < 4 ∨ ps = []) := by
    have none : (!ps.isEmpty) = false ↔ ps = [] := by rw [Bool.not_eq_false', List.isEmpty_iff]
    rw [TxQueue.coalesces_eq_true_iff, found, none]
    constructor
    · rintro ⟨e', same, off, room⟩
      cases same
      rw [content] at room
      exact ⟨off, room⟩
    · rintro ⟨off, room⟩
      refine ⟨e, rfl, off, ?_⟩
      rw [content]
      exact room
  refine (if_congr joins ?_ rfl)
  rw [split, modifyLast_of_last _ before change others, content]
  rfl

end

/-! ### The attempt an offer begins (R9, R22) -/

section

variable {s : State} {c : Content} {dest : Addr}

theorem State.offer_snd (s : State) (c : Content) (dest : Addr) :
    (s.offer c dest).2 =
      if (s.queue.offer s.start.state c dest).1 = .admitted then
        ({ s with queue := (s.queue.offer s.start.state c dest).2 } : State).beginAt
          ((s.queue.offer s.start.state c dest).2.entries.length - 1)
      else { s with queue := (s.queue.offer s.start.state c dest).2 } := rfl

theorem TxQueue.mayBeSent_of_admitted {q : TxQueue} {st : StationState}
    (admitted : (q.offer st c dest).1 = .admitted) : mayBeSent st c = true := by
  by_contra unsent
  rw [TxQueue.offer, if_neg unsent] at admitted
  exact nomatch admitted

/-- The entry at the position given is not the one the queue chooses. -/
theorem State.beginAt_of_lower {es : List Entry} {e g : Entry} (split : s.queue.entries = es ++ [e]) (mem : g ∈ es)
    (eligible : g.eligible s.start.state = true) (lower : g.content.cls ≤ e.content.cls) :
    s.beginAt es.length = s := by
  unfold State.beginAt
  split
  · next j b chosen =>
    refine if_neg ?_
    rintro ⟨-, rfl⟩
    rw [State.chosen, split] at chosen
    exact Nat.not_lt.2 lower ((bestEligible_at chosen).2.1 g mem eligible)
  · rfl

theorem State.offer_stays
    (stays : (s.queue.offer s.start.state c dest).1 ≠ .admitted ∨ s.line.condition ≠ .idle
      ∨ s.service.restart ≠ .clear) :
    (s.offer c dest).2 = { s with queue := (s.queue.offer s.start.state c dest).2 } := by
  by_cases admitted : (s.queue.offer s.start.state c dest).1 = .admitted
  · refine congrArg Prod.snd (State.offer_of_not c dest ?_)
    rw [Bool.eq_false_iff, ne_eq, State.mayBegin_iff]
    rintro ⟨idle, -, clear⟩
    rcases stays with other | busy | pending
    · exact other admitted
    · exact busy idle
    · exact pending clear
  · rw [State.offer_snd, if_neg admitted]

theorem State.offer_admitted {es : List Entry} (admitted : (s.queue.offer s.start.state c dest).1 = .admitted)
    (entries : (s.queue.offer s.start.state c dest).2.entries = es ++ [Entry.new c dest]) :
    (s.offer c dest).2 =
      ({ s with queue := (s.queue.offer s.start.state c dest).2 } : State).beginAt es.length := by
  rw [State.offer_snd, if_pos admitted, entries, List.length_append]
  rfl

theorem State.offer_begins {es : List Entry} (admitted : (s.queue.offer s.start.state c dest).1 = .admitted)
    (may : s.mayBegin = true)
    (entries : (s.queue.offer s.start.state c dest).2.entries = es ++ [Entry.new c dest])
    (highest : ∀ g ∈ es, g.eligible s.start.state = true → c.cls < g.content.cls) :
    (s.offer c dest).2 =
      ({ s with queue := (s.queue.offer s.start.state c dest).2 } : State).beginWith es.length
        (Entry.new c dest) := by
  have eligible : (Entry.new c dest).eligible s.start.state = true :=
    (Entry.eligible_iff _ _).2 ⟨rfl, rfl, TxQueue.mayBeSent_of_admitted admitted⟩
  have chosen := bestEligible_of (after := []) 0 eligible highest nofun
  rw [← entries, Nat.zero_add] at chosen
  rw [State.offer_admitted admitted entries]
  exact State.beginAt_of_chosen (s := { s with queue := (s.queue.offer s.start.state c dest).2 }) may chosen

end

/-! ### Withdrawal (R35) -/

section

variable {s : State} {before after : List Entry} {e : Entry}

theorem State.withdrawRequest_of_first {tag : Byte} (split : s.queue.entries = before ++ e :: after)
    (request : e.content.isRequest tag = true) (first : ∀ f ∈ before, f.content.isRequest tag = false) :
    s.withdrawRequest tag =
      if e.onLine = true then
        { s with queue := { s.queue with entries := before ++ { e with withdrawn := true } :: after } }
      else ({ s with queue := { s.queue with entries := before ++ after } } : State).grantOccasion := by
  have found : s.queue.entries.find? (fun e => e.content.isRequest tag) = some e :=
    List.find?_eq_some_iff_append.2 ⟨request, before, after, split, fun f hf => by rw [first f hf]; rfl⟩
  rw [State.withdrawRequest, found]
  dsimp only
  rw [split, TxKept.modifyFirst_append _ request first, TxKept.eraseP_append request first]

theorem State.handBack_withdrawn (split : s.queue.entries = before ++ e :: after) (on : e.onLine = true)
    (withdrawn : e.withdrawn = true) (first : ∀ f ∈ before, f.onLine = false) (ending : Ending) :
    s.handBack ending = ({ s with queue := { s.queue with entries := before ++ after } } : State).grantOccasion := by
  obtain ⟨found, erased, -⟩ := onLine_at (after := after) on first id
  have found : s.queue.onLine = some e := by rw [TxQueue.onLine, split, found]
  unfold State.handBack
  rw [found]
  dsimp only
  rw [if_pos withdrawn, State.dequeue, split, erased]

end

/-- Settles O22: each answer by the case of the queue and of the content. -/
theorem admissionAndEviction : Obligations.AdmissionAndEviction := by
  refine ⟨fun q c dest => ⟨fun free => TxQueue.placeNew_of_room free c dest, fun full low =>
      TxQueue.placeNew_of_class full low, ?_, ?_, fun full room => TxQueue.placeNew_of_no_room full room⟩,
    fun q cls c => ⟨q.room_eq cls, TxQueue.changeCanBeHad_iff c⟩, ?_, ?_, ?_⟩
  · intro before e after full high split low off last
    exact TxQueue.placeNew_of_evict full high
      (TxQueue.evict_of_lowClass split (e.lowClass_iff.2 ⟨low, off⟩)
        fun f hf => Bool.eq_false_iff.2 fun h => last f hf (f.lowClass_iff.1 h))
  · intro before e after full high none split announce off last
    exact TxQueue.placeNew_of_evict full high
      (TxQueue.evict_of_announce split (fun f hf => Bool.eq_false_iff.2 fun h => none f hf (f.lowClass_iff.1 h))
        (e.idleAnnounce_iff.2 ⟨announce, off⟩)
        fun f hf => Bool.eq_false_iff.2 fun h => last f hf (f.idleAnnounce_iff.1 h))
  · intro q st c dest
    rw [← mayBeSent_iff]
    refine ⟨fun unsent => if_neg unsent, fun sent => ?_⟩
    rw [show q.offer st c dest = q.take c dest from if_pos sent]
    refine ⟨?_, TxQueue.take_of_no_change, ?_⟩
    · rintro rfl present
      rw [TxQueue.take_announce, if_pos present]
    · rintro x ps rfl
      exact ⟨TxQueue.take_change_new, fun before e after y qs split content chan youngest =>
        TxQueue.take_change_next split content chan youngest⟩
  · intro s c dest o t
    refine ⟨rfl, State.offer_stays, fun es admitted idle waiting clear entries => ⟨?_, fun highest => ?_⟩⟩
    · rintro ⟨g, mem, eligible, lower⟩
      rw [State.offer_admitted admitted entries]
      exact State.beginAt_of_lower (s := t) entries mem eligible lower
    · rw [State.offer_begins admitted ((State.mayBegin_iff s).2 ⟨idle, waiting, clear⟩) entries highest,
        State.beginWith_eq]
      dsimp only
      rw [show (s.queue.offer s.start.state c dest).2.entries = es ++ [Entry.new c dest] from entries,
        TxKept.modifyAt_append]
      rfl
  · intro s before e after gone split
    exact ⟨fun tag request first => State.withdrawRequest_of_first split request first,
      fun ending on withdrawn first => State.handBack_withdrawn split on withdrawn first ending⟩

end Sys2Proof.Machine
end

section
/-! PROOFS. Malformed frames, the rows of Table 1-5, and the slots: O24. -/

namespace Sys2Proof.Machine

/-! ### The tests of Table 1-5 (R15) -/

/-- A value lies within the range of a kind (Table 0-3). -/
theorem ChanKind.holds_iff (k : ChanKind) (v : Byte) :
    k.holds v = true ↔
      match k with
      | .switch => v.toNat ≤ 1
      | .level => True
      | .select => v.toNat ≤ 15 := by
  cases k with
  | level => exact ⟨fun _ => trivial, fun _ => rfl⟩
  | switch | select => exact decide_eq_true_iff

theorem Record.admits_iff (r : Record) (v : Byte) :
    r.admits v = true ↔
      match r with
      | .unused => True
      | .home h => h.kind.holds v = true
      | .mirror m => m.kind.holds v = true := by
  cases r with
  | unused => exact ⟨fun _ => trivial, fun _ => rfl⟩
  | home | mirror => exact Iff.rfl

/-- Every test of Table 1-5, the kind's part of each by its code. -/
theorem wellFormed_iff (records : Vector Record 64) (f : Frame) :
    wellFormed records f = true ↔
      f.source ≠ 0 ∧ (1 ≤ f.kind.toNat ∧ f.kind.toNat ≤ 10) ∧ f.cls = kindClass f.kind.toNat
        ∧ (kindBroadcast f.kind.toNat = true ↔ f.destination = 0)
        ∧ kindLength f.kind.toNat f.body.length = true
        ∧ (∀ c ∈ bodyChans f.kind.toNat f.body, c.toNat < 64)
        ∧ (f.kind = kindAnnounce ∨ f.kind = kindChange ∨ f.kind = kindState → f.incarnation ≠ 0)
        ∧ (f.kind = kindRecallReply → byteAt f.body 0 ≠ 0)
        ∧ (f.kind = kindAnnounce → 5 ≤ (byteAt f.body 0).toNat ∧ (byteAt f.body 0).toNat ≤ 40)
        ∧ ∀ t ∈ bodyTriples f.kind.toNat f.body, records[chanOf t.chan].admits t.value = true := by
  simp only [wellFormed, Bool.and_eq_true, bne_iff_ne, decide_eq_true_eq, beq_iff_eq, Bool.or_eq_true,
    Bool.not_eq_true', List.all_eq_true, and_assoc]
  have broadcast : kindBroadcast f.kind.toNat = (f.destination == 0) ↔
      (kindBroadcast f.kind.toNat = true ↔ f.destination = 0) := by
    rw [Bool.eq_iff_iff, beq_iff_eq]
  simp only [broadcast, imp_iff_not_or, ← Bool.not_eq_true, Bool.or_eq_true, beq_iff_eq, or_assoc, ne_eq]

section

variable {records : Vector Record 64} {f : Frame}

/-- The triples of a run of bytes meet the channel table. -/
def triplesFit (records : Vector Record 64) (l : List Byte) : Prop :=
  (∀ c ∈ (rawTriples l).map RawTriple.chan, c.toNat < 64)
    ∧ ∀ t ∈ rawTriples l, records[chanOf t.chan].admits t.value = true

/-- The rows of Table 1-5, each as its tests of a frame behind its source. -/
def meetsRow (records : Vector Record 64) (f : Frame) : Prop :=
  let len := f.body.length
  let broadcast := f.destination = 0
  (f.kind = 1 ∧ f.cls = 2 ∧ broadcast ∧ len ∈ [1, 5, 9, 13] ∧ f.incarnation ≠ 0
      ∧ 5 ≤ (byteAt f.body 0).toNat ∧ (byteAt f.body 0).toNat ≤ 40 ∧ triplesFit records (f.body.drop 1))
    ∨ (f.kind = 2 ∧ f.cls = 1 ∧ broadcast ∧ len ∈ [4, 6, 8, 10, 12]
      ∧ f.incarnation ≠ 0 ∧ triplesFit records (f.body.take 4))
    ∨ (f.kind = 3 ∧ f.cls = 0 ∧ ¬broadcast ∧ len = 4 ∧ (byteAt f.body 1).toNat < 64)
    ∨ (f.kind = 4 ∧ f.cls = 2 ∧ ¬broadcast ∧ 1 ≤ len ∧ len ≤ 8 ∧ ∀ c ∈ f.body, c.toNat < 64)
    ∨ (f.kind = 5 ∧ f.cls = 1 ∧ ¬broadcast ∧ len ∈ [4, 8, 12] ∧ f.incarnation ≠ 0 ∧ triplesFit records f.body)
    ∨ (f.kind = 6 ∧ f.cls = 2 ∧ broadcast ∧ len ≤ 14 ∧ ∀ c ∈ f.body, c.toNat < 64)
    ∨ (f.kind = 7 ∧ f.cls = 1 ∧ ¬broadcast ∧ len ∈ [1, 5, 9, 13] ∧ byteAt f.body 0 ≠ 0
      ∧ triplesFit records (f.body.drop 1))
    ∨ (f.kind = 8 ∧ f.cls = 3 ∧ ¬broadcast ∧ len = 2)
    ∨ (f.kind = 9 ∧ f.cls = 3 ∧ ¬broadcast ∧ 2 ≤ len ∧ len ≤ 14)
    ∨ (f.kind = 10 ∧ f.cls = 3 ∧ ¬broadcast ∧ len = 1)

theorem known_kinds (k : BitVec 4) :
    (1 ≤ k.toNat ∧ k.toNat ≤ 10) ↔
      k = 1 ∨ k = 2 ∨ k = 3 ∨ k = 4 ∨ k = 5 ∨ k = 6 ∨ k = 7 ∨ k = 8 ∨ k = 9 ∨ k = 10 := by
  revert k
  decide

theorem meetsRow_known (row : meetsRow records f) : 1 ≤ f.kind.toNat ∧ f.kind.toNat ≤ 10 := by
  rw [known_kinds]
  exact row.imp And.left <| .imp And.left <| .imp And.left <| .imp And.left <| .imp And.left <| .imp And.left <|
    .imp And.left <| .imp And.left <| .imp And.left And.left

/-- A frame is well formed when it has a source and meets a row: in each row the tables give its part of
the tests. -/
theorem wellFormed_iff_row : wellFormed records f = true ↔ f.source ≠ 0 ∧ meetsRow records f := by
  by_cases known : 1 ≤ f.kind.toNat ∧ f.kind.toNat ≤ 10
  · rw [wellFormed_iff]
    refine and_congr_right fun _ => ?_
    rw [and_iff_right known]
    unfold meetsRow triplesFit
    rcases (known_kinds _).1 known with h | h | h | h | h | h | h | h | h | h
    all_goals
      simp [h, kindClass, kindBroadcast, kindLength, bodyChans, bodyTriples, kindAnnounce, kindChange, kindState,
        kindRecallReply]
    all_goals tauto
  · exact ⟨fun h => absurd ((wellFormed_iff _ _).1 h).2.1 known, fun h => absurd (meetsRow_known h.2) known⟩

end

theorem triplesFit_iff (records : Vector Record 64) (l : List Byte) :
    triplesFit records l ↔
      ∀ x ∈ rawTriples l, x.chan.toNat < 64 ∧ records[chanOf x.chan].admits x.value = true := by
  rw [triplesFit, List.forall_mem_map, ← forall₂_and]

/-! ### A frame of a known sender (R39 to R43) -/

/-- A known sender's frame restarts its silence deadline, and gives no claim and no notice. -/
theorem State.evidence_of_known {s : State} {rx : Rx} (h : s.KnowsSender rx) (p : Option Byte) :
    s.evidence rx.source rx.incarnation p =
      (false,
        s.setPeer rx.source
          { s.peer rx.source with
            period := p.orElse fun _ => (s.peer rx.source).period
            silentAt := some (s.now + silenceTime (p.orElse fun _ => (s.peer rx.source).period)) }) := by
  obtain ⟨hears, other, present, same, given⟩ := h
  have fresh : (s.peer rx.source).becomesPresent rx.incarnation = false := by
    rw [PeerRec.becomesPresent, present, bne_self_eq_false, Bool.and_false]
  have known : (s.peer rx.source).rejoins rx.incarnation = false := by
    rw [PeerRec.rejoins, same, bne_self_eq_false, Bool.and_false]
  have heard : (s.peer rx.source).heard rx.incarnation p s.now =
      { s.peer rx.source with
        period := p.orElse fun _ => (s.peer rx.source).period
        silentAt := some (s.now + silenceTime (p.orElse fun _ => (s.peer rx.source).period)) } := by
    rw [PeerRec.heard, if_neg given, if_neg given]
    rw [← present, ← same]
  rw [State.evidence, if_neg (by rw [hears]; exact nofun), if_neg other]
  dsimp only
  rw [fresh, heard, State.peerClaims, if_neg given, known]
  rfl

theorem State.malformedFrame_of_evidence {s t : State} {f : Frame} {notice : Bool} (source : f.source ≠ 0)
    (evidence : (s.bump .framesMalformed).evidence f.source f.incarnation none = (notice, t)) (free : t.rival = 0) :
    s.malformedFrame f = State.malformedHeard f notice t := by
  rw [State.malformedFrame]
  dsimp only
  rw [if_neg source, evidence]
  exact State.thenDo_of_no_rival free _ _

theorem State.takenFrame_of_evidence {s t : State} {f : Frame} {notice : Bool}
    (evidence : (s.bump .framesTaken).evidence f.source f.incarnation f.period? = (notice, t)) (free : t.rival = 0) :
    s.takenFrame f = State.takenHeard f notice t := by
  rw [State.takenFrame]
  dsimp only
  rw [evidence]
  exact State.thenDo_of_no_rival free _ _

/-! ### The slots (R18) -/

theorem State.slotFor_malformed (s : State) (f : Frame) :
    s.slotFor f .malformed = if s.mayAnswer f = true ∧ f.destination ≠ 0 then some .declined else none := by
  rw [State.slotFor]
  by_cases may : s.mayAnswer f = true
  · by_cases broadcast : f.destination = 0
    · exact (if_pos may).trans ((if_pos broadcast).trans (if_neg fun h => h.2 broadcast).symm)
    · exact (if_pos may).trans ((if_neg broadcast).trans (if_pos ⟨may, broadcast⟩).symm)
  · exact (if_neg may).trans (if_neg fun h => may h.1).symm

theorem State.slotFor_taken (s : State) (f : Frame) (accepted : Bool) :
    s.slotFor f (.taken accepted) =
      if s.mayAnswer f = true then some (if f.destination = 0 ∨ accepted = true then .taken else .declined)
      else none := by
  rw [State.slotFor]
  refine if_congr Iff.rfl ?_ rfl
  exact (apply_ite some _ _ _).symm

/-- Settles O24. -/
theorem unknownKindIsMalformed : Obligations.UnknownKindIsMalformed := by
  refine ⟨?_, fun records f => ?_, fun s f accepted => ⟨?_, ?_, fun j => rfl⟩⟩
  · intro s dt kind rx awake valid unknown knows source
    have malformed : wellFormed s.channels.records (frameOf kind rx) = false := by
      rw [Bool.eq_false_iff, ne_eq, wellFormed_iff]
      rintro ⟨-, known, -⟩
      change 1 ≤ kind.toNat ∧ kind.toNat ≤ 10 at known
      rcases unknown with rfl | large
      · exact absurd known.1 (by decide)
      · exact Nat.not_le.2 large known.2
    have evidence := State.evidence_of_known (s := (s.advance dt).bump .framesMalformed) knows none
    rw [exec_frameRow (c := .frameOfUnknownKind dt kind rx) rfl awake]
    have ended := State.malformedFrame_of_evidence (f := frameOf kind rx) source evidence awake.2.2.1
    rw [State.receive_of_malformed (valid.advance _) malformed, show moment (.frameOfUnknownKind dt kind rx) = dt from rfl,
      ended]
    exact congrArg Host.Outcome.next (State.settle_of_not_evicted awake.2.1)
  · intro len within triples broadcast
    have fits (l : List Byte) : triples l ↔ triplesFit records l := by
      rw [triplesFit_iff]
      refine forall₂_congr fun x _ => and_congr_right fun _ => ?_
      rw [Record.admits_iff]
      cases records[chanOf x.chan] with
      | unused => exact Iff.rfl
      | home h => exact (ChanKind.holds_iff _ _).symm
      | mirror m => exact (ChanKind.holds_iff _ _).symm
    rw [wellFormed_iff_row, meetsRow]
    simp only [fits]
    rfl
  · show (s.slotFor f .malformed).map _ = _
    rw [State.slotFor_malformed]
    split <;> rfl
  · show (s.slotFor f (.taken accepted)).map _ = _
    rw [State.slotFor_taken]
    split <;> rfl

end Sys2Proof.Machine
end

section
/-! PROOFS. A frame from the own address: O25. -/

namespace Sys2Proof.Machine

theorem State.stopEmitter_ir (s : State) :
    s.stopEmitter.ir =
      { s.ir with
        blanking := if s.emitter.current.isSome then .ending (s.now + 10 * ms) else s.ir.blanking } := by
  unfold State.stopEmitter
  cases s.emitter.current <;> rfl

theorem State.evidence_of_own {s : State} {src : Addr} (hears : s.start.state.hearsPeers = true)
    (own : src = s.start.ownAddress) (i : Byte) (p : Option Byte) : s.evidence src i p = (false, s.enterConflict) := by
  rw [State.evidence, if_neg (by rw [hears]; exact nofun), if_pos own]

/-- The Line Unit behind a frame that is not answered. -/
def State.unanswered (s : State) : State :=
  { s with
    line :=
      { s.line with
        activity := .answering, reception := none, answer := none
        wire := s.line.wire.heard s.now } }

theorem State.answering_of_may_not {s : State} {f : Frame} (silent : s.mayAnswer f = false) (j : Judgement) :
    s.answering f j = s.unanswered := by
  have slot : s.slotFor f j = none := if_neg (by rw [silent]; exact nofun)
  rw [State.answering, slot]
  rfl

theorem State.enterConflict_silent (s : State) (f : Frame) : s.enterConflict.mayAnswer f = false := by
  rw [State.enterConflict_eq]
  rfl

/-- A valid frame from the own address is counted, and the station leaves the line (R50, R117). -/
theorem exec_own_address {c : Instr} {s : State} {kind : BitVec 4} {rx : Rx} (row : frameRow c = some (kind, rx))
    (awake : s.Awake) (valid : s.HearsValid kind rx) (hears : s.start.state.hearsPeers = true)
    (own : rx.source = s.start.ownAddress) (source : rx.source ≠ 0) :
    exec c s =
      .next
        (((s.advance (moment c)).bump
          (if wellFormed s.channels.records (frameOf kind rx) = true then .framesTaken
          else .framesMalformed)).enterConflict.unanswered) := by
  have conflict (u : State) : (u.enterConflict.unanswered).queue.evicted = false := by
    rw [State.enterConflict_eq]
    rfl
  have same (u : State) (free : u.rival = 0) : u.enterConflict.rival = 0 := by
    rw [State.enterConflict_eq]
    exact free
  rw [exec_frameRow row awake]
  by_cases formed : wellFormed s.channels.records (frameOf kind rx) = true
  · have evidence := State.evidence_of_own (s := (s.advance (moment c)).bump .framesTaken) hears own rx.incarnation
      (frameOf kind rx).period?
    have ended := State.takenFrame_of_evidence (f := frameOf kind rx) evidence (same _ awake.2.2.1)
    have none : ((s.advance (moment c)).bump .framesTaken).enterConflict.handFrame (frameOf kind rx) false =
        (false, ((s.advance (moment c)).bump .framesTaken).enterConflict) := by
      rw [State.enterConflict_eq]
      rfl
    rw [State.receive_of_taken ⟨valid.advance _, formed⟩, ended, State.takenHeard, none, if_pos formed]
    dsimp only
    rw [State.answering_of_may_not (State.enterConflict_silent _ _), State.settle_of_not_evicted (conflict _)]
  · have evidence := State.evidence_of_own (s := (s.advance (moment c)).bump .framesMalformed) hears own
      rx.incarnation none
    have ended := State.malformedFrame_of_evidence (f := frameOf kind rx) source evidence (same _ awake.2.2.1)
    rw [State.receive_of_malformed (valid.advance _) (Bool.eq_false_iff.2 formed), ended, State.malformedHeard,
      if_neg nofun, if_neg formed, State.answering_of_may_not (State.enterConflict_silent _ _),
      State.settle_of_not_evicted (conflict _)]

/-- Settles O25: entry into ADDRESS_CONFLICT, block by block. -/
theorem ownAddressHeard : Obligations.OwnAddressHeard := by
  intro c s kind rx row awake valid hears own source
  refine ⟨_, exec_own_address row awake valid hears own source, ?_⟩
  have line := State.advance_line_of_no_attempt (moment c) valid.1.1
  generalize counter : (if wellFormed s.channels.records (frameOf kind rx) = true then Counter.framesTaken
    else Counter.framesMalformed) = k
  rw [State.enterConflict_eq]
  refine ⟨rfl, rfl, ?_, rfl, rfl, rfl, rfl, rfl, rfl, rfl, ?_, fun i => ?_, rfl, fun ch => ?_, rfl, fun a => ?_, rfl, rfl,
    rfl, fun i => ?_, rfl, fun i => ?_, rfl, rfl, rfl, rfl⟩
  · show ({ (s.advance (moment c)).line with
      activity := .answering, reception := none, answer := none
      wire := (s.advance (moment c)).line.wire.heard (s.now + (moment c).after) } : LineUnit) = _
    rw [line]
    rfl
  · exact State.stopEmitter_ir _
  · exact getElem_mapV _ _ _ i.isLt
  · refine Eq.trans (getElem_mapV _ _ _ ch.isLt) ?_
    show (s.chan ch).freeze = _
    cases s.chan ch <;> rfl
  · exact getElem_mapV _ _ _ a.isLt
  · exact getElem_mapV _ _ _ i.isLt
  · exact getElem_mapV _ _ _ i.isLt

end Sys2Proof.Machine
end

section
/-! PROOFS. The triples of taken frames: O26. -/

namespace Sys2Proof.Machine

/-! ### One triple at a record (R53, R60, R61) -/

theorem newer_iff (n m : Version) : newer n m = true ↔ 1 ≤ (n - m).toNat ∧ (n - m).toNat ≤ 2047 :=
  decide_eq_true_iff

theorem MirrorRec.accepts_iff (m : MirrorRec) (i : Byte) (n : Version) :
    m.accepts i n = true ↔
      m.state ≠ .fresh ∨ m.heldIncarnation ≠ i
        ∨ (1 ≤ (n - m.version).toNat ∧ (n - m.version).toNat ≤ 2047) := by
  rw [MirrorRec.accepts, Bool.or_eq_true, Bool.or_eq_true, bne_iff_ne, bne_iff_ne, newer_iff, or_assoc]

theorem State.judge_of_mirror {s : State} {x : Triple} {m : MirrorRec} (mirror : s.chan x.chan = .mirror m)
    (src : Addr) (i : Byte) :
    State.judge src i s x =
      if m.owner ≠ src then s.bump .ownershipConflicts
      else if m.accepts i x.version then s.setChan x.chan (.mirror (m.take x i))
      else s := by
  unfold State.judge
  rw [mirror]

/-! ### What judging leaves -/

theorem State.mayBegin_congr {s t : State} (line : t.line = s.line) (service : t.service.restart = s.service.restart) :
    t.mayBegin = s.mayBegin := by
  unfold State.mayBegin
  rw [line, service]

@[simp] theorem State.judgeAll_now (s : State) (src : Addr) (i : Byte) (xs : List Triple) :
    (s.judgeAll src i xs).now = s.now := by
  obtain ⟨v, ct, judged⟩ := s.judgeAll_eq src i xs
  rw [judged]

@[simp] theorem State.judgeAll_rival (s : State) (src : Addr) (i : Byte) (xs : List Triple) :
    (s.judgeAll src i xs).rival = s.rival := by
  obtain ⟨v, ct, judged⟩ := s.judgeAll_eq src i xs
  rw [judged]

@[simp] theorem State.judgeAll_line (s : State) (src : Addr) (i : Byte) (xs : List Triple) :
    (s.judgeAll src i xs).line = s.line := by
  obtain ⟨v, ct, judged⟩ := s.judgeAll_eq src i xs
  rw [judged]

@[simp] theorem State.judgeAll_queue (s : State) (src : Addr) (i : Byte) (xs : List Triple) :
    (s.judgeAll src i xs).queue = s.queue := by
  obtain ⟨v, ct, judged⟩ := s.judgeAll_eq src i xs
  rw [judged]

@[simp] theorem State.judgeAll_requests (s : State) (src : Addr) (i : Byte) (xs : List Triple) :
    (s.judgeAll src i xs).requests = s.requests := by
  obtain ⟨v, ct, judged⟩ := s.judgeAll_eq src i xs
  rw [judged]

@[simp] theorem State.judgeAll_start (s : State) (src : Addr) (i : Byte) (xs : List Triple) :
    (s.judgeAll src i xs).start = s.start := by
  obtain ⟨v, ct, judged⟩ := s.judgeAll_eq src i xs
  rw [judged]

@[simp] theorem State.judgeAll_macros (s : State) (src : Addr) (i : Byte) (xs : List Triple) :
    (s.judgeAll src i xs).macros = s.macros := by
  obtain ⟨v, ct, judged⟩ := s.judgeAll_eq src i xs
  rw [judged]

@[simp] theorem State.judgeAll_restart (s : State) (src : Addr) (i : Byte) (xs : List Triple) :
    (s.judgeAll src i xs).service.restart = s.service.restart := by
  obtain ⟨v, ct, judged⟩ := s.judgeAll_eq src i xs
  rw [judged]

/-- A decision where no attempt may begin evicts nothing. -/
theorem State.fetchDecision_evicted {s : State} (a : Addr) (busy : s.mayBegin = false) :
    (s.fetchDecision a).queue.evicted = s.queue.evicted := by
  rcases State.fetchDecision_eq a busy with h | h
  · rw [h]
  · rw [h]
    rfl

/-- A taken frame of a known sender goes to its block. -/
theorem State.handFrame_of_known {s : State} {rx : Rx} (knows : s.KnowsSender rx) (dt : Moment) (f : Frame) :
    ((s.advance dt).heardFrom f).handFrame f false = ((s.advance dt).heardFrom f).handOver f false :=
  State.handFrame_of_hears knows.1

/-- Settles O26: an ANNOUNCE and a STATE are judged, and a FETCH decision follows the ANNOUNCE. -/
theorem triplesAreTaken : Obligations.TriplesAreTaken := by
  refine ⟨fun s dt rx awake knows => ⟨fun taken => ?_, fun taken => ?_⟩, fun src i s x xs => ⟨rfl, rfl, ?_⟩,
    fun p c v h l rest => ⟨rfl, rfl⟩⟩
  · have handed : ((s.advance dt).heardFrom (frameOf kindAnnounce rx)).handFrame (frameOf kindAnnounce rx) false =
        (true, (((s.advance dt).heardFrom (frameOf kindAnnounce rx)).judgeAll rx.source rx.incarnation
          (triplesOf kindAnnounce rx.body)).fetchDecision rx.source) := by
      rw [State.handFrame_of_known knows]
      have free : (((s.advance dt).heardFrom (frameOf kindAnnounce rx)).judgeAll rx.source rx.incarnation
          (triplesOf kindAnnounce rx.body)).rival = 0 := (State.judgeAll_rival _ _ _ _).trans awake.2.2.1
      exact congrArg (Prod.mk true) (State.thenDo_of_no_rival free (.fetch rx.source) fun s => s.fetchDecision rx.source)
    refine (exec_taken (c := .announce dt rx) rfl rfl awake taken knows handed).trans ?_
    refine congrArg Host.Outcome.next (State.settle_of_not_evicted ?_)
    have busy : (((s.advance dt).heardFrom (frameOf kindAnnounce rx)).judgeAll rx.source rx.incarnation
        (triplesOf kindAnnounce rx.body)).mayBegin = false :=
      (State.mayBegin_congr (State.judgeAll_line _ _ _ _) (State.judgeAll_restart _ _ _ _)).trans
        (taken.1.1.advance dt).mayBegin
    refine (State.fetchDecision_evicted rx.source busy).trans ?_
    rw [State.judgeAll_queue]
    exact awake.2.1
  · have handed : ((s.advance dt).heardFrom (frameOf kindState rx)).handFrame (frameOf kindState rx) false =
        (true, ((s.advance dt).heardFrom (frameOf kindState rx)).judgeAll rx.source rx.incarnation
          (triplesOf kindState rx.body)) := by
      rw [State.handFrame_of_known knows]
      rfl
    refine (exec_taken (c := .state dt rx) rfl rfl awake taken knows handed).trans ?_
    refine congrArg Host.Outcome.next (State.settle_of_not_evicted ?_)
    exact (congrArg TxQueue.evicted (State.judgeAll_queue _ _ _ _)).trans awake.2.1
  · cases record : s.chan x.chan with
    | mirror m =>
      rw [State.judge_of_mirror record]
      exact if_congr Iff.rfl rfl (if_congr (m.accepts_iff i x.version) rfl rfl)
    | unused | home =>
      unfold State.judge
      rw [record]

end Sys2Proof.Machine
end

section
/-! PROOFS. The answered pairs of a CHANGE: O27. -/

namespace Sys2Proof.Machine

/-! ### A confirmed request (R86, R91, R92) -/

section

variable {s : State} {tag : Byte} {r : ReqEntry}

/-- A confirmed entry whose REQUEST has been sent leaves the table, and its originator is told. -/
theorem State.endRequest_confirmed_of_sent {t : Time} (found : s.requestOf tag = some r) (sent : r.state = .sent t)
    (waits : s.NoneWaits) (free : s.rival = 0) :
    s.endRequest tag .confirmed = (s.removeRequest tag).routeOutcome r true := by
  rw [State.endRequest_eq found (if_neg fun h => ReqState.noConfusion (sent.symm.trans h.1)) waits free, State.conclude, if_pos rfl]
  rfl

theorem State.routeOutcome_of_binding (s : State) (binding : r.origin = .binding) (b : Bool) :
    s.routeOutcome r b = s := by
  unfold State.routeOutcome
  rw [binding]

variable {i : SlotId} {n : Byte}

/-- A run is told nothing under another generation, or when it has ended (R92). -/
theorem State.routeOutcome_ignored (run : r.origin = .run i n)
    (ended : (s.slot i).generation ≠ n ∨ (s.slot i).state = .idle) (b : Bool) : s.routeOutcome r b = s := by
  unfold State.routeOutcome
  rw [run]
  dsimp only
  rcases ended with other | idle
  · exact if_neg other
  · rw [State.outcomeToRun]
    exact (if_congr Iff.rfl (if_pos idle) rfl).trans (ite_self _)

/-- A confirmed tag leaves the outstanding list of the run, which goes on where it waited for the last
(R92, R159). -/
theorem State.routeOutcome_confirmed (run : r.origin = .run i n) (generation : (s.slot i).generation = n)
    (busy : (s.slot i).state ≠ .idle) :
    s.routeOutcome r true =
      let told : RunSlot := { s.slot i with outstanding := (s.slot i).outstanding.erase r.tag }
      if (s.slot i).state = .waitConfirm ∧ told.outstanding = [] then (s.setSlot i told).resume i
      else s.setSlot i told := by
  unfold State.routeOutcome
  rw [run]
  dsimp only
  rw [if_pos generation, State.outcomeToRun]
  dsimp only
  rw [if_neg busy]
  simp only [Bool.not_true, Bool.or_false]

theorem State.resume_setSlot (s : State) (i : SlotId) (x : RunSlot) :
    (s.setSlot i x).resume i = State.runSteps 5000 i (s.setSlot i { x with state := .performing }) := by
  have slot : (s.setSlot i x).slot i = x := Vector.getElem_set_self _
  rw [State.resume, slot, State.setSlot, State.setSlot]
  exact congrArg (fun v => State.runSteps 5000 i { s with macros := { s.macros with slots := v } })
    (Vector.set_set x i.isLt)

end

/-! ### The pairs (R63, R85) -/

/-- The entries a list of pairs confirms. -/
def namedBy (own : Byte) (src : Addr) (c : Chan) (ps : List Pair) (e : ReqEntry) : Bool :=
  ps.any (fun p => p.address == own && p.tag == e.tag) && (e.chan == c && e.owner == src)

theorem namedBy_cons {own : Byte} {src : Addr} {c : Chan} {p : Pair} {ps : List Pair} {e : ReqEntry} :
    namedBy own src c (p :: ps) e = true ↔
      (p.address = own ∧ p.tag = e.tag ∧ e.chan = c ∧ e.owner = src) ∨ namedBy own src c ps e = true := by
  simp only [namedBy, List.any_cons, Bool.and_eq_true, Bool.or_eq_true, beq_iff_eq, or_and_right, and_assoc]

theorem State.matchPair_of_other {s : State} {src : Addr} {c : Chan} {p : Pair}
    (other : p.address ≠ s.start.ownAddress.setWidth 8
      ∨ ∀ r, s.requestOf p.tag = some r → r.chan ≠ c ∨ r.owner ≠ src) : s.matchPair src c p = s := by
  unfold State.matchPair
  rcases other with other | other
  · exact if_neg other
  · refine (if_congr Iff.rfl ?_ rfl).trans (ite_self _)
    cases found : s.requestOf p.tag with
    | none => rfl
    | some r => exact if_neg fun h => (other r found).elim (· h.1) (· h.2)

theorem State.matchPair_of_own {s : State} {src : Addr} {c : Chan} {p : Pair} {r : ReqEntry}
    (own : p.address = s.start.ownAddress.setWidth 8) (found : s.requestOf p.tag = some r) (chan : r.chan = c)
    (owner : r.owner = src) : s.matchPair src c p = s.endRequest p.tag .confirmed := by
  unfold State.matchPair
  rw [if_pos own, found]
  exact if_pos ⟨chan, owner⟩

/-- A tag with one entry finds it. -/
theorem State.requestOf_of_mem {s : State} (distinct : (s.requests.entries.map ReqEntry.tag).Nodup) {e : ReqEntry}
    (mem : e ∈ s.requests.entries) : s.requestOf e.tag = some e := by
  obtain ⟨l, r, split⟩ := List.append_of_mem mem
  rw [State.requestOf, split]
  rw [split, List.map_append, List.map_cons] at distinct
  refine ReqEntry.find?_tag r fun f hf same => ?_
  have apart := (List.nodup_append.1 distinct).2.2 f.tag (List.mem_map_of_mem hf) e.tag List.mem_cons_self
  exact apart same

/-- Pairs that confirm only sent requests of bindings take their entries out of the table, and do nothing
else. -/
theorem State.matchPairs_of_bindings {src : Addr} {c : Chan} {own : Byte} (ps : List Pair) {s : State}
    (same : own = s.start.ownAddress.setWidth 8) (distinct : (s.requests.entries.map ReqEntry.tag).Nodup)
    (waits : s.NoneWaits) (free : s.rival = 0)
    (sent : ∀ e ∈ s.requests.entries, namedBy own src c ps e = true →
      e.origin = .binding ∧ ∃ t, e.state = .sent t) :
    ps.foldl (fun s p => s.matchPair src c p) s =
      { s with
        requests :=
          { s.requests with entries := s.requests.entries.filter fun e => !namedBy own src c ps e } } := by
  induction ps generalizing s with
  | nil =>
    have all : s.requests.entries.filter (fun e => !namedBy own src c [] e) = s.requests.entries :=
      List.filter_eq_self.2 fun e _ => rfl
    rw [all]
    rfl
  | cons p ps ih =>
    have later : ∀ e ∈ s.requests.entries, namedBy own src c ps e = true →
        e.origin = .binding ∧ ∃ t, e.state = .sent t := fun e mem named => sent e mem (namedBy_cons.2 (.inr named))
    rw [List.foldl_cons]
    by_cases hit : p.address = own ∧ ∃ e ∈ s.requests.entries, p.tag = e.tag ∧ e.chan = c ∧ e.owner = src
    · obtain ⟨address, e, mem, tag, chan, owner⟩ := hit
      obtain ⟨binding, t, state⟩ := sent e mem (namedBy_cons.2 (.inl ⟨address, tag, chan, owner⟩))
      have found : s.requestOf p.tag = some e := tag ▸ State.requestOf_of_mem distinct mem
      have gone : s.matchPair src c p = s.removeRequest p.tag := by
        rw [State.matchPair_of_own (address.trans same) found chan owner,
          State.endRequest_confirmed_of_sent found state waits free, State.routeOutcome_of_binding _ binding]
      rw [gone, ih (s := s.removeRequest p.tag) same
        (distinct.sublist (List.filter_sublist.map ReqEntry.tag)) waits free
        fun e' mem' => later e' (List.mem_filter.1 mem').1]
      refine congrArg (fun es => ({ s with requests := { s.requests with entries := es } } : State)) ?_
      refine (List.filter_filter).trans (List.filter_congr fun e' mem' => ?_)
      rw [Bool.eq_iff_iff, Bool.and_eq_true, Bool.not_eq_true', bne_iff_ne, Bool.not_eq_true', Bool.eq_false_iff,
        Bool.eq_false_iff, ne_eq, ne_eq, ne_eq, namedBy_cons, not_or, and_comm]
      refine and_congr_left fun _ => ⟨fun other h => other h.2.1.symm, fun other tag' => other ⟨address, tag'.symm, ?_⟩⟩
      have same' : some e' = some e := (State.requestOf_of_mem distinct mem').symm.trans (tag' ▸ found)
      cases same'
      exact ⟨chan, owner⟩
    · have stays : s.matchPair src c p = s := by
        refine State.matchPair_of_other ?_
        by_cases address : p.address = own
        · refine .inr fun r found => ?_
          have mem := List.mem_of_find?_eq_some found
          have tag : r.tag = p.tag := beq_iff_eq.1 (List.find?_some found :)
          by_contra both
          rw [not_or, not_not, not_not] at both
          exact hit ⟨address, r, mem, tag.symm, both⟩
        · exact .inl (same ▸ address)
      rw [stays, ih same distinct waits free later]
      refine congrArg (fun es => ({ s with requests := { s.requests with entries := es } } : State)) ?_
      refine List.filter_congr fun e mem => congrArg (!·) ?_
      rw [Bool.eq_iff_iff, namedBy_cons]
      exact (or_iff_right fun h => hit ⟨h.1, e, mem, h.2⟩).symm

/-- Settles O27: the pairs are matched one by one. -/
theorem changeIsTaken : Obligations.ChangeIsTaken := by
  intro s dt rx x rest awake knows taken triples pairs own judged confirm without
  have free : judged.rival = 0 := (State.judgeAll_rival _ _ _ _).trans awake.2.2.1
  have kept : judged.queue.evicted = false :=
    (congrArg TxQueue.evicted (State.judgeAll_queue _ _ _ _)).trans awake.2.1
  have requests : judged.requests = s.requests := State.judgeAll_requests _ _ _ _
  have queue : judged.queue = s.queue := State.judgeAll_queue _ _ _ _
  have start : judged.start = s.start := State.judgeAll_start _ _ _ _
  have macros : judged.macros = s.macros := State.judgeAll_macros _ _ _ _
  have address : own = judged.start.ownAddress.setWidth 8 := by rw [start]
  have handed : ((s.advance dt).heardFrom (frameOf kindChange rx)).handFrame (frameOf kindChange rx) false =
      (true, pairs.foldl (fun s p => s.matchPair rx.source x.chan p) judged) := by
    have byKind : ((s.advance dt).heardFrom (frameOf kindChange rx)).handByKind (frameOf kindChange rx) =
        (true, judged.matchPairs rx.source x.chan pairs) := by
      show (match triplesOf kindChange rx.body with
        | t :: _ => (true, judged.matchPairs rx.source t.chan pairs)
        | [] => (true, judged)) = _
      rw [triples]
    rw [State.handFrame_of_known knows, ← State.matchPairs_of_no_rival free]
    exact byKind
  have all := exec_taken (c := .change dt rx) rfl rfl awake taken knows handed
  have confirms (ps : List Pair) (u : State) (same : own = u.start.ownAddress.setWidth 8) :
      ps.foldl confirm u = ps.foldl (fun s p => s.matchPair rx.source x.chan p) u := by
    induction ps generalizing u with
    | nil => rfl
    | cons p ps ih =>
      have step : confirm u p = u.matchPair rx.source x.chan p := by
        unfold State.matchPair
        rw [← same]
        show (match u.requestOf p.tag with
          | some r => _
          | none => _) = _
        by_cases mine : p.address = own
        · rw [if_pos mine]
          cases u.requestOf p.tag with
          | none => rfl
          | some r => exact if_congr (and_iff_right mine) rfl rfl
        · rw [if_neg mine]
          cases u.requestOf p.tag with
          | none => rfl
          | some r => exact if_neg fun h => mine h.1
      rw [List.foldl_cons, List.foldl_cons, step]
      exact ih _ (same.trans (by rw [(u.matchPair_acts rx.source x.chan p).start]))
  have answered (u : State) (done : pairs.foldl (fun s p => s.matchPair rx.source x.chan p) judged = u)
      (none : u.queue.evicted = false) :
      exec (.change dt rx) s = .next (u.answering (frameOf kindChange rx) (.taken true)) := by
    rw [all, done]
    exact congrArg Host.Outcome.next (State.settle_of_not_evicted none)
  refine ⟨?_, fun others => answered judged ?_ kept, ?_, ?_⟩
  · rw [confirms pairs judged address]
    exact all
  · have stays (ps : List Pair) (sub : ∀ p ∈ ps, p ∈ pairs) :
        ps.foldl (fun s p => s.matchPair rx.source x.chan p) judged = judged := by
      induction ps with
      | nil => rfl
      | cons p ps ih =>
        have other : judged.matchPair rx.source x.chan p = judged := by
          refine State.matchPair_of_other ?_
          rw [start, State.requestOf, requests]
          exact others p (sub p List.mem_cons_self)
        rw [List.foldl_cons, other]
        exact ih fun q hq => sub q (List.mem_cons_of_mem _ hq)
    exact stays pairs fun _ h => h
  · intro named distinct waits sent
    refine answered (without judged named) ?_ kept
    rw [← requests] at distinct sent
    exact State.matchPairs_of_bindings pairs address distinct (by rw [State.NoneWaits, requests]; exact waits) free sent
  · intro p r single mine found chan owner waits left
    have waits : judged.NoneWaits := by rw [State.NoneWaits, requests]; exact waits
    have found : judged.requestOf p.tag = some r := by rw [State.requestOf, requests]; exact found
    have tag : r.tag = p.tag := beq_iff_eq.1 (List.find?_some found :)
    have one : pairs.foldl (fun s p => s.matchPair rx.source x.chan p) judged =
        judged.endRequest p.tag .confirmed := by
      rw [single]
      exact State.matchPair_of_own (mine.trans address) found chan owner
    refine ⟨fun t0 sent binding => ?_, fun before q after queued binding split request first => ?_,
      fun i n t0 sent run => ?_⟩
    · refine answered left (one.trans ?_) kept
      rw [State.endRequest_confirmed_of_sent found sent waits free, State.routeOutcome_of_binding _ binding]
      rfl
    · have withdrawn := State.withdrawRequest_of_first (s := judged) (by rw [queue]; exact split) request first
      rw [queue] at withdrawn
      have whole : (if r.state = .queued ∧ ReqOutcome.confirmed.withdraws = true then judged.withdrawRequest p.tag
          else judged) =
          { judged with
            queue :=
              { s.queue with
                entries :=
                  if q.onLine = true then before ++ { q with withdrawn := true } :: after
                  else before ++ after } } := by
        rw [if_pos ⟨queued, rfl⟩, withdrawn]
        by_cases on : q.onLine = true
        · rw [if_pos on, if_pos on]
        · rw [if_neg on, if_neg on]
          exact State.grantOccasion_of_none waits (State.behind_of_no_rival free)
      refine answered _ (one.trans ?_) awake.2.1
      rw [State.endRequest_eq found whole waits free, State.conclude, if_pos rfl,
        State.routeOutcome_of_binding _ binding]
      rfl
    · intro told
      have ends : judged.endRequest p.tag .confirmed = left.routeOutcome r true :=
        State.endRequest_confirmed_of_sent found sent waits free
      have slot : left.slot i = s.slot i := congrArg (fun m : MacroRunner => m.slots[i]) macros
      have confirmed (generation : (s.slot i).generation = n) (busy : (s.slot i).state ≠ .idle) :=
        State.routeOutcome_confirmed (s := left) run (by rw [slot]; exact generation) (by rw [slot]; exact busy)
      rw [slot, tag] at confirmed
      refine ⟨fun ended => ?_, fun generation busy waiting => ?_, fun generation waiting last => ?_⟩
      · refine answered left (one.trans (ends.trans ?_)) kept
        exact State.routeOutcome_ignored run (by rw [slot]; exact ended) true
      · refine answered (left.setSlot i told) (one.trans (ends.trans ((confirmed generation busy).trans ?_))) kept
        exact if_neg fun h => waiting.elim (· h.1) (· h.2)
      · rw [all, one, ends, confirmed generation (by rw [waiting]; exact nofun)]
        dsimp only
        rw [if_pos ⟨waiting, last⟩, State.resume_setSlot]

end Sys2Proof.Machine
end

section
/-! PROOFS. Requests and fetches to this station and to others: O28 and O30. -/

namespace Sys2Proof.Machine

/-! ### Frames handed to one block (R16, R18) -/

section

variable {c : Instr} {kind : BitVec 4} {rx : Rx} {s : State} {dt : Moment}

/-- A taken frame whose triples are not judged is answered as its block says. -/
theorem exec_handed {t : State} {b : Bool} (row : frameRow c = some (kind, rx)) (at_ : moment c = dt)
    (awake : s.Awake) (knows : s.KnowsSender rx) (taken : s.HearsTaken kind rx)
    (plain : kindJudged kind.toNat = false)
    (byKind : ((s.advance dt).heardFrom (frameOf kind rx)).handByKind (frameOf kind rx) = (b, t)) :
    exec c s = .next (t.answering (frameOf kind rx) (.taken b)).settle :=
  exec_taken row at_ awake taken knows
    ((State.handFrame_of_known knows dt _).trans ((State.handOver_plain plain).trans byKind))

theorem State.isMine_of_other {f : Frame} (other : f.destination ≠ s.start.ownAddress) : s.isMine f = false := by
  rw [State.isMine, beq_eq_false_iff_ne.2 other, Bool.and_false]

/-- An addressed frame to another station draws no slot. -/
theorem State.mayAnswer_of_other {f : Frame} (addressed : f.destination ≠ 0)
    (other : f.destination ≠ s.start.ownAddress) : s.mayAnswer f = false := by
  rw [Bool.eq_false_iff, ne_eq, State.mayAnswer_iff]
  rintro (⟨-, zero | own⟩ | ⟨-, -, own⟩)
  · exact addressed zero
  · exact other own
  · exact other own

/-- An addressed frame of a known sender to another station, of which the blocks take nothing. -/
theorem exec_overheard (row : frameRow c = some (kind, rx)) (at_ : moment c = dt) (awake : s.Awake)
    (knows : s.KnowsSender rx) (taken : s.HearsTaken kind rx) (plain : kindJudged kind.toNat = false)
    (addressed : kindBroadcast kind.toNat = false) (other : rx.destination ≠ s.start.ownAddress)
    (nothing : ((s.advance dt).heardFrom (frameOf kind rx)).isMine (frameOf kind rx) = false →
      ((s.advance dt).heardFrom (frameOf kind rx)).handByKind (frameOf kind rx) =
        (false, (s.advance dt).heardFrom (frameOf kind rx))) :
    exec c s = .next ((s.advance dt).overheard (frameOf kind rx)) := by
  rw [exec_handed row at_ awake knows taken plain (nothing (State.isMine_of_other other)),
    State.answering_of_may_not (State.mayAnswer_of_other (taken.addressed addressed) other)]
  exact congrArg Host.Outcome.next (State.settle_of_not_evicted awake.2.1)

/-- An addressed frame that is refused changes nothing else. -/
theorem exec_refused (row : frameRow c = some (kind, rx)) (at_ : moment c = dt) (awake : s.Awake)
    (knows : s.KnowsSender rx) (taken : s.HearsTaken kind rx) (plain : kindJudged kind.toNat = false)
    (refused : ((s.advance dt).heardFrom (frameOf kind rx)).handByKind (frameOf kind rx) =
      (false, (s.advance dt).heardFrom (frameOf kind rx))) :
    exec c s =
      .next (((s.advance dt).heardFrom (frameOf kind rx)).answering (frameOf kind rx) (.taken false)) :=
  (exec_handed row at_ awake knows taken plain refused).trans
    (congrArg Host.Outcome.next (State.settle_of_not_evicted awake.2.1))

end

/-! ### A REQUEST at its owner (R67, R68) -/

section

variable {s : State} {src : Addr} {tag ob x : Byte} {c : Chan}

theorem State.handByKind_request {f : Frame} (request : f.kind = kindRequest) (mine : s.isMine f = true) :
    s.handByKind f =
      s.requested f.source (byteAt f.body 0) (chanOf (byteAt f.body 1)) (byteAt f.body 2) (byteAt f.body 3) := by
  unfold State.handByKind
  rw [request]
  exact if_pos mine

theorem State.requested_of_good {h : HomeRec} {op : Op} (active : s.start.state = .active)
    (home : s.chan c = .home h) (code : Op.ofCode ob = some op) (live : h.state = .live)
    (valid : opValid h.kind op x = true) (room : s.queue.changeCanBeHad c = true) :
    s.requested src tag c ob x = (true, s.apply c h op x src [{ address := src.setWidth 8, tag := tag }]) := by
  rw [State.requested, if_neg (not_not.2 active), home, code]
  exact if_pos ⟨live, valid, room⟩

theorem State.requested_of_inactive (inactive : s.start.state ≠ .active) :
    s.requested src tag c ob x = (false, s) :=
  if_pos inactive

theorem State.requested_of_bad
    (bad : ∀ h op, s.chan c = .home h → Op.ofCode ob = some op → h.state = .live → opValid h.kind op x = true →
      s.queue.changeCanBeHad c = false) : s.requested src tag c ob x = (false, s) := by
  unfold State.requested
  refine (if_congr Iff.rfl rfl ?_).trans (ite_self _)
  split
  · next h op home code =>
    refine if_neg ?_
    rintro ⟨live, valid, room⟩
    exact Bool.noConfusion ((bad h op home code live valid).symm.trans room)
  · rfl

end

/-- Settles O28. -/
theorem requestIsDecided : Obligations.RequestIsDecided := by
  intro s dt rx awake knows taken heard
  have own (here : rx.destination = s.start.ownAddress) : heard.isMine (frameOf kindRequest rx) = true :=
    State.isMine_of_own here (taken.addressed rfl)
  have asked (tag cb ob x : Byte) (here : rx.destination = s.start.ownAddress) (body : rx.body = [tag, cb, ob, x]) :
      heard.handByKind (frameOf kindRequest rx) = heard.requested rx.source tag (chanOf cb) ob x := by
    refine (State.handByKind_request (s := heard) rfl (own here)).trans ?_
    show heard.requested rx.source (byteAt rx.body 0) (chanOf (byteAt rx.body 1)) (byteAt rx.body 2)
      (byteAt rx.body 3) = _
    rw [body]
    rfl
  refine ⟨fun tag cb ob x active here body => ⟨fun h op home code live valid room => ?_, fun bad => ?_⟩,
    fun inactive here => ?_, fun other => ?_⟩
  · refine exec_handed (c := .request dt rx) rfl rfl awake knows taken rfl ((asked tag cb ob x here body).trans ?_)
    exact State.requested_of_good (s := heard) active home code live valid room
  · refine exec_refused (c := .request dt rx) rfl rfl awake knows taken rfl ((asked tag cb ob x here body).trans ?_)
    exact State.requested_of_bad (s := heard) bad
  · refine exec_refused (c := .request dt rx) rfl rfl awake knows taken rfl
      ((State.handByKind_request (s := heard) rfl (own here)).trans ?_)
    exact State.requested_of_inactive inactive
  · refine exec_overheard (c := .request dt rx) rfl rfl awake knows taken rfl rfl other fun not => ?_
    exact if_neg (by rw [not]; exact nofun)

/-! ### A FETCH at its owner, and the FETCH decision (R47, R75, R76) -/

theorem State.handByKind_fetch {s : State} {f : Frame} (fetch : f.kind = kindFetch) (mine : s.isMine f = true) :
    s.handByKind f = s.fetched f.source (f.body.map chanOf) := by
  unfold State.handByKind
  rw [fetch]
  exact if_pos mine

theorem State.fetched_of_active {s : State} (active : s.start.state = .active) (src : Addr) (listed : List Chan) :
    let lists := pieces 3 (firsts (listed.filter fun c => (s.chan c).isHome))
    s.fetched src listed =
      if lists ≠ [] ∧ lists.length ≤ s.queue.room 1 then (true, s.offerAll src (lists.map Content.state))
      else (false, s) := by
  intro lists
  rw [State.fetched, if_neg (not_not.2 active)]
  by_cases fits : lists ≠ [] ∧ lists.length ≤ s.queue.room 1
  · rw [if_pos fits]
    refine if_neg ?_
    rw [List.isEmpty_iff, not_or, Nat.not_lt]
    exact fits
  · rw [if_neg fits]
    refine if_pos ?_
    rw [List.isEmpty_iff]
    rwa [not_and_or, not_not, Nat.not_le] at fits

theorem State.wanted_eq (s : State) (owner : Addr) :
    s.wanted owner =
      ((List.finRange 64).filter fun c =>
        match s.chan c with
        | .mirror m => m.owner == owner && m.state != .fresh
        | _ => false).take 8 := by
  refine congrArg (List.take 8) (List.filter_congr fun c _ => ?_)
  show (s.chan c).mirrorOf owner MirrorRec.wanting = _
  cases s.chan c <;> rfl

theorem State.wouldFetch_iff (s : State) (owner : Addr) :
    s.wouldFetch owner = true ↔
      s.start.state = .active ∧ (s.peer owner).fetchOut = false ∧ s.wanted owner ≠ [] := by
  simp [State.wouldFetch, and_assoc]

theorem State.fetchDecision_of_not {s : State} {owner : Addr} (asks : ¬s.wouldFetch owner = true) :
    s.fetchDecision owner = s := by
  unfold State.fetchDecision
  exact if_neg asks

theorem State.fetchDecision_of_asks {s : State} {owner : Addr} (asks : s.wouldFetch owner = true) :
    s.fetchDecision owner =
      if (s.offer (.fetch (s.wanted owner)) owner).1 = .admitted then
        (s.offer (.fetch (s.wanted owner)) owner).2.setPeer owner
          { (s.offer (.fetch (s.wanted owner)) owner).2.peer owner with fetchOut := true }
      else (s.offer (.fetch (s.wanted owner)) owner).2 := by
  unfold State.fetchDecision
  exact if_pos asks

/-- Settles O30. -/
theorem fetchIsAnswered : Obligations.FetchIsAnswered := by
  refine ⟨?_, fun s owner => ⟨s.wanted_eq owner, ?_⟩⟩
  · intro s dt rx awake knows taken heard lists
    have own (here : rx.destination = s.start.ownAddress) : heard.isMine (frameOf kindFetch rx) = true :=
      State.isMine_of_own here (taken.addressed rfl)
    refine ⟨fun active here => ?_, fun inactive here => ?_, fun other => ?_⟩
    · have fetched := State.fetched_of_active (s := heard) active rx.source (rx.body.map chanOf)
      have byKind := (State.handByKind_fetch (s := heard) (f := frameOf kindFetch rx) rfl (own here)).trans fetched
      by_cases fits : lists ≠ [] ∧ lists.length ≤ s.queue.room 1
      · rw [if_pos fits]
        exact exec_handed (c := .fetch dt rx) rfl rfl awake knows taken rfl (byKind.trans (if_pos fits))
      · rw [if_neg fits]
        exact exec_refused (c := .fetch dt rx) rfl rfl awake knows taken rfl (byKind.trans (if_neg fits))
    · exact exec_refused (c := .fetch dt rx) rfl rfl awake knows taken rfl
        ((State.handByKind_fetch (s := heard) rfl (own here)).trans (if_pos inactive))
    · refine exec_overheard (c := .fetch dt rx) rfl rfl awake knows taken rfl rfl other fun not => ?_
      exact if_neg (by rw [not]; exact nofun)
  · intro asks o
    have would : s.wouldFetch owner = true ↔ asks := s.wouldFetch_iff owner
    refine ⟨fun no => State.fetchDecision_of_not (would.not.2 no), fun yes => State.fetchDecision_of_asks (would.2 yes),
      fun yes busy => ?_⟩
    have idle : s.mayBegin = false := by
      rw [Bool.eq_false_iff, ne_eq, State.mayBegin_iff]
      exact fun h => busy h.1
    have sent : mayBeSent s.start.state (.fetch (s.wanted owner)) = true := by
      rw [yes.1]
      rfl
    have offered := TxQueue.offer_fetch s.queue s.start.state (s.wanted owner) owner
    rw [State.fetchDecision_of_asks (would.2 yes), State.offer_of_not _ _ idle]
    by_cases room : s.queue.entries.length < 12
    · rw [if_pos ⟨sent, room⟩] at offered
      rw [if_pos room, offered]
      rfl
    · rw [if_neg fun h => room h.2] at offered
      rw [if_neg room, offered]
      rfl

end Sys2Proof.Machine
end

section
/-! PROOFS. Operations on channel values: O29. -/

namespace Sys2Proof.Machine

/-! ### The emit map (R143, R166) -/

theorem State.offerEmission_channels (s : State) (e : Emission) : (s.offerEmission e).2.channels = s.channels := by
  unfold State.offerEmission
  split
  · rfl
  · split
    · rfl
    · split <;> rfl

theorem Option.getD_eq_iff {v : Byte} {o : Option Byte} : o.getD v = v ↔ o = none ∨ o = some v := by
  cases o with
  | none => simp
  | some w => simp

theorem State.emitEntry_eq (c : Chan) (v : Byte) (s : State) (e : EmitEntry) :
    State.emitEntry c v s e =
      if e.chan = c ∧ (e.value = none ∨ e.value = some v) then
        if (s.offerEmission e.emission).1 = true then (s.offerEmission e.emission).2
        else (s.offerEmission e.emission).2.bump .emissionsDropped
      else s := by
  unfold State.emitEntry
  refine if_congr (and_congr_right fun _ => Option.getD_eq_iff) ?_ rfl
  dsimp only
  rw [State.bumpIf_eq]
  cases (s.offerEmission e.emission).1 <;> rfl

theorem State.emitEntry_channels (c : Chan) (v : Byte) (s : State) (e : EmitEntry) :
    (State.emitEntry c v s e).channels = s.channels := by
  rw [State.emitEntry_eq]
  split
  · split
    · exact s.offerEmission_channels e.emission
    · exact s.offerEmission_channels e.emission
  · rfl

theorem State.emitMap_channels (s : State) (c : Chan) (v : Byte) : (s.emitMap c v).channels = s.channels := by
  unfold State.emitMap
  generalize s.outputs.emitMap = l
  induction l generalizing s with
  | nil => rfl
  | cons e l ih => exact (ih (State.emitEntry c v s e)).trans (s.emitEntry_channels c v e)

/-! ### An operation applied (R65, R70, R71) -/

theorem State.offer_channels (s : State) (c : Content) (dest : Addr) : (s.offer c dest).2.channels = s.channels := by
  obtain ⟨-, q, l, e, -⟩ := s.offer_eq c dest
  rw [e]

theorem State.offerChange_of_home {s : State} {c : Chan} {h : HomeRec} (home : s.chan c = .home h) (ps : List Pair) :
    s.offerChange c h ps =
      let o := s.offer (.change { chan := c, value := h.value, version := h.version } ps) 0
      if o.1 = .refused then o.2.setChan c (.home { h with dirty := true }) else o.2 := by
  have kept : (s.offer (.change { chan := c, value := h.value, version := h.version } ps) 0).2.chan c = .home h :=
    (State.chan_congr (s.offer_channels _ _) c).trans home
  exact if_congr Iff.rfl (State.modifyHome_of_home kept _) rfl

theorem State.apply_eq {s : State} {c : Chan} {h : HomeRec} (op : Op) (x : Byte) (origin : Addr) (ps : List Pair) :
    s.apply c h op x origin ps =
      let applied := h.applied op x origin
      let o :=
        (((s.setChan c (.home applied)).tellOutputs c applied.value).emitMap c applied.value).offer
          (.change { chan := c, value := applied.value, version := applied.version } ps) 0
      if o.1 = .refused then o.2.setChan c (.home { applied with dirty := true }) else o.2 := by
  refine State.offerChange_of_home ((State.chan_congr (State.emitMap_channels _ _ _) c).trans ?_) ps
  exact s.chan_setChan_self c _

/-! ### The operations of Table 4-7 (R64) -/

theorem opResult_stepUp_level (v m x : Byte) :
    (opResult .level .stepUp x v m).toNat = min 255 (v.toNat + x.toNat) := by
  show (BitVec.ofNat 8 (min 255 (v.toNat + x.toNat))).toNat = _
  rw [BitVec.toNat_ofNat, Nat.mod_eq_of_lt (by omega)]

theorem opResult_stepDown_level (v m x : Byte) :
    (opResult .level .stepDown x v m).toNat = v.toNat - x.toNat := by
  show (BitVec.ofNat 8 (v.toNat - x.toNat)).toNat = _
  rw [BitVec.toNat_ofNat, Nat.mod_eq_of_lt (by have := v.isLt; omega)]

theorem opResult_stepUp_select (v m x : Byte) :
    (opResult .select .stepUp x v m).toNat = (v.toNat + x.toNat) % 16 := by
  show (BitVec.ofNat 8 ((v.toNat + x.toNat) % 16)).toNat = _
  rw [BitVec.toNat_ofNat, Nat.mod_eq_of_lt (by omega)]

theorem opResult_stepDown_select (v m x : Byte) :
    (opResult .select .stepDown x v m).toNat = (v.toNat + 256 - x.toNat) % 16 := by
  show (BitVec.ofNat 8 ((v.toNat + 256 - x.toNat) % 16)).toNat = _
  rw [BitVec.toNat_ofNat, Nat.mod_eq_of_lt (by omega)]

/-! ### Outputs (R163) -/

theorem LoadOutput.retarget_of_rate_zero {mode : OutputMode} (zero : mode.rate = 0) (o : LoadOutput) (v : Byte)
    (now : Time) :
    o.retarget mode v now = { o with target := mode.target v, duty := mode.target v, stepAt := none } :=
  if_pos zero

theorem LoadOutput.retarget_of_same {mode : OutputMode} {o : LoadOutput} {v : Byte} (fades : mode.rate ≠ 0)
    (same : mode.target v = o.duty) (now : Time) :
    o.retarget mode v now = { o with target := mode.target v, stepAt := none } :=
  (if_neg fades).trans (if_pos same)

theorem LoadOutput.retarget_of_other {mode : OutputMode} {o : LoadOutput} {v : Byte} (fades : mode.rate ≠ 0)
    (other : mode.target v ≠ o.duty) (now : Time) :
    o.retarget mode v now =
      { o with target := mode.target v, stepAt := some (o.stepAt.getD (now + 20 * ms)) } :=
  (if_neg fades).trans (if_neg other)

theorem OutputMode.target_eq (mode : OutputMode) (v : Byte) :
    mode.target v =
      match mode with
      | .switch => if v = 0 then 0 else 255
      | .dim _ => v
      | .matched m => if v = m then 255 else 0 := by
  cases mode <;> rfl

theorem OutputMode.rate_eq_zero_iff (mode : OutputMode) :
    mode.rate = 0 ↔
      match mode with
      | .dim rate => rate = 0
      | _ => True := by
  cases mode with
  | dim r => exact Iff.rfl
  | switch | matched => exact iff_of_true rfl trivial

/-! ### CHANNEL actions (R66, R149, R150) -/

theorem State.perform_channel {b : Binding} {c : Chan} {op : Op} {x : Byte} (action : b.action = .channel c op x)
    (s : State) : s.perform b = s.channelAction c op x := by
  unfold State.perform
  rw [action]

theorem State.localOp_of_good {s : State} {c : Chan} {op : Op} {x : Byte} {h : HomeRec} (home : s.chan c = .home h)
    (good : h.state = .live ∧ opValid h.kind op x = true) : s.localOp c op x = (true, s.apply c h op x 0 []) := by
  rw [State.localOp, home]
  exact if_pos good

theorem State.localOp_of_bad {s : State} {c : Chan} {op : Op} {x : Byte} {h : HomeRec} (home : s.chan c = .home h)
    (bad : ¬(h.state = .live ∧ opValid h.kind op x = true)) : s.localOp c op x = (false, s) := by
  rw [State.localOp, home]
  exact if_neg bad

theorem State.channelAction_of_home {s : State} {c : Chan} {h : HomeRec} (home : s.chan c = .home h) (op : Op)
    (x : Byte) : s.channelAction c op x = (s.localOp c op x).2 := by
  unfold State.channelAction
  rw [home]

/-- Settles O29. -/
theorem operationIsApplied : Obligations.OperationIsApplied := by
  refine ⟨fun s c h op x origin ps home => ?_, fun k v m x => ⟨?_, rfl, rfl, rfl, opResult_stepUp_level v m x,
    opResult_stepDown_level v m x, opResult_stepUp_select v m x, ?_, ?_⟩, fun x => ?_, fun s c v => ?_,
    fun o mode v now => ?_, fun s c v => ?_, fun s b c op x action => ?_⟩
  · exact s.apply_eq op x origin ps
  · cases k <;> rfl
  · rw [opResult_stepDown_select]
    have := x.isLt
    omega
  · rw [opResult_stepDown_select]
    exact Nat.mod_lt _ (by decide)
  · refine ⟨decide_eq_true_iff, rfl, decide_eq_true_iff, rfl, rfl, rfl, ?_⟩
    rintro op (rfl | rfl)
    · exact ⟨rfl, bne_iff_ne, bne_iff_ne⟩
    · exact ⟨rfl, bne_iff_ne, bne_iff_ne⟩
  · refine ⟨_, rfl, fun i => (State.tellOutputs_load s c v i).trans ?_⟩
    cases (s.outputs.loads[i]).map <;> rfl
  · intro target atOnce
    have ht : mode.target v = target := mode.target_eq v
    have hr : mode.rate = 0 ↔ atOnce := mode.rate_eq_zero_iff
    rw [← ht, ← hr]
    exact ⟨fun zero => LoadOutput.retarget_of_rate_zero zero o v now, fun fades same =>
      LoadOutput.retarget_of_same fades same now, fun fades other => LoadOutput.retarget_of_other fades other now⟩
  · refine congrArg (fun f => s.outputs.emitMap.foldl f s) ?_
    funext u e
    exact State.emitEntry_eq c v u e
  · rw [State.perform_channel action]
    refine ⟨fun h home live valid => ?_, fun h home bad => ?_, fun unused => ?_, fun m mirror => ?_⟩
    · rw [State.channelAction_of_home home, State.localOp_of_good home ⟨live, valid⟩]
    · rw [State.channelAction_of_home home, State.localOp_of_bad home bad]
    · unfold State.channelAction
      rw [unused]
      dsimp only
      rw [State.localOp, unused]
    · unfold State.channelAction
      rw [mirror]

end Sys2Proof.Machine
end

section
/-! PROOFS. The evidence of a peer: O37. -/

namespace Sys2Proof.Machine

/-! ### Frames behind their evidence (R15, R16) -/

section

variable {c : Instr} {kind : BitVec 4} {rx : Rx} {s : State}

theorem State.Awake.evidence_free (awake : s.Awake) (dt : Moment) (k : Counter) (src : Addr) (i : Byte)
    (p : Option Byte) : (((s.advance dt).bump k).evidence src i p).2.rival = 0 :=
  (State.evidence_quiet (s := (s.advance dt).bump k) src i p ⟨awake.2.2.1, awake.2.2.2.1⟩).1

/-- A taken frame is handed on behind its evidence. -/
theorem exec_taken_evidence (row : frameRow c = some (kind, rx)) (awake : s.Awake) (taken : s.HearsTaken kind rx) :
    let f := frameOf kind rx
    let ev := ((s.advance (moment c)).bump .framesTaken).evidence rx.source rx.incarnation f.period?
    exec c s = .next (State.takenHeard f ev.1 ev.2).settle := by
  intro f ev
  rw [exec_frameRow row awake, State.receive_of_taken (taken.advance _)]
  exact congrArg (fun t : State => Host.Outcome.next t.settle)
    (State.takenFrame_of_evidence (f := f) rfl (awake.evidence_free _ _ _ _ _))

/-- A malformed frame with a source is answered behind its evidence. -/
theorem exec_malformed_evidence (row : frameRow c = some (kind, rx)) (awake : s.Awake) (valid : s.HearsValid kind rx)
    (malformed : wellFormed s.channels.records (frameOf kind rx) = false) (source : rx.source ≠ 0) :
    let f := frameOf kind rx
    let ev := ((s.advance (moment c)).bump .framesMalformed).evidence rx.source rx.incarnation none
    exec c s = .next (State.malformedHeard f ev.1 ev.2).settle := by
  intro f ev
  rw [exec_frameRow row awake, State.receive_of_malformed (valid.advance _) malformed]
  exact congrArg (fun t : State => Host.Outcome.next t.settle)
    (State.malformedFrame_of_evidence (f := f) source rfl (awake.evidence_free _ _ _ _ _))

end

/-! ### The record and the claims (R40 to R43, R62, R88) -/

section

variable {s : State} {src : Addr} {i : Byte} {p : Option Byte}

theorem State.evidence_of_deaf (deaf : s.start.state.hearsPeers = false) : s.evidence src i p = (false, s) :=
  if_pos deaf

theorem PeerRec.becomesPresent_eq (r : PeerRec) (i : Byte) :
    r.becomesPresent i = decide (i ≠ 0 ∧ r.presence ≠ .present) := by
  rw [Bool.eq_iff_iff, decide_eq_true_iff, PeerRec.becomesPresent, Bool.and_eq_true, bne_iff_ne, bne_iff_ne]

theorem PeerRec.heard_eq (r : PeerRec) (i : Byte) (p : Option Byte) (now : Time) :
    let period := if p.isSome = true then p else r.period
    r.heard i p now =
      { r with
        presence := if i = 0 then .joining else .present
        incarnation := if i = 0 then r.incarnation else i
        period := period
        silentAt :=
          some
            (now +
              match period with
              | some b => 300 * b.toNat * ms
              | none => 12000 * ms) } := by
  have silence (q : Option Byte) : silenceTime q =
      match q with
      | some b => 300 * b.toNat * ms
      | none => 12000 * ms := by
    cases q <;> rfl
  cases p with
  | none => exact congrArg (fun t => { r with
        presence := if i = 0 then .joining else .present
        incarnation := if i = 0 then r.incarnation else i
        silentAt := some (now + t) }) (silence r.period)
  | some b => rfl

theorem PeerRec.rejoins_iff {r : PeerRec} (given : i ≠ 0) :
    r.rejoins i = true ↔ r.incarnation ≠ 0 ∧ r.incarnation ≠ i := by
  rw [PeerRec.rejoins, Bool.and_eq_true, Bool.and_eq_true, bne_iff_ne, bne_iff_ne, bne_iff_ne, and_iff_right given]

theorem State.peerClaims_eq (s : State) (src : Addr) (r : PeerRec) (i : Byte) :
    s.peerClaims src r i =
      if i = 0 then (s.staleClaim src none).cancelRequests src
      else if r.incarnation ≠ 0 ∧ r.incarnation ≠ i then (s.staleClaim src (some i)).cancelRequests src
      else s := by
  unfold State.peerClaims
  by_cases given : i = 0
  · exact (if_pos given).trans (if_pos given).symm
  · exact (if_neg given).trans ((if_congr (PeerRec.rejoins_iff given) rfl rfl).trans (if_neg given).symm)

theorem State.evidence_of_other (hears : s.start.state.hearsPeers = true) (other : src ≠ s.start.ownAddress) :
    s.evidence src i p =
      ((s.peer src).becomesPresent i,
        (s.setPeer src ((s.peer src).heard i p s.now)).peerClaims src (s.peer src) i) := by
  rw [State.evidence, if_neg (by rw [hears]; exact nofun), if_neg other]

/-- What a part of an event does, or owes behind the rivals of the event. -/
theorem State.thenDo_eq (s : State) (o : Owing) (part : State → State) :
    s.thenDo o part = if s.rival ≠ 0 ∧ s.owed ≠ [] then { s with owed := s.owed ++ [o] } else part s := by
  unfold State.thenDo
  exact if_congr s.behind_iff rfl rfl

theorem State.cancelTags_some {ts : List Byte} (n : Nat) (s : State) (several : 2 ≤ ts.length) :
    ∃ t ∈ ts,
      State.cancelTags (n + 1) ts s =
        (({ s with draws := s.draws + 1 } : State).endRequest t .cancelled).thenDo (.cancels (ts.filter (· ≠ t)))
          (State.cancelTags n (ts.filter (· ≠ t))) := by
  match ts, several with
  | t :: u :: ts, _ =>
    have chosen : Config.order s.draws % (ts.length + 2) < (t :: u :: ts).length := Nat.mod_lt _ (Nat.succ_pos _)
    refine ⟨(t :: u :: ts).getD (Config.order s.draws % (ts.length + 2)) t, ?_, rfl⟩
    rw [List.getD_eq_getElem _ _ chosen]
    exact List.getElem_mem chosen

theorem State.cancelRequests_eq (s : State) {src : Addr} {tags : List Byte}
    (those : (s.requests.entries.filter fun e => e.owner == src).map ReqEntry.tag = tags) :
    s.cancelRequests src = State.cancelTags tags.length tags s := by
  rw [← those]
  rfl

end

/-! ### The hand-over, with a notice (R46, R75) -/

section

variable {s : State} {f : Frame}

theorem State.handFrame_of_hearing (hears : s.start.state.hearsPeers = true) (notice : Bool) :
    s.handFrame f notice = s.handOver f notice := by
  unfold State.handFrame
  revert hears
  cases s.start.state with
  | listening | joining | active => exact fun _ => rfl
  | loading | configFault | addressConflict => exact nofun

theorem kindJudged_iff (k : BitVec 4) :
    kindJudged k.toNat = true ↔ k ∈ [kindAnnounce, kindChange, kindState] := by
  revert k
  decide

/-- From a frame of these kinds to another station no block takes anything. -/
theorem State.handByKind_of_other (other : f.destination ≠ s.start.ownAddress)
    (addressed : f.kind ∈ [kindRequest, kindFetch, kindRecallReply, kindQuery, kindRestart]) :
    s.handByKind f = (false, s) := by
  have not : ¬s.isMine f = true := by
    rw [State.isMine_of_other other]
    exact nofun
  unfold State.handByKind
  simp only [List.mem_cons, List.not_mem_nil, or_false] at addressed
  rcases addressed with h | h | h | h | h
  all_goals
    rw [h]
    exact if_neg not

theorem State.handOver_judged (judged : f.kind ∈ [kindAnnounce, kindChange, kindState]) :
    s.handOver f true =
      ((s.handByKind f).1, (s.handByKind f).2.thenDo (.fetch f.source) fun s => s.fetchDecision f.source) := by
  unfold State.handOver
  rw [(kindJudged_iff _).2 judged]
  rfl

theorem State.handOver_query (query : f.kind = kindQuery) :
    s.handOver f true = (s.fetchDecision f.source).handByKind f := by
  unfold State.handOver
  rw [query]
  rfl

theorem State.handOver_of_no_fetch (plain : f.kind ∉ [kindAnnounce, kindChange, kindState])
    (asks : s.wouldFetch f.source = false) : s.handOver f true = s.handByKind f := by
  unfold State.handOver
  rw [if_neg fun h => plain ((kindJudged_iff _).1 h)]
  by_cases query : f.kind = kindQuery
  · refine (if_pos query).trans (congrArg (State.handByKind · f) ((if_pos rfl).trans ?_))
    refine State.fetchDecision_of_not ?_
    rw [asks]
    exact nofun
  · refine (if_neg query).trans (if_neg ?_)
    rw [asks]
    exact nofun

/-- Where the manual leaves the order open, a free choice takes it. -/
theorem State.handOver_fetching (plain : f.kind ∉ [kindAnnounce, kindChange, kindState]) (other : f.kind ≠ kindQuery)
    (asks : s.wouldFetch f.source = true) :
    let d : State := { s with draws := s.draws + 1 }
    s.handOver f true = (d.fetchDecision f.source).handByKind f
      ∨ s.handOver f true = ((d.handByKind f).1, (d.handByKind f).2.fetchDecision f.source) := by
  intro d
  unfold State.handOver
  rw [if_neg fun h => plain ((kindJudged_iff _).1 h), if_neg other, if_pos (by rw [asks]; rfl)]
  by_cases even : Config.order s.draws % 2 = 0
  · exact .inl (if_pos even)
  · exact .inr (if_neg even)

end

/-- Settles O37. -/
theorem evidenceOfAPeer : Obligations.EvidenceOfAPeer := by
  refine ⟨?_, ?_, fun s src except => ⟨_, rfl, fun ch => ?_⟩, fun s src => ⟨?_, ?_, rfl⟩, fun n ts s several => ?_,
    fun s f => ?_, ?_⟩
  · intro c s kind rx row awake f
    exact ⟨fun taken => exec_taken_evidence row awake taken,
      fun valid malformed source => exec_malformed_evidence row awake valid malformed source⟩
  · intro s src i p r period heard
    refine ⟨fun deaf => State.evidence_of_deaf deaf, fun hears other => ?_⟩
    have evidence := State.evidence_of_other (i := i) (p := p) hears other
    rw [State.peerClaims_eq, PeerRec.becomesPresent_eq, PeerRec.heard_eq] at evidence
    exact evidence
  · exact (State.chan_staleClaim s src except ch).trans (by unfold Record.staleClaim; cases s.chan ch <;> rfl)
  · intro none
    exact s.cancelRequests_eq none
  · intro t one
    exact s.cancelRequests_eq one
  · obtain ⟨t, mem, eq⟩ := State.cancelTags_some n s several
    exact ⟨t, mem, eq.trans (State.thenDo_eq _ _ _)⟩
  · exact State.thenDo_eq _ _ _
  · intro s f hears h fetched
    rw [State.handFrame_of_hearing hears]
    refine ⟨fun mem other => State.handByKind_of_other other mem, fun judged => ?_, State.handOver_query,
      State.handOver_of_no_fetch, fun other asks => ?_⟩
    · rw [State.handOver_judged judged, State.thenDo_eq]
    · have plain : f.kind ∉ [kindAnnounce, kindChange, kindState] ∧ f.kind ≠ kindQuery := by
        simpa [and_assoc] using other
      exact State.handOver_fetching plain.1 plain.2 asks

end Sys2Proof.Machine
end

section
/-! PROOFS. A RECALL: O31. -/

namespace Sys2Proof.Machine

section

variable {s : State} {src : Addr} {i j : Byte} {p : Option Byte}

/-- Evidence from another station leaves the Start Controller. -/
theorem State.evidence_start (other : src ≠ s.start.ownAddress) : (s.evidence src i p).2.start = s.start := by
  have noted : (s.noted src i p).start = s.start := by
    unfold State.noted
    dsimp only
    split
    · rfl
    · split <;> rfl
  rcases s.evidence_cases src i p with ⟨same, -⟩ | ⟨-, ⟨-, own⟩ | ⟨-, same | cancelled⟩⟩
  · rw [same]
  · exact absurd own other
  · rw [same, noted]
  · rw [cancelled, (State.cancelRequests_acts _ _).start, noted]

/-- The RECALL REPLY entries of one that may answer (R79, R113). -/
theorem State.recalled_eq (s : State) (src : Addr) (listed : List Chan) :
    let j := (s.peer src).incarnation
    s.recalled src listed =
      if (s.start.state = .joining ∨ s.start.state = .active) ∧ j ≠ 0 then
        s.offerAll src (s.recallAnswers src j listed)
      else s := by
  have onLine (st : StationState) : st.onTheLine = true ↔ st = .joining ∨ st = .active := by
    cases st <;> decide
  exact if_congr (and_congr_left' (onLine _)) rfl rfl

theorem State.recallAnswers_eq (s : State) (src : Addr) (j : Byte) (listed : List Chan) :
    let held :=
      (List.finRange 64).filter fun c =>
        listed.contains c
          && match s.chan c with
            | .mirror m => m.owner == src && m.state != .unknown && m.heldIncarnation == j
            | _ => false
    s.recallAnswers src j listed =
      if held = [] then [.recallReply j []] else (pieces 3 held).map fun cs => .recallReply j cs := by
  intro held
  have chans : (s.chansWhere fun r => r.mirrorOf src (MirrorRec.reports j)).filter listed.contains = held := by
    rw [State.chansWhere, indicesV, List.filter_filter]
    refine List.filter_congr fun c _ => congrArg (listed.contains c && ·) ?_
    show (s.chan c).mirrorOf src (MirrorRec.reports j) = _
    cases s.chan c with
    | mirror m => exact (Bool.and_assoc _ _ _).symm
    | unused | home => rfl
  rw [State.recallAnswers, chans]
  exact if_congr List.isEmpty_iff rfl rfl

/-- A taken RECALL is handed to the Recall Answerer, and answered TAKEN. -/
theorem State.handByKind_recall {f : Frame} (kind : f.kind = kindRecall) :
    s.handByKind f = (true, s.recalled f.source (f.body.map chanOf)) := by
  unfold State.handByKind
  rw [kind]
  rfl

/-- A record that becomes JOINING gives no notice. -/
theorem State.evidence_of_joining (hears : s.start.state.hearsPeers = true) (other : src ≠ s.start.ownAddress) :
    s.evidence src 0 none =
      (false,
        ((s.setPeer src
          { s.peer src with
            presence := .joining
            silentAt := some (s.now + silenceTime (s.peer src).period) }).staleClaim src none).cancelRequests src) :=
  State.evidence_of_other hears other

theorem State.cancelRequests_of_none (none : ∀ e ∈ s.requests.entries, e.owner ≠ src) : s.cancelRequests src = s := by
  refine s.cancelRequests_eq (tags := []) ?_
  rw [List.map_eq_nil_iff, List.filter_eq_nil_iff]
  exact fun e mem h => none e mem (beq_iff_eq.1 h)

end

section

variable {s : State} {dt : Moment} {rx : Rx}

/-- A taken RECALL behind its evidence, from what its hand-over gives. -/
theorem exec_recall {t u : State} {notice : Bool} (awake : s.Awake) (taken : s.HearsTaken kindRecall rx)
    (evidence : ((s.advance dt).bump .framesTaken).evidence rx.source rx.incarnation none = (notice, u))
    (hears : u.start.state.hearsPeers = true)
    (handed : u.handOver (frameOf kindRecall rx) notice = (true, t)) :
    exec (.recall dt rx) s = .next (t.answering (frameOf kindRecall rx) (.taken true)).settle := by
  refine (exec_taken_evidence (c := .recall dt rx) rfl awake taken).trans ?_
  have heard : State.takenHeard (frameOf kindRecall rx) notice u =
      t.answering (frameOf kindRecall rx) (.taken true) := by
    rw [State.takenHeard, State.handFrame_of_hearing hears, handed]
  rw [← heard]
  exact congrArg (fun ev => Host.Outcome.next (State.takenHeard (frameOf kindRecall rx) ev.1 ev.2).settle) evidence

end

/-- Settles O31. -/
theorem recallIsAnswered : Obligations.RecallIsAnswered := by
  refine ⟨?_, State.recallAnswers_eq⟩
  intro s dt rx awake taken hears other f answers joining ev
  have recalled (u : State) (start : u.start = s.start) : u.handByKind f = (true, answers u) := by
    have answered := u.recalled_eq rx.source (rx.body.map chanOf)
    rw [start] at answered
    exact (State.handByKind_recall rfl).trans (congrArg _ answered)
  have unjudged : f.kind ∉ [kindAnnounce, kindChange, kindState] := (by decide : kindRecall ∉ _)
  have start : ev.2.start = s.start := State.evidence_start (s := (s.advance dt).bump .framesTaken) other
  have hearsEv : ev.2.start.state.hearsPeers = true := by rw [start, hears]
  have plain (u : State) (start : u.start = s.start) (notice : Bool)
      (no : notice = false ∨ u.wouldFetch rx.source = false) : u.handOver f notice = (true, answers u) := by
    cases notice with
    | false => exact (State.handOver_plain rfl).trans (recalled u start)
    | true => exact (State.handOver_of_no_fetch unjudged (no.resolve_left nofun)).trans (recalled u start)
  have unheard (zero : rx.incarnation = 0) : ev = (false, joining.cancelRequests rx.source) := by
    show ((s.advance dt).bump .framesTaken).evidence rx.source rx.incarnation none = _
    rw [zero]
    exact State.evidence_of_joining (s := (s.advance dt).bump .framesTaken) hears other
  have quiet (no : ev.1 = false ∨ ev.2.wouldFetch rx.source = false) :
      exec (.recall dt rx) s = .next ((answers ev.2).answering f (.taken true)).settle :=
    exec_recall awake taken rfl hearsEv (plain _ start _ no)
  refine ⟨fun zero => ?_, fun zero none => ?_, fun knows => ?_, quiet, fun notice asks => ?_⟩
  · have next := quiet (.inl (by rw [unheard zero]))
    rwa [unheard zero] at next
  · have next := quiet (.inl (by rw [unheard zero]))
    rwa [unheard zero, State.cancelRequests_of_none (s := joining) none] at next
  · have known : ev = (false, (s.advance dt).heardFrom f) :=
      State.evidence_of_known (s := (s.advance dt).bump .framesTaken) knows none
    have next := quiet (.inl (by rw [known]))
    rwa [known] at next
  · intro d
    have decided : (d.fetchDecision rx.source).start = s.start := (State.fetchDecision_start _ _).trans start
    rcases State.handOver_fetching unjudged (by decide : kindRecall ≠ kindQuery) asks with before | behind
    · refine .inl (exec_recall awake taken (Prod.ext notice rfl) hearsEv (before.trans ?_))
      exact recalled _ decided
    · refine .inr (exec_recall awake taken (Prod.ext notice rfl) hearsEv (behind.trans ?_))
      rw [recalled d start]
      rfl

end Sys2Proof.Machine
end

section
/-! PROOFS. A RECALL REPLY and the merge: O32. -/

namespace Sys2Proof.Machine

theorem State.handByKind_recallReply {s : State} {f : Frame} (reply : f.kind = kindRecallReply)
    (mine : s.isMine f = true) :
    s.handByKind f = s.recallReplied (byteAt f.body 0) (triplesOf kindRecallReply f.body) := by
  unfold State.handByKind
  rw [reply]
  exact if_pos mine

theorem State.recallReplied_joining {s : State} {k : Collection} (joining : s.start.state = .joining)
    (collects : s.start.collection = some k) (j : Byte) (ts : List Triple) :
    s.recallReplied j ts =
      (true, { s with start := { s.start with collection := some (k.merge s.homeChans j ts) } }) := by
  rw [State.recallReplied, collects]
  exact if_pos joining

theorem State.recallReplied_late {s : State} (late : s.start.collection = none) (j : Byte) (ts : List Triple) :
    s.recallReplied j ts = (false, s.bump .lateRecallReplies) := by
  rw [State.recallReplied, late]

theorem later_iff (a b : Byte) :
    later a b = true ↔ 1 ≤ (a.toNat + 255 - b.toNat) % 255 ∧ (a.toNat + 255 - b.toNat) % 255 ≤ 127 :=
  decide_eq_true_iff

/-- A triple is kept where its channel is HOME here and none as new is held (R110). -/
theorem Collection.keep_eq (homes : List Chan) (c : Collection) (x : Triple) :
    c.keep homes x =
      if x.chan ∈ homes then
        match c.triples.find? fun u => u.chan == x.chan with
        | none => { c with triples := c.triples ++ [x] }
        | some u =>
          if 1 ≤ (x.version - u.version).toNat ∧ (x.version - u.version).toNat ≤ 2047 then
            { c with triples := modifyFirst (fun y => y.chan == x.chan) (fun _ => x) c.triples }
          else c
      else c := by
  unfold Collection.keep
  refine if_congr List.contains_iff_mem ?_ rfl
  cases c.triples.find? fun u => u.chan == x.chan with
  | none => rfl
  | some u => exact if_congr (newer_iff _ _) rfl rfl

theorem Collection.merge_eq (k : Collection) (homes : List Chan) (j : Byte) (xs : List Triple) :
    let gap := (j.toNat + 255 - k.latest.toNat) % 255
    k.merge homes j xs =
      if k.latest = 0 ∨ (1 ≤ gap ∧ gap ≤ 127) then xs.foldl (Collection.keep homes) { latest := j, triples := [] }
      else if j = k.latest then xs.foldl (Collection.keep homes) k
      else k :=
  if_congr (or_congr_right (later_iff _ _)) rfl rfl

/-- Settles O32. -/
theorem recallReplyIsCollected : Obligations.RecallReplyIsCollected := by
  refine ⟨?_, ?_⟩
  · intro s dt rx awake knows taken heard
    have own (here : rx.destination = s.start.ownAddress) : heard.isMine (frameOf kindRecallReply rx) = true :=
      State.isMine_of_own here (taken.addressed rfl)
    refine ⟨fun k here joining collects => ?_, fun here late => ?_, fun other => ?_⟩
    · refine (exec_handed (c := .recallReply dt rx) rfl rfl awake knows taken rfl
        ((State.handByKind_recallReply (s := heard) rfl (own here)).trans ?_)).trans
        (congrArg Host.Outcome.next (State.settle_of_not_evicted awake.2.1))
      exact State.recallReplied_joining (s := heard) joining collects _ _
    · refine (exec_handed (c := .recallReply dt rx) rfl rfl awake knows taken rfl
        ((State.handByKind_recallReply (s := heard) rfl (own here)).trans ?_)).trans
        (congrArg Host.Outcome.next (State.settle_of_not_evicted awake.2.1))
      exact State.recallReplied_late (s := heard) late _ _
    · refine exec_overheard (c := .recallReply dt rx) rfl rfl awake knows taken rfl rfl other fun not => ?_
      exact if_neg (by rw [not]; exact nofun)
  · intro k homes j xs gap keep
    have kept : Collection.keep homes = keep := funext₂ (Collection.keep_eq homes)
    rw [← kept]
    exact k.merge_eq homes j xs

end Sys2Proof.Machine
end

section
/-! PROOFS. A QUERY and a REPLY: O33. -/

namespace Sys2Proof.Machine

/-! ### The items that have contents (R172) -/

theorem State.replyContents_none_iff (s : State) (item index : Byte) :
    s.replyContents item index = none ↔
      ¬((item = 1 ∧ index = 0)
        ∨ (s.start.state ≠ .configFault
          ∧ ((item = 2 ∧ index.toNat < 64)
            ∨ (item = 3 ∧ 1 ≤ index.toNat ∧ index.toNat ≤ 31)
            ∨ (item = 4 ∧ index.toNat < 3)))) := by
  have item_of {k : Byte} (h : item.toNat = k.toNat) : item = k := BitVec.eq_of_toNat_eq h
  have zero : index.toNat = 0 ↔ index = 0 := BitVec.toNat_inj (y := 0)
  unfold State.replyContents
  dsimp only
  split
  next h =>
    obtain rfl : item = 1 := item_of h
    simp [zero]
  next h =>
    obtain rfl : item = 2 := item_of h
    by_cases fault : s.start.state = .configFault <;> simp [fault]
  next h =>
    obtain rfl : item = 3 := item_of h
    by_cases fault : s.start.state = .configFault <;> simp [fault]
  next h =>
    obtain rfl : item = 4 := item_of h
    by_cases fault : s.start.state = .configFault <;> simp [fault]
  next one two three four =>
    refine iff_of_true rfl ?_
    rintro (⟨rfl, -⟩ | ⟨-, ⟨rfl, -⟩ | ⟨rfl, -⟩ | ⟨rfl, -⟩⟩)
    · exact one rfl
    · exact two rfl
    · exact three rfl
    · exact four rfl

/-! ### The Service Responder (R172) -/

section

variable {s : State} {src : Addr} {item index : Byte} {bytes : List Byte}

theorem State.handByKind_query {f : Frame} (query : f.kind = kindQuery) (mine : s.isMine f = true) :
    s.handByKind f = s.queried f.source (byteAt f.body 0) (byteAt f.body 1) := by
  unfold State.handByKind
  rw [query]
  exact if_pos mine

/-- A QUERY is declined in LISTENING, and where the item has no contents. -/
theorem State.queried_of_nothing (nothing : s.start.state = .listening ∨ s.replyContents item index = none) :
    s.queried src item index = (false, s) := by
  unfold State.queried
  by_cases listening : s.start.state = .listening
  · exact if_pos listening
  · rw [if_neg listening, nothing.resolve_left listening]

theorem State.queried_of_some (speaks : s.start.state ≠ .listening) (given : s.replyContents item index = some bytes) :
    s.queried src item index =
      ((s.offer (.reply (item :: index :: bytes)) src).1 == .admitted,
        (s.offer (.reply (item :: index :: bytes)) src).2) := by
  unfold State.queried
  rw [if_neg speaks, given]
  rfl

/-- With a free place, a REPLY with the contents is admitted. -/
theorem State.queried_of_room (busy : s.mayBegin = false) (speaks : s.start.state ≠ .listening)
    (sent : mayBeSent s.start.state (.reply (item :: index :: bytes)) = true)
    (given : s.replyContents item index = some bytes) (room : s.queue.entries.length < 12) :
    s.queried src item index =
      (true,
        { s with
          queue :=
            { s.queue with
              entries := s.queue.entries ++ [Entry.new (.reply (item :: index :: bytes)) src] } }) := by
  rw [State.queried_of_some speaks given, State.offer_of_not _ _ busy, TxQueue.offer_of_room rfl sent room]
  rfl

theorem State.queried_of_full (busy : s.mayBegin = false) (full : 12 ≤ s.queue.entries.length) :
    s.queried src item index = (false, s) := by
  by_cases nothing : s.start.state = .listening ∨ s.replyContents item index = none
  · exact State.queried_of_nothing nothing
  · rw [not_or] at nothing
    obtain ⟨speaks, given⟩ := nothing
    obtain ⟨bytes, given⟩ := Option.ne_none_iff_exists'.1 given
    have refused : s.queue.offer s.start.state (.reply (item :: index :: bytes)) src = (.refused, s.queue) := by
      rw [TxQueue.offer, TxQueue.take_of_plain rfl, TxQueue.placeNew_of_class (c := .reply _) full (Nat.le_succ 2), ite_self]
    rw [State.queried_of_some speaks given, State.offer_of_not _ _ busy, refused]
    rfl

end

/-! ### Frames in CONFIG_FAULT (R16, R105) -/

section

variable {c : Instr} {kind : BitVec 4} {rx : Rx} {s : State}

/-- In CONFIG_FAULT a taken frame is counted, and gives no evidence. -/
theorem exec_configFault {t : State} {b : Bool} (row : frameRow c = some (kind, rx)) (awake : s.Awake)
    (taken : s.HearsTaken kind rx) (fault : s.start.state = .configFault)
    (handed : ((s.advance (moment c)).bump .framesTaken).handFrame (frameOf kind rx) false = (b, t)) :
    exec c s = .next (t.answering (frameOf kind rx) (.taken b)).settle := by
  have deaf : s.start.state.hearsPeers = false := by
    rw [fault]
    rfl
  have evidence := State.evidence_of_deaf (s := (s.advance (moment c)).bump .framesTaken) (src := rx.source)
    (i := rx.incarnation) (p := (frameOf kind rx).period?) deaf
  refine (exec_taken_evidence row awake taken).trans ?_
  rw [evidence, State.takenHeard, handed]

theorem State.handFrame_of_fault {f : Frame} (fault : s.start.state = .configFault) (notice : Bool) :
    s.handFrame f notice =
      if s.isMine f && (f.kind == kindQuery || f.kind == kindRestart) then s.handByKind f else (false, s) := by
  unfold State.handFrame
  rw [fault]

theorem State.handFrame_of_fault_mine {f : Frame} (fault : s.start.state = .configFault)
    (service : f.kind = kindQuery ∨ f.kind = kindRestart) (mine : s.isMine f = true) (notice : Bool) :
    s.handFrame f notice = s.handByKind f := by
  rw [State.handFrame_of_fault fault, mine]
  refine if_pos ?_
  rcases service with h | h <;> rw [h] <;> rfl

theorem State.handFrame_of_fault_other {f : Frame} (fault : s.start.state = .configFault)
    (none : (f.kind ≠ kindQuery ∧ f.kind ≠ kindRestart) ∨ f.destination ≠ s.start.ownAddress) (notice : Bool) :
    s.handFrame f notice = (false, s) := by
  rw [State.handFrame_of_fault fault]
  refine if_neg ?_
  rcases none with ⟨query, restart⟩ | other
  · rw [beq_eq_false_iff_ne.2 query, beq_eq_false_iff_ne.2 restart, Bool.or_false, Bool.and_false]
    exact nofun
  · rw [State.isMine_of_other other]
    exact nofun

/-- A QUERY that is taken has two bytes (Table 1-5). -/
theorem State.HearsTaken.query_body (taken : s.HearsTaken kindQuery rx) : ∃ item index, rx.body = [item, index] := by
  have long : kindLength kindQuery.toNat rx.body.length = true :=
    ((wellFormed_iff _ _).1 taken.2).2.2.2.2.1
  exact List.length_eq_two.1 (beq_iff_eq.1 long)

end

/-- Settles O33. -/
theorem queryIsAnswered : Obligations.QueryIsAnswered := by
  refine ⟨?_, ?_, ?_⟩
  · intro c s rx item index row awake knows taken body heard
    have own (here : rx.destination = s.start.ownAddress) : heard.isMine (frameOf kindQuery rx) = true :=
      State.isMine_of_own here (taken.addressed rfl)
    have busy : heard.mayBegin = false := (taken.1.1.advance _).mayBegin
    have asked (here : rx.destination = s.start.ownAddress) :
        heard.handByKind (frameOf kindQuery rx) = heard.queried rx.source item index := by
      refine (State.handByKind_query (s := heard) rfl (own here)).trans ?_
      show heard.queried rx.source (byteAt rx.body 0) (byteAt rx.body 1) = _
      rw [body]
      rfl
    refine ⟨fun bytes here speaks given room => ?_, fun here declines => ?_, fun other => ?_⟩
    · have sent : mayBeSent s.start.state (.reply (item :: index :: bytes)) = true := by
        have hears := knows.1
        revert hears speaks
        cases s.start.state with
        | joining | active => exact fun _ _ => rfl
        | listening => exact fun speaks _ => absurd rfl speaks
        | loading | configFault | addressConflict => exact nofun
      refine (exec_handed row rfl awake knows taken rfl ((asked here).trans ?_)).trans
        (congrArg Host.Outcome.next (State.settle_of_not_evicted awake.2.1))
      exact State.queried_of_room (s := heard) busy speaks sent given room
    · refine exec_refused row rfl awake knows taken rfl ((asked here).trans ?_)
      rcases declines with listening | none | full
      · exact State.queried_of_nothing (s := heard) (.inl listening)
      · exact State.queried_of_nothing (s := heard) (.inr none)
      · exact State.queried_of_full (s := heard) busy full
    · refine exec_overheard row rfl awake knows taken rfl rfl other fun not => ?_
      exact if_neg (by rw [not]; exact nofun)
  · intro c s kind rx row awake taken fault counted
    have quiet (u : State) (even : u.queue.evicted = s.queue.evicted) : u.settle = u :=
      State.settle_of_not_evicted (even.trans awake.2.1)
    refine ⟨?_, fun none => ?_⟩
    · rintro rfl here
      have mine : counted.isMine (frameOf kindQuery rx) = true := State.isMine_of_own here (taken.addressed rfl)
      have busy : counted.mayBegin = false := (taken.1.1.advance _).mayBegin
      have handed : counted.handFrame (frameOf kindQuery rx) false =
          counted.queried rx.source (byteAt rx.body 0) (byteAt rx.body 1) :=
        (State.handFrame_of_fault_mine (s := counted) fault (.inl rfl) mine false).trans
          (State.handByKind_query rfl mine)
      have speaks : counted.start.state ≠ .listening := by
        show s.start.state ≠ _
        rw [fault]
        exact nofun
      refine ⟨fun bytes body given room => ?_, fun declines => ?_⟩
      · have sent : mayBeSent s.start.state (.reply (1 :: 0 :: bytes)) = true := by
          rw [fault]
          rfl
        rw [body] at handed
        refine (exec_configFault row awake taken fault (handed.trans ?_)).trans (congrArg Host.Outcome.next (quiet _ rfl))
        exact State.queried_of_room (s := counted) busy speaks sent given room
      · refine (exec_configFault row awake taken fault (handed.trans ?_)).trans (congrArg Host.Outcome.next (quiet _ rfl))
        rcases declines with other | full
        · refine State.queried_of_nothing (s := counted) (.inr ((State.replyContents_none_iff _ _ _).2 ?_))
          obtain ⟨item, index, body⟩ := taken.query_body
          rw [body] at other ⊢
          rintro (⟨rfl, rfl⟩ | ⟨no, -⟩)
          · exact other rfl
          · exact no fault
        · exact State.queried_of_full (s := counted) busy full
    · refine (exec_configFault row awake taken fault ?_).trans (congrArg Host.Outcome.next (quiet _ rfl))
      exact State.handFrame_of_fault_other (s := counted) fault none false
  · intro s dt rx awake knows taken
    exact exec_refused (c := .reply dt rx) rfl rfl awake knows taken rfl rfl

end Sys2Proof.Machine
end

section
/-! PROOFS. What replies carry: O34. -/

namespace Sys2Proof.Machine

section

variable (s : State)

/-- The number of records with a property, each read as its channel. -/
theorem State.countChans_eq {p : Record → Bool} {q : Chan → Bool} (same : ∀ c, p (s.chan c) = q c) :
    s.countChans p = BitVec.ofNat 8 ((List.finRange 64).countP q) := by
  have counted : (s.chansWhere p).length = (List.finRange 64).countP q := by
    rw [State.chansWhere, indicesV, ← List.countP_eq_length_filter]
    exact List.countP_congr fun c _ => by rw [show p s.channels.records[c] = q c from same c]
  rw [State.countChans, counted]

theorem State.presentCount_eq :
    s.presentCount =
      BitVec.ofNat 8
        ((List.range 31).countP fun i =>
          let a : Addr := BitVec.ofNat 5 (i + 1)
          a != s.start.ownAddress && (s.peer a).presence == .present) := by
  rw [State.presentCount, addresses, List.countP_map]
  rfl

variable {s}

theorem State.replyContents_channel (speaks : s.start.state ≠ .configFault) {b : Byte} (few : b.toNat < 64) :
    s.replyContents 2 b = some (s.channelBytes (chanOf b)) :=
  if_pos ⟨few, speaks⟩

theorem State.replyContents_peer (speaks : s.start.state ≠ .configFault) {b : Byte} (low : 1 ≤ b.toNat)
    (high : b.toNat ≤ 31) : s.replyContents 3 b = some (s.peerBytes (b.setWidth 5)) :=
  if_pos ⟨low, high, speaks⟩

theorem State.replyContents_counters (speaks : s.start.state ≠ .configFault) {b : Byte} (few : b.toNat < 3) :
    s.replyContents 4 b = some (s.counterBytes b.toNat) :=
  if_pos ⟨few, speaks⟩

theorem remaining_eq (now : Time) (deadline : Option Time) :
    remaining now deadline =
      match deadline with
      | some t => BitVec.ofNat 16 ((t - now + (10 * ms - 1)) / (10 * ms))
      | none => 0 := by
  cases deadline <;> rfl

end

/-- Settles O34. -/
theorem whatRepliesCarry : Obligations.WhatRepliesCarry := by
  refine ⟨⟨rfl, rfl, rfl, rfl, rfl, rfl, rfl⟩, fun s => ⟨?_, ?_, s.presentCount_eq⟩,
    fun s => ⟨rfl, s.replyContents_none_iff, fun speaks => ⟨?_, ?_, ?_, ?_, ?_, ?_, ?_, ?_⟩⟩⟩
  · exact s.countChans_eq fun c => by cases s.chan c <;> rfl
  · exact s.countChans_eq fun c => by cases s.chan c <;> rfl
  · intro b h few home
    rw [State.replyContents_channel speaks few, State.channelBytes, home]
    rfl
  · intro b m few mirror
    rw [State.replyContents_channel speaks few, State.channelBytes, mirror]
  · intro b few unused
    rw [State.replyContents_channel speaks few, State.channelBytes, unused]
  · intro b low high own
    rw [State.replyContents_peer speaks low high, State.peerBytes, if_pos own]
  · intro b low high other
    rw [State.replyContents_peer speaks low high, State.peerBytes, if_neg other]
    dsimp only
    rw [remaining_eq]
    rfl
  · exact State.replyContents_counters speaks (by decide)
  · exact State.replyContents_counters speaks (by decide)
  · exact State.replyContents_counters speaks (by decide)

end Sys2Proof.Machine
end

section
/-! PROOFS. A RESTART, a silence deadline and the announce timer: O35, O36 and O38. -/

namespace Sys2Proof.Machine

/-! ### A RESTART (R175, R176) -/

theorem State.handByKind_restart {s : State} {f : Frame} (restart : f.kind = kindRestart) (mine : s.isMine f = true) :
    s.handByKind f = s.restartAsked (byteAt f.body 0) := by
  unfold State.handByKind
  rw [restart]
  exact if_pos mine

theorem State.restartAsked_of_speaks {s : State} (speaks : s.start.state ≠ .listening) (target : Byte) :
    s.restartAsked target =
      if target = s.peers.ownIncarnation then
        (true, { s with service := { s.service with restart := .atTime (s.now + 3 * 100) } })
      else (false, s) :=
  if_congr (and_iff_right speaks) rfl rfl

theorem State.restartAsked_of_listening {s : State} (listening : s.start.state = .listening) (target : Byte) :
    s.restartAsked target = (false, s) :=
  if_neg fun h => h.1 listening

/-- Settles O35. -/
theorem restartIsTaken : Obligations.RestartIsTaken := by
  intro s dt rx target awake taken body heard counted pending
  have quiet (u : State) (even : u.queue.evicted = s.queue.evicted) : u.settle = u :=
    State.settle_of_not_evicted (even.trans awake.2.1)
  have asked (u : State) (same : u.start = s.start) (here : rx.destination = s.start.ownAddress) :
      u.handByKind (frameOf kindRestart rx) = u.restartAsked target := by
    have mine : u.isMine (frameOf kindRestart rx) = true :=
      State.isMine_of_own (by rw [same]; exact here) (taken.addressed rfl)
    refine (State.handByKind_restart rfl mine).trans ?_
    show u.restartAsked (byteAt rx.body 0) = _
    rw [body]
    rfl
  refine ⟨fun knows here speaks => ?_, fun knows here listening => ?_, fun knows other => ?_,
    fun here fault fresh => ?_⟩
  · have handed := (asked heard rfl here).trans (State.restartAsked_of_speaks (s := heard) speaks target)
    by_cases own : target = s.peers.ownIncarnation
    · rw [if_pos own]
      exact (exec_handed (c := .restart dt rx) rfl rfl awake knows taken rfl (handed.trans (if_pos own))).trans
        (congrArg Host.Outcome.next (quiet _ rfl))
    · rw [if_neg own]
      exact exec_refused (c := .restart dt rx) rfl rfl awake knows taken rfl (handed.trans (if_neg own))
  · exact exec_refused (c := .restart dt rx) rfl rfl awake knows taken rfl
      ((asked heard rfl here).trans (State.restartAsked_of_listening (s := heard) listening target))
  · refine exec_overheard (c := .restart dt rx) rfl rfl awake knows taken rfl rfl other fun not => ?_
    exact if_neg (by rw [not]; exact nofun)
  · have mine : counted.isMine (frameOf kindRestart rx) = true := State.isMine_of_own here (taken.addressed rfl)
    have speaks : counted.start.state ≠ .listening := by
      show s.start.state ≠ _
      rw [fault]
      exact nofun
    have handed : counted.handFrame (frameOf kindRestart rx) false =
        if target = 0 then (true, pending counted) else (false, counted) := by
      rw [State.handFrame_of_fault_mine (s := counted) fault (.inr rfl) mine, asked counted rfl here,
        State.restartAsked_of_speaks speaks]
      exact if_congr (by rw [show counted.peers.ownIncarnation = 0 from fresh]) rfl rfl
    by_cases zero : target = 0
    · rw [if_pos zero] at handed ⊢
      exact (exec_configFault (c := .restart dt rx) rfl awake taken fault handed).trans
        (congrArg Host.Outcome.next (quiet _ rfl))
    · rw [if_neg zero] at handed ⊢
      exact (exec_configFault (c := .restart dt rx) rfl awake taken fault handed).trans
        (congrArg Host.Outcome.next (quiet _ rfl))

/-! ### A silence deadline (R44) -/

theorem due_iff (now : Time) (deadline : Option Time) : due now deadline = true ↔ ∃ t, deadline = some t ∧ t ≤ now := by
  cases deadline with
  | none => exact ⟨nofun, nofun⟩
  | some t => exact decide_eq_true_iff.trans ⟨fun h => ⟨t, rfl, h⟩, fun ⟨_, e, h⟩ => Option.some.inj e ▸ h⟩

theorem State.silenceExpiry_of_due {s : State} {a : Addr} {t : Time} (hears : s.start.state.hearsPeers = true)
    (deadline : (s.peer a).silentAt = some t) (late : t ≤ s.now) :
    s.silenceExpiry a =
      (s.setPeer a { s.peer a with presence := .silent, silentAt := none }).staleClaim a none :=
  if_pos ⟨hears, (due_iff _ _).2 ⟨t, deadline, late⟩⟩

/-- A claim without an incarnation makes every FRESH mirror of the owner STALE (R62). -/
theorem Record.staleClaim_all (a : Addr) (r : Record) :
    r.staleClaim a none =
      match r with
      | .mirror m => if m.owner = a ∧ m.state = .fresh then .mirror { m with state := .stale } else .mirror m
      | r => r := by
  unfold Record.staleClaim
  cases r with
  | unused => rfl
  | home => rfl
  | mirror m => exact if_congr (and_congr_right fun _ => and_iff_left nofun) rfl rfl

/-- Settles O36. -/
theorem peerFallsSilent : Obligations.PeerFallsSilent := by
  intro s dt a t0 awake hears deadline late
  have gone := State.silenceExpiry_of_due (s := s.advance dt) hears deadline late
  refine ⟨_, event_eq awake (effect := State.silenceExpiry a) gone awake.2.1, ?_, fun b other => ?_, fun c => ?_, rfl, rfl,
    rfl, rfl, rfl, rfl, rfl, rfl, rfl, rfl, rfl, rfl, rfl, rfl, rfl, rfl, rfl⟩
  · exact State.peer_setPeer_self (s.advance dt) a _
  · exact State.peer_setPeer_ne (s.advance dt) _ other
  · refine (State.chan_staleClaim _ a none c).trans ((Record.staleClaim_all a (s.chan c)).trans ?_)
    cases s.chan c <;> rfl

/-! ### The announce timer (R48) -/

theorem TxQueue.offer_announce (q : TxQueue) {st : StationState} (sent : mayBeSent st .announce = true) :
    (q.offer st .announce 0).2 =
      if q.entries.any (fun e => e.content.isAnnounce) = true ∨ 12 ≤ q.entries.length then q
      else { q with entries := q.entries ++ [Entry.new .announce 0] } := by
  rw [TxQueue.offer, if_pos sent, TxQueue.take_announce]
  by_cases present : q.entries.any (fun e => e.content.isAnnounce) = true
  · rw [if_pos present, if_pos (.inl present)]
  · rw [if_neg present]
    by_cases room : q.entries.length < 12
    · rw [TxQueue.placeNew_of_room room, if_neg (not_or_intro present (Nat.not_le.2 room))]
      rfl
    · have full := Nat.not_lt.1 room
      rw [TxQueue.placeNew_of_class (c := .announce) full (Nat.le_refl 2), if_pos (.inr full)]

theorem State.beginAt_evicted (s : State) (i : Nat) : (s.beginAt i).queue.evicted = s.queue.evicted := by
  unfold State.beginAt
  split
  · split <;> rfl
  · rfl

theorem State.offer_evicted (s : State) (c : Content) (dest : Addr) :
    (s.offer c dest).2.queue.evicted = (s.queue.offer s.start.state c dest).2.evicted := by
  rw [State.offer_snd]
  split
  · exact State.beginAt_evicted _ _
  · rfl

theorem State.announceExpiry_of_due {s : State} {t : Time} (active : s.start.state = .active)
    (timer : s.peers.announceAt = some t) (late : t ≤ s.now) : s.announceExpiry = s.offerAnnounce :=
  if_pos ⟨active, (due_iff _ _).2 ⟨t, timer, late⟩⟩

/-- Settles O38. -/
theorem announceIsOffered : Obligations.AnnounceIsOffered := by
  intro s dt t0 awake active at_ late timer
  have sent : mayBeSent (s.advance dt).start.state .announce = true := by
    show mayBeSent s.start.state .announce = true
    rw [active]
    rfl
  have queue := TxQueue.offer_announce s.queue sent
  have next : exec (.announceTimerExpiry dt) s = .next { ((s.advance dt).offer .announce 0).2 with peers := timer } := by
    refine event_eq awake (effect := State.announceExpiry) ?_ ?_
    · refine (State.announceExpiry_of_due (s := s.advance dt) active at_ late).trans
        ((s.advance dt).offerAnnounce_eq.trans ?_)
      rw [((s.advance dt).offer_acts .announce 0).peers]
      rfl
    · refine (State.offer_evicted _ _ _).trans ((congrArg TxQueue.evicted queue).trans ?_)
      rw [apply_ite TxQueue.evicted]
      exact (ite_self _).trans awake.2.1
  refine ⟨next, fun busy => next.trans ?_⟩
  have idle : (s.advance dt).mayBegin = false := by
    rw [Bool.eq_false_iff, ne_eq, State.mayBegin_iff, State.advance_condition]
    exact fun h => busy h.1
  rw [State.offer_of_not _ _ idle]
  exact congrArg (fun q => Host.Outcome.next { s.advance dt with queue := q, peers := timer }) queue

end Sys2Proof.Machine
end

section
/-! PROOFS. An issue of a request: O39. -/

namespace Sys2Proof.Machine

/-! ### The next free tag (R81) -/

/-- The fresh tag stands behind values that entries hold. -/
theorem RequestTable.freshTag_behind (r : RequestTable) :
    ∃ k : Nat, k ≤ 8 ∧ (∀ j, j < k → ∃ e ∈ r.entries, e.tag = r.tagCounter + BitVec.ofNat 8 j)
      ∧ r.freshTag = r.tagCounter + BitVec.ofNat 8 k := by
  unfold RequestTable.freshTag
  rw [List.find?_map]
  cases found : (List.range (requestTableSize + 1)).find?
      ((fun t => !r.entries.any fun e => e.tag == t) ∘ fun i => r.tagCounter + BitVec.ofNat 8 i) with
  | none => exact ⟨0, Nat.zero_le _, nofun, (BitVec.add_zero _).symm⟩
  | some k =>
    obtain ⟨-, few, before⟩ := List.find?_range_eq_some.1 found
    refine ⟨k, Nat.le_of_lt_succ (List.mem_range.1 few), fun j below => ?_, rfl⟩
    have held := before j below
    rw [Bool.not_eq_true', Function.comp, Bool.not_eq_false', List.any_eq_true] at held
    obtain ⟨e, mem, tag⟩ := held
    exact ⟨e, mem, beq_iff_eq.1 tag⟩

/-! ### The checks of Table 5-2 -/

section

variable {s : State} {c : Chan} {owner : Addr} {op : Op} {x : Byte} {o : Originator}

/-- A request that fails is counted, and every indicator mapped to its channel flashes (R90, R93, R169). -/
theorem State.requestFailed_eq (s : State) (c : Chan) :
    s.requestFailed c =
      { s with
        service := { s.service with counters := s.service.counters.inc .requestsFailed }
        indicators :=
          { s.indicators with
            indicators :=
              mapV
                (fun i =>
                  match i.map with
                  | .channel d _ => if d = c then { i with flash := some (s.now + 600 * ms) } else i
                  | _ => i)
                s.indicators.indicators } } := by
  have flashed (i : Indicator) :
      (if i.map.isChannel c then { i with flash := some (s.now + flashTime) } else i) =
        match i.map with
        | .channel d _ => if d = c then { i with flash := some (s.now + 600 * ms) } else i
        | _ => i := by
    cases i.map with
    | channel d v => exact if_congr beq_iff_eq rfl rfl
    | _ => rfl
  exact congrArg
    (fun f : Indicator → Indicator =>
      { s.bump .requestsFailed with
        indicators := { s.indicators with indicators := mapV f s.indicators.indicators } })
    (funext flashed)

theorem State.issue_of_inactive (inactive : s.start.state ≠ .active) :
    s.issue c owner op x o = (.busy, s.requestFailed c) :=
  if_pos inactive

theorem State.issue_of_absent (active : s.start.state = .active) (absent : (s.peer owner).presence ≠ .present) :
    s.issue c owner op x o = (.ownerAbsent, s.requestFailed c) :=
  (if_neg (not_not.2 active)).trans (if_pos absent)

theorem State.issue_of_full (active : s.start.state = .active) (present : (s.peer owner).presence = .present)
    (full : 8 ≤ s.requests.entries.length) : s.issue c owner op x o = (.busy, s.requestFailed c) :=
  (if_neg (not_not.2 active)).trans ((if_neg (not_not.2 present)).trans (if_pos full))

/-- With a free place in the table, the queue answers. -/
theorem State.issue_of_place (active : s.start.state = .active) (present : (s.peer owner).presence = .present)
    (place : s.requests.entries.length < 8) :
    let offered := s.offer (.request s.requests.freshTag c op (if op = .toggle then 0 else x)) owner
    s.issue c owner op x o =
      if offered.1 = .admitted then
        (.made s.requests.freshTag, { offered.2 with requests := s.requests.make c op x owner o })
      else (.busy, offered.2.requestFailed c) := by
  intro offered
  obtain ⟨-, q, l, e, -⟩ := s.offer_eq (.request s.requests.freshTag c op (sentOperand op x)) owner
  have kept : offered.2.requests = s.requests := (congrArg State.requests e :)
  refine (if_neg (not_not.2 active)).trans ((if_neg (not_not.2 present)).trans
    ((if_neg (Nat.not_le.2 place : ¬requestTableSize ≤ _)).trans ?_))
  show (if offered.1 = .admitted then
      (.made s.requests.freshTag, { offered.2 with requests := offered.2.requests.make c op x owner o })
    else (.busy, offered.2.requestFailed c) : IssueAnswer × State) = _
  rw [kept]

end

/-- Settles O39. -/
theorem requestIsIssued : Obligations.RequestIsIssued := by
  intro s c owner op x o failed
  have fails (u : State) : u.requestFailed c = failed u := u.requestFailed_eq c
  refine ⟨fun inactive => ?_, fun active absent => ?_, fun active present full => ?_, fun active present place => ?_⟩
  · rw [State.issue_of_inactive inactive, fails]
  · rw [State.issue_of_absent active absent, fails]
  · rw [State.issue_of_full active present full, fails]
  obtain ⟨k, few, before, fresh⟩ := s.requests.freshTag_behind
  have issue := State.issue_of_place (c := c) (op := op) (x := x) (o := o) active present place
  have free := RequestTable.freshTag_notMem (Nat.le_of_lt place)
  have made : s.requests.make c op x owner o =
      { s.requests with
        entries := s.requests.entries ++
          [{ tag := s.requests.freshTag, chan := c, op := op, operand := x, owner := owner
             state := .queued, origin := o }]
        tagCounter := s.requests.freshTag + 1 } := rfl
  rw [made, fresh] at issue
  rw [fresh] at free
  refine ⟨k, few, before, ?_⟩
  intro tag request table offered
  have room (r : s.queue.entries.length < 12) :
      s.queue.offer s.start.state request owner = (.admitted, s.queue.join (Entry.new request owner)) :=
    TxQueue.offer_of_room rfl (by rw [active]; rfl) r owner
  have admitted (r : s.queue.entries.length < 12) : offered.1 = .admitted := congrArg Prod.fst (room r)
  refine ⟨fun e mem same => free (List.mem_map.2 ⟨e, mem, same⟩), fun yes => issue.trans (if_pos yes), fun no => ?_,
    admitted, fun r busy => ?_⟩
  · rw [← fails]
    exact issue.trans (if_neg no)
  · have idle : s.mayBegin = false := by
      rw [Bool.eq_false_iff, ne_eq, State.mayBegin_iff]
      exact fun h => busy h.1
    refine (issue.trans (if_pos (admitted r))).trans ?_
    rw [State.offer_of_not _ _ idle, room r]
    rfl

end Sys2Proof.Machine
end

section
/-! PROOFS. The steps of a run: O43. -/

namespace Sys2Proof.Machine

section

variable {s t : State} {i : SlotId} {n : Nat}

theorem State.runSteps_succ (n : Nat) (i : SlotId) (s : State) :
    State.runSteps (n + 1) i s =
      if (s.runStep i).1 = true then State.runSteps n i (s.runStep i).2 else (s.runStep i).2 := by
  rw [State.runSteps]
  rcases s.runStep i with ⟨_ | _, t⟩ <;> rfl

/-- A run stops at a step that waits or ends it. -/
theorem State.runSteps_of_stop (stop : s.runStep i = (false, t)) : State.runSteps (n + 1) i s = t := by
  rw [State.runSteps_succ, stop]
  rfl

/-! ### The step a run is at (R156) -/

theorem State.runStep_of_channel {c : Chan} {op : Op} {x : Byte}
    (step : s.stepOf (s.slot i) = some (.channel c op x)) : s.runStep i = s.channelStep i (s.slot i) c op x := by
  unfold State.runStep
  dsimp only
  rw [step]

theorem State.runStep_of_wait {d : Nat} (step : s.stepOf (s.slot i) = some (.wait d)) :
    s.runStep i = (false, s.setSlot i { s.slot i with state := .waitTime (s.now + d * ms) }) := by
  unfold State.runStep
  dsimp only
  rw [step]

theorem State.runStep_of_confirm {stop : Bool} (step : s.stepOf (s.slot i) = some (.confirm stop)) :
    s.runStep i = s.confirmStep i (s.slot i) stop := by
  unfold State.runStep
  dsimp only
  rw [step]

theorem State.runStep_of_emit {e : Emission} (step : s.stepOf (s.slot i) = some (.emit e)) :
    s.runStep i = s.emitStep i (s.slot i) e := by
  unfold State.runStep
  dsimp only
  rw [step]

theorem State.runStep_of_call {m : MacroId} (step : s.stepOf (s.slot i) = some (.call m)) :
    s.runStep i = s.callStep i (s.slot i) m := by
  unfold State.runStep
  dsimp only
  rw [step]

theorem State.runStep_of_end (step : s.stepOf (s.slot i) = none) : s.runStep i = s.macroEnd i (s.slot i) := by
  unfold State.runStep
  dsimp only
  rw [step]

/-! ### CHANNEL steps (R157) -/

theorem State.channelStep_of_own {u : State} {b : Bool} {r : RunSlot} {c : Chan} {op : Op} {x : Byte}
    (own : (s.chan c).isMirror = false) (applied : s.localOp c op x = (b, u)) :
    s.channelStep i r c op x = (true, u.setSlot i { r.next with failed := r.failed || !b }) := by
  unfold State.channelStep
  revert own
  cases s.chan c with
  | mirror => exact nofun
  | unused | home =>
    intro
    dsimp only
    rw [applied]

theorem State.channelStep_of_mirror {u : State} {a : IssueAnswer} {r : RunSlot} {c : Chan} {op : Op} {x : Byte}
    {m : MirrorRec} (mirror : s.chan c = .mirror m)
    (issued : s.issue c m.owner op x (.run i r.generation) = (a, u)) :
    s.channelStep i r c op x =
      match (generalizing := false) a with
      | .made tag => (true, u.setSlot i { r.next with outstanding := r.outstanding ++ [tag] })
      | .ownerAbsent => (true, u.setSlot i { r.next with failed := true })
      | .busy =>
        (false,
          { u.setSlot i { r with state := .waitTable s.now } with
            requests := { u.requests with waiting := u.requests.waiting ++ [i] } }) := by
  have now : u.now = s.now := by
    rw [← (s.issue_acts c m.owner op x (.run i r.generation)).now, issued]
  cases a with
  | made | ownerAbsent | busy => simp only [State.channelStep, mirror, issued, now]

/-! ### CONFIRM, EMIT and CALL steps, and the end of a Macro (R156, R159 to R161) -/

theorem State.confirmStep_eq (s : State) (i : SlotId) (r : RunSlot) (stop : Bool) :
    s.confirmStep i r stop =
      if r.outstanding ≠ [] then (false, s.setSlot i { r with state := .waitConfirm })
      else if stop = true ∧ r.failed = true then (false, s.failRun i)
      else (true, s.setSlot i { r.next with failed := false }) := by
  unfold State.confirmStep
  by_cases none : r.outstanding = []
  · rw [if_pos (List.isEmpty_iff.2 none), if_neg (not_not.2 none)]
    exact if_congr (Bool.and_eq_true_iff) rfl rfl
  · rw [if_neg fun h => none (List.isEmpty_iff.1 h), if_pos none]

theorem State.emitStep_of_accepted {r : RunSlot} {e : Emission} (accepted : (s.offerEmission e).1 = true) :
    s.emitStep i r e = (true, (s.offerEmission e).2.setSlot i r.next) :=
  if_pos accepted

theorem State.emitStep_of_full {r : RunSlot} {e : Emission} (full : (s.offerEmission e).1 = false) :
    s.emitStep i r e =
      (false,
        { s.setSlot i { r with state := .waitEmitter s.now } with
          emitter := { s.emitter with waiting := s.emitter.waiting ++ [i] } }) := by
  have same : s.offerEmission e = (false, s) := Prod.ext full (State.offerEmission_of_full full)
  unfold State.emitStep
  rw [same]
  rfl

theorem State.macroEnd_of_root {r : RunSlot} (root : r.stack = []) : s.macroEnd i r = (false, s.completeRun i) := by
  unfold State.macroEnd
  rw [root]

theorem State.macroEnd_of_called {r : RunSlot} {m : MacroId} {k : Nat} {rest : List (MacroId × Nat)}
    (called : r.stack = (m, k) :: rest) :
    s.macroEnd i r = (true, s.setSlot i { r with current := m, step := k, stack := rest }) := by
  unfold State.macroEnd
  rw [called]

end

/-- Settles O43. -/
theorem runStepsAct : Obligations.RunStepsAct := by
  refine ⟨State.runSteps_succ, fun s i => ⟨fun c op x step => ?_, fun d step => State.runStep_of_wait step,
    fun stop step => (State.runStep_of_confirm step).trans (s.confirmStep_eq i _ stop), fun e step => ?_,
    fun m step => State.runStep_of_call step, fun step => ?_⟩⟩
  · have run := State.runStep_of_channel step
    refine ⟨fun h home live valid => ?_, fun bad own => ?_, fun m mirror => ?_⟩
    · rw [run, State.channelStep_of_own (by rw [home]; rfl) (State.localOp_of_good home ⟨live, valid⟩), Bool.not_true,
        Bool.or_false]
      rfl
    · have unapplied : s.localOp c op x = (false, s) := by
        cases home : s.chan c with
        | home h => exact State.localOp_of_bad home (bad h home)
        | unused | mirror =>
          unfold State.localOp
          rw [home]
      rw [run, State.channelStep_of_own own unapplied, Bool.not_false, Bool.or_true]
      rfl
    · intro issued
      exact ⟨fun tag made => run.trans (State.channelStep_of_mirror mirror (Prod.ext made rfl)),
        fun absent => run.trans (State.channelStep_of_mirror mirror (Prod.ext absent rfl)),
        fun busy => run.trans (State.channelStep_of_mirror mirror (Prod.ext busy rfl))⟩
  · have run := State.runStep_of_emit step
    exact ⟨fun accepted => run.trans (State.emitStep_of_accepted accepted),
      fun full => run.trans (State.emitStep_of_full full)⟩
  · have run := State.runStep_of_end step
    exact ⟨fun root => run.trans (State.macroEnd_of_root root),
      fun m k rest called => run.trans (State.macroEnd_of_called called)⟩

end Sys2Proof.Machine
end

section
/-! PROOFS. Confirm and WAIT deadlines, gestures, and what START and STOP do: O40 and O42. -/

namespace Sys2Proof.Machine

section

variable {s : State} {i : SlotId}

theorem State.setSlot_setSlot (s : State) (i : SlotId) (r r' : RunSlot) : (s.setSlot i r).setSlot i r' = s.setSlot i r' :=
  congrArg (fun v => ({ s with macros := { s.macros with slots := v } } : State)) (Vector.set_set r i.isLt)

/-! ### Deadlines (R87, R158) -/

theorem State.confirmExpiry_of_due {tag : Byte} {r : ReqEntry} {t : Time} (found : s.requestOf tag = some r)
    (sent : r.state = .sent t) (late : t ≤ s.now) : s.confirmExpiry tag = s.endRequest tag .unconfirmed := by
  unfold State.confirmExpiry
  rw [found]
  dsimp only
  rw [sent]
  exact if_pos late

theorem State.waitExpiry_of_due {t : Time} (waits : (s.slot i).state = .waitTime t) (late : t ≤ s.now) :
    s.waitExpiry i = s.resumeNext i := by
  unfold State.waitExpiry
  rw [waits]
  exact if_pos late

/-- A run whose root Macro has no further step is COMPLETED (R161). -/
theorem State.runSteps_of_root_end {r : RunSlot} (n : Nat) (past : s.stepOf r = none) (root : r.stack = []) :
    State.runSteps (n + 1) i (s.setSlot i r) = s.setSlot i r.ended := by
  have slot := s.slot_setSlot_self i r
  have step := State.runStep_of_end (s := s.setSlot i r) (i := i) (by rw [slot]; exact past)
  rw [slot, State.macroEnd_of_root root] at step
  rw [State.runSteps_of_stop step, State.completeRun, slot, State.setSlot_setSlot]

/-- A run at a WAIT step waits (R158). -/
theorem State.runSteps_of_wait {r : RunSlot} {d : Nat} (n : Nat) (step : s.stepOf r = some (.wait d)) :
    State.runSteps (n + 1) i (s.setSlot i r) = s.setSlot i { r with state := .waitTime (s.now + d * ms) } := by
  have slot := s.slot_setSlot_self i r
  have run := State.runStep_of_wait (s := s.setSlot i r) (i := i) (by rw [slot]; exact step)
  rw [slot, State.setSlot_setSlot] at run
  exact State.runSteps_of_stop run

end

/-- Settles O40. -/
theorem confirmAndWaitDeadlines : Obligations.ConfirmAndWaitDeadlines := by
  refine ⟨fun s dt tag r t0 awake found sent late => ?_, fun s dt i t0 awake waits late => ?_⟩
  · have next : exec (.confirmDeadlineExpiry dt tag) s = .next ((s.advance dt).endRequest tag .unconfirmed).settle :=
      (awake.event dt (State.confirmExpiry tag)).trans
        (congrArg (fun t : State => Host.Outcome.next t.settle)
          (State.confirmExpiry_of_due (s := s.advance dt) found sent late))
    refine ⟨next, fun binding none => next.trans ?_⟩
    have ended := State.endRequest_of_binding (s := s.advance dt) (o := .unconfirmed) found binding nofun
      (fun h => ReqState.noConfusion (sent.symm.trans h.1)) none awake.2.2.1
    rw [ended]
    exact congrArg Host.Outcome.next (State.settle_of_not_evicted awake.2.1)
  · have next : exec (.waitDeadlineExpiry dt i) s =
        .next
          (State.runSteps 5000 i
            ((s.advance dt).setSlot i { s.slot i with state := .performing, step := (s.slot i).step + 1 })).settle :=
      (awake.event dt (State.waitExpiry i)).trans
        (congrArg (fun t : State => Host.Outcome.next t.settle)
          (State.waitExpiry_of_due (s := s.advance dt) waits late))
    refine ⟨next, fun past root => next.trans ?_, fun d step => next.trans ?_⟩
    · have stopped := State.runSteps_of_root_end (s := s.advance dt) (i := i)
        (r := { (s.slot i).next with state := .performing }) 4999 past root
      exact (congrArg (fun t : State => Host.Outcome.next t.settle) stopped).trans
        (congrArg Host.Outcome.next (State.settle_of_not_evicted awake.2.1))
    · have stopped := State.runSteps_of_wait (s := s.advance dt) (i := i)
        (r := { (s.slot i).next with state := .performing }) 4999 step
      exact (congrArg (fun t : State => Host.Outcome.next t.settle) stopped).trans
        (congrArg Host.Outcome.next (State.settle_of_not_evicted awake.2.1))

/-! ### Matching records (R147, R148) -/

theorem State.matching_eq (s : State) (src : Source) (tr : Trigger) :
    s.matching src tr =
      s.bindings.filter fun b =>
        b.source == src && b.trigger == tr
          && (match b.condition with
              | none => true
              | some (c, v) =>
                match s.chan c with
                | .home h => h.state == .live && h.value == v
                | .mirror m => m.state == .fresh && m.value == v
                | .unused => false) := by
  refine List.filter_congr fun b _ => congrArg (b.source == src && b.trigger == tr && ·) ?_
  unfold State.conditionHolds
  rcases b.condition with _ | ⟨c, v⟩
  · rfl
  · dsimp only
    cases s.chan c <;> rfl

/-! ### Slots (R152, R153) -/

theorem find?_finRange_eq_some {n : Nat} {p : Fin n → Bool} {i : Fin n} :
    (List.finRange n).find? p = some i ↔ p i = true ∧ ∀ j, j < i → p j = false := by
  rw [List.find?_eq_some_iff_getElem]
  refine and_congr_right fun _ => ⟨?_, fun before => ⟨i.val, by simp, by simp, fun j below => ?_⟩⟩
  · rintro ⟨k, long, rfl, before⟩ j below
    have at_ := before j.val (by simpa using Fin.lt_def.1 below)
    simpa using at_
  · simpa using before ⟨j, below.trans i.isLt⟩ below

section

variable {s : State} {i : SlotId} {m : MacroId}

theorem SlotId.find?_eq_some {p : SlotId → Bool} (here : p i = true) (before : ∀ j, j < i → p j = false) :
    (List.finRange 2).find? p = some i :=
  find?_finRange_eq_some.2 ⟨here, before⟩

theorem SlotId.find?_eq_none {p : SlotId → Bool} (none : ∀ j, p j = false) : (List.finRange 2).find? p = .none :=
  List.find?_eq_none.2 fun j _ => by rw [none j]; exact nofun

theorem RunSlot.runs_iff (r : RunSlot) (m : MacroId) : r.runs m = true ↔ r.state ≠ .idle ∧ r.root = m := by
  rw [RunSlot.runs, Bool.and_eq_true, bne_iff_ne, beq_iff_eq]

theorem RunSlot.not_runs_iff (r : RunSlot) (m : MacroId) : r.runs m = false ↔ r.state = .idle ∨ r.root ≠ m := by
  rw [← Bool.not_eq_true, RunSlot.runs_iff, not_and_or, not_not]

theorem State.slotRunning_of_none (none : ∀ j, (s.slot j).state = .idle ∨ (s.slot j).root ≠ m) :
    s.slotRunning m = .none :=
  SlotId.find?_eq_none fun j => (RunSlot.not_runs_iff _ m).2 (none j)

theorem State.slotRunning_of_alone (runs : (s.slot i).state ≠ .idle) (root : (s.slot i).root = m)
    (alone : ∀ j, j ≠ i → (s.slot j).state = .idle ∨ (s.slot j).root ≠ m) : s.slotRunning m = some i :=
  SlotId.find?_eq_some ((RunSlot.runs_iff _ m).2 ⟨runs, root⟩) fun j below =>
    (RunSlot.not_runs_iff _ m).2 (alone j (ne_of_lt below))

theorem State.idleSlot_of_free (idle : (s.slot i).state = .idle) (before : ∀ j, j < i → (s.slot j).state ≠ .idle) :
    s.idleSlot = some i :=
  SlotId.find?_eq_some (beq_iff_eq.2 idle) fun j below => beq_eq_false_iff_ne.2 (before j below)

theorem State.idleSlot_of_none (busy : ∀ j, (s.slot j).state ≠ .idle) : s.idleSlot = none :=
  SlotId.find?_eq_none fun j => beq_eq_false_iff_ne.2 (busy j)

/-! ### STOP and START -/

theorem State.perform_stop {b : Binding} (action : b.action = .stop m) : s.perform b = s.stopMacro m := by
  unfold State.perform
  rw [action]

theorem State.perform_start {b : Binding} (action : b.action = .start m) : s.perform b = s.startMacro m := by
  unfold State.perform
  rw [action]

theorem State.stopMacro_of_none (none : s.slotRunning m = none) : s.stopMacro m = s := by
  rw [State.stopMacro, none]

theorem State.stopMacro_of_some (some : s.slotRunning m = some i) : s.stopMacro m = s.abortRun i := by
  rw [State.stopMacro, some]

theorem State.startMacro_of_some (some : s.slotRunning m = some i) : s.startMacro m = (s.abortRun i).startIn i m := by
  unfold State.startMacro
  rw [some]

theorem State.startMacro_of_idle (none : s.slotRunning m = none) (idle : s.idleSlot = some i) :
    s.startMacro m = s.startIn i m := by
  unfold State.startMacro
  rw [none]
  dsimp only
  rw [idle]

theorem State.startMacro_of_none (none : s.slotRunning m = none) (busy : s.idleSlot = Option.none) :
    s.startMacro m = s.failStation := by
  unfold State.startMacro
  rw [none]
  dsimp only
  rw [busy]

theorem State.startIn_eq (s : State) (i : SlotId) (m : MacroId) :
    s.startIn i m = State.runSteps 5000 i (s.setSlot i ((s.slot i).started m)) :=
  s.resume_setSlot i _

/-- A retrigger begins anew, under the next generation. -/
theorem State.startIn_abortRun (s : State) (i : SlotId) (m : MacroId) :
    (s.abortRun i).startIn i m = State.runSteps 5000 i ((s.leaveOrders i).setSlot i ((s.slot i).started m)) := by
  rw [State.startIn_eq, State.abortRun, State.slot_setSlot_self, State.setSlot_setSlot]
  rfl

theorem State.stepOf_started {d : Nat} {rest : List Step} (first : s.macros.table.getD m.val [] = .wait d :: rest)
    (r : RunSlot) : s.stepOf (r.started m) = some (.wait d) := by
  show (s.macros.table.getD m.val [])[0]? = _
  rw [first]
  rfl

end

/-- Settles O42. -/
theorem gestureIsDelivered : Obligations.GestureIsDelivered := by
  refine fun s => ⟨fun src tr => ?_, fun b m => ⟨fun stop => ⟨fun none => ?_, ?_⟩,
    fun start => ⟨fun busy => ?_, ?_, ?_⟩⟩⟩
  · unfold State.gesture State.bindGesture
    exact congrArg (fun l => if s.start.state = .active then l.foldl State.perform s else s.bump .inputsDiscarded)
      (s.matching_eq src tr)
  · exact (State.perform_stop stop).trans (State.stopMacro_of_none (State.slotRunning_of_none none))
  · rintro i ⟨runs, root, alone⟩
    exact (State.perform_stop stop).trans (State.stopMacro_of_some (State.slotRunning_of_alone runs root alone))
  · exact (State.perform_start start).trans
      (State.startMacro_of_none (State.slotRunning_of_none fun j => .inr (busy j).2)
        (State.idleSlot_of_none fun j => (busy j).1))
  · refine fun i => ⟨?_, ?_⟩
    · rintro ⟨runs, root, alone⟩
      exact (State.perform_start start).trans
        ((State.startMacro_of_some (State.slotRunning_of_alone runs root alone)).trans (s.startIn_abortRun i m))
    · rintro ⟨none, idle, before⟩
      exact (State.perform_start start).trans
        ((State.startMacro_of_idle (State.slotRunning_of_none none) (State.idleSlot_of_free idle before)).trans
          (s.startIn_eq i m))
  · refine fun i d rest first => ⟨?_, ?_⟩
    · rintro ⟨runs, root, alone⟩
      exact (State.perform_start start).trans
        ((State.startMacro_of_some (State.slotRunning_of_alone runs root alone)).trans
          ((s.startIn_abortRun i m).trans
            (State.runSteps_of_wait (s := s.leaveOrders i) 4999 (State.stepOf_started (s := s.leaveOrders i) first _))))
    · rintro ⟨none, idle, before⟩
      exact (State.perform_start start).trans
        ((State.startMacro_of_idle (State.slotRunning_of_none none) (State.idleSlot_of_free idle before)).trans
          ((s.startIn_eq i m).trans (State.runSteps_of_wait 4999 (State.stepOf_started first _))))

end Sys2Proof.Machine
end

section
/-! PROOFS. The end of a request, the grants, and the rivals of an event: O44. -/

namespace Sys2Proof.Machine

/-! ### The end of a request (R86 to R92) -/

theorem ReqOutcome.withdraws_iff (o : ReqOutcome) : o.withdraws = true ↔ o = .confirmed ∨ o = .cancelled := by
  cases o <;> decide

section

variable (s : State)

theorem State.conclude_eq (e : ReqEntry) (o : ReqOutcome) :
    let w : State := if o = .confirmed then s else (s.bump .requestsFailed).failChannel e.chan
    s.conclude e o =
      match e.origin with
      | .binding => w
      | .run i n =>
        if (w.slot i).generation = n then w.outcomeToRun i e.tag (decide (o = .confirmed)) else w := by
  unfold State.conclude State.routeOutcome
  cases e.origin <;> rfl

theorem State.endRequest_of_some {tag : Byte} {e : ReqEntry} (found : s.requestOf tag = some e) (o : ReqOutcome) :
    s.endRequest tag o =
      (if e.state = .queued ∧ (o = .confirmed ∨ o = .cancelled) then s.withdrawRequest tag else s).thenDo
        (.removal e o) (State.finish e o) := by
  unfold State.endRequest
  rw [found]
  exact congrArg (fun u : State => u.thenDo (.removal e o) (State.finish e o))
    (if_congr (and_congr_right' o.withdraws_iff) rfl rfl)

theorem State.endRequest_of_none {tag : Byte} (none : s.requestOf tag = none) (o : ReqOutcome) :
    s.endRequest tag o = s := by
  unfold State.endRequest
  rw [none]

theorem State.outcomeToRun_eq (i : SlotId) (tag : Byte) (confirmed : Bool) :
    let r := s.slot i
    let told : RunSlot := { r with outstanding := r.outstanding.erase tag, failed := r.failed || !confirmed }
    s.outcomeToRun i tag confirmed =
      if r.state = .idle then s
      else if r.state = .waitConfirm ∧ told.outstanding = [] then
        State.runSteps 5000 i (s.setSlot i { told with state := .performing })
      else s.setSlot i told := by
  intro r told
  unfold State.outcomeToRun
  refine if_congr Iff.rfl rfl ?_
  rw [← s.resume_setSlot i told]

/-! ### Room, and the grants (R94, R95, R144) -/

theorem TxQueue.room_pos_iff (q : TxQueue) {cls : Nat} (high : cls ≤ 1) :
    1 ≤ q.room cls ↔
      q.entries.length < 12
        ∨ ∃ e ∈ q.entries, e.onLine = false ∧ (e.content.cls = 3 ∨ e.content.isAnnounce = true) := by
  have one (p : Prop) [Decidable p] : 0 < (if p then 1 else 0) ↔ p := by
    split
    next yes => exact iff_of_true Nat.one_pos yes
    next no => exact iff_of_false (Nat.lt_irrefl 0) no
  rw [TxQueue.room_eq, if_pos high, Nat.one_le_iff_ne_zero, ← Nat.pos_iff_ne_zero, Nat.add_pos_iff_pos_or_pos,
    Nat.add_pos_iff_pos_or_pos, Nat.sub_pos_iff_lt, List.countP_pos_iff, one, List.any_eq_true, ← exists_or]
  refine or_congr_right (exists_congr fun e => ?_)
  rw [← and_or_left, Bool.and_eq_true, Bool.and_eq_true, beq_iff_eq, Bool.not_eq_true', ← or_and_right, and_comm (b := _ = false)]

theorem State.requestRoom_iff :
    s.requestRoom = true ↔
      s.start.state = .active ∧ s.requests.entries.length < 8
        ∧ (s.queue.entries.length < 12
          ∨ ∃ e ∈ s.queue.entries, e.onLine = false ∧ (e.content.cls = 3 ∨ e.content.isAnnounce = true)) := by
  rw [State.requestRoom, Bool.and_eq_true, Bool.and_eq_true, beq_iff_eq, decide_eq_true_iff, decide_eq_true_iff,
    s.queue.room_pos_iff (Nat.zero_le 1), and_assoc]
  rfl

theorem State.grants_of_none (n : Nat) (none : s.requests.waiting = []) : State.grants (n + 1) s = s := by
  unfold State.grants
  rw [none]

theorem State.grants_of_no_room (n : Nat) (full : s.requestRoom = false) : State.grants (n + 1) s = s := by
  unfold State.grants
  cases s.requests.waiting with
  | nil => rfl
  | cons i rest => exact if_neg (Bool.eq_false_iff.1 full)

theorem State.grants_of_room (n : Nat) {i : SlotId} {rest : List SlotId} (waits : s.requests.waiting = i :: rest)
    (room : s.requestRoom = true) :
    State.grants (n + 1) s =
      if s.rival = 1 then { s with owed := s.owed ++ [.table] }
      else
        State.grants n
          (State.runSteps 5000 i
            (({ s with rival := s.rival - 1, requests := { s.requests with waiting := rest } } : State).setSlot i
              { s.slot i with state := .performing })) := by
  rw [State.grants, waits]
  exact if_pos room

theorem State.emitterGrant_of_none (none : s.emitter.waiting = [] ∨ 4 ≤ s.emitter.queue.length) :
    s.emitterGrant = s := by
  unfold State.emitterGrant
  cases waits : s.emitter.waiting with
  | nil => rfl
  | cons i rest => exact if_neg (Nat.not_lt.2 (none.resolve_left fun h => nomatch waits.symm.trans h))

theorem State.emitterGrant_of_place {i : SlotId} {rest : List SlotId} (waits : s.emitter.waiting = i :: rest)
    (place : s.emitter.queue.length < 4) :
    s.emitterGrant =
      if s.rival = 1 then { s with owed := s.owed ++ [.emitter] }
      else
        State.runSteps 5000 i
          (({ s with rival := s.rival - 1, emitter := { s.emitter with waiting := rest } } : State).setSlot i
            { s.slot i with state := .performing }) := by
  unfold State.emitterGrant
  rw [waits]
  exact if_pos place

/-! ### The rivals of an event (log entry 37) -/

theorem State.settle_of_evicted (evicted : s.queue.evicted = true) :
    let t := ({ s with queue := { s.queue with evicted := false } } : State).grantOccasion
    s.settle = { t with queue := { t.queue with evicted := false } } :=
  if_pos evicted

theorem State.metBy_of_none {c : Instr}
    (none : s.owed = [] ∨ (fromLine c = true ∧ s.owed.any Owing.ofFrame = true) ∨ (s.beside c).start.state ≠ .active) :
    s.metBy c = .none := by
  unfold State.metBy
  by_cases before : s.owed = [] ∨ (fromLine c = true ∧ s.owed.any Owing.ofFrame = true)
  · exact if_pos before
  · rw [not_or] at before
    exact (if_neg (not_or.2 before)).trans (if_neg ((none.resolve_left before.1).resolve_left before.2))

theorem State.metBy_of_some {c : Instr} (owes : s.owed ≠ [])
    (apart : ¬(fromLine c = true ∧ s.owed.any Owing.ofFrame = true)) (active : (s.beside c).start.state = .active) :
    s.metBy c = some (s.beside c) :=
  (if_neg (not_or.2 ⟨owes, apart⟩)).trans (if_pos active)

theorem State.meet_of_none {c : Instr} (cs : List Instr) (none : (s.goOn (moment c).rival).metBy c = .none) :
    s.meet (c :: cs) = (0, s.goOn 0) := by
  rw [State.meet, none]

theorem State.meet_of_some {c : Instr} {u : State} (cs : List Instr)
    (met : (s.goOn (moment c).rival).metBy c = some u) : s.meet (c :: cs) = ((u.meet cs).1 + 1, (u.meet cs).2) := by
  rw [State.meet, met]

variable {s}
variable {dt : Moment} {effect : State → State}

theorem event_of_taken (free : s.start.hold = .none) (taken : s.taken ≠ 0) :
    event dt s effect = .next { s.advance dt with taken := s.taken - 1 } :=
  (if_neg (not_not.2 free)).trans (if_pos taken)

theorem event_of_not_taken (free : s.start.hold = .none) (untaken : s.taken = 0) :
    event dt s effect = .next ((s.withRivals dt effect).getD ((s.calm 0).happens dt effect)) :=
  (if_neg (not_not.2 free)).trans (if_neg (not_not.2 untaken))

theorem State.withRivals_of_nil (none : s.rivals = []) : s.withRivals dt effect = .none := by
  unfold State.withRivals
  rw [none]

theorem State.withRivals_of_none {c : Instr} {cs : List Instr} (others : s.rivals = c :: cs)
    (none : ((s.calm (moment c).rival).happens dt effect).metBy c = .none) : s.withRivals dt effect = .none := by
  unfold State.withRivals
  rw [others]
  dsimp only
  rw [none]

theorem State.withRivals_of_some {c : Instr} {cs : List Instr} {u : State} (others : s.rivals = c :: cs)
    (met : ((s.calm (moment c).rival).happens dt effect).metBy c = some u) :
    s.withRivals dt effect = some { (u.meet cs).2 with taken := (u.meet cs).1 + 1 } := by
  unfold State.withRivals
  rw [others]
  dsimp only
  rw [met]

end

/-- Settles O44. -/
theorem outcomesAndGrants : Obligations.OutcomesAndGrants := by
  unfold Obligations.OutcomesAndGrants
  intro concluded behind owing finished
  have concludes (s : State) (e : ReqEntry) (o : ReqOutcome) : s.conclude e o = concluded s e o := s.conclude_eq e o
  have finishes (s : State) (e : ReqEntry) (o : ReqOutcome) : State.finish e o s = finished s e o :=
    congrArg (fun part => ((s.removeRequest e.tag).grantOccasion).thenDo (.conclusion e o) part)
      (funext fun g => concludes g e o)
  refine ⟨fun s tag o e found => ?_, fun s tag o none => s.endRequest_of_none none o,
    fun s i tag confirmed => s.outcomeToRun_eq i tag confirmed, State.requestRoom_iff,
    fun n s => ⟨rfl, s.grants_of_none n, s.grants_of_no_room n, fun i rest => s.grants_of_room n⟩,
    fun s => ⟨s.emitterGrant_of_none, fun i rest => s.emitterGrant_of_place⟩,
    fun s => ⟨State.settle_of_not_evicted, s.settle_of_evicted⟩, fun s e o tags src c q f notice => ?_,
    fun s n c cs => ⟨rfl, s.metBy_of_none, s.metBy_of_some, rfl, s.meet_of_none cs, fun u => s.meet_of_some cs⟩,
    fun c s reset free => exec_eq_event s reset (.inl free), fun s dt effect free => ⟨event_of_taken free, ?_, ?_⟩⟩
  · have ended := s.endRequest_of_some found o
    rw [show State.finish e o = fun u => finished u e o from funext fun u => finishes u e o] at ended
    exact ended
  · exact ⟨rfl, rfl, if_congr Iff.rfl (finishes s e o) rfl, concludes s e o, rfl, rfl, rfl, rfl, rfl⟩
  · intro untaken none
    exact (event_of_not_taken free untaken).trans
      (congrArg (fun o : Option State => Host.Outcome.next (o.getD ((s.calm 0).happens dt effect)))
        (State.withRivals_of_nil none))
  · refine fun c cs untaken others => ⟨fun none => ?_, fun u met => ?_⟩
    · exact (event_of_not_taken free untaken).trans
        (congrArg (fun o : Option State => Host.Outcome.next (o.getD ((s.calm 0).happens dt effect)))
          (State.withRivals_of_none others none))
    · exact (event_of_not_taken free untaken).trans
        (congrArg (fun o : Option State => Host.Outcome.next (o.getD ((s.calm 0).happens dt effect)))
          (State.withRivals_of_some others met))

end Sys2Proof.Machine
end

section
/-! PROOFS. Keys and their trackers: O45, O46 and O47. -/

namespace Sys2Proof.Machine

/-! ### Trackers (R126 to R128) -/

section

variable {s : State} {src : Source} {phase : Phase} {before after : List Tracker}

/-- The end of a tracker: SHORT_RELEASE from SHORT, and RELEASE. -/
def State.handsUp (s : State) (src : Source) : Phase → State
  | .short _ => (s.gesture src .shortRelease).gesture src .release
  | .held _ => s.gesture src .release

theorem State.trackUp_of (trackers : s.gestures.trackers = before ++ { source := src, phase := phase } :: after)
    (apart : ∀ x ∈ before ++ after, x.source ≠ src) :
    s.trackUp src = (s.setTrackers (before ++ after)).handsUp src phase := by
  have found : s.gestures.trackers.find? (fun t => t.source == src) = some { source := src, phase := phase } := by
    rw [trackers, List.find?_append,
      List.find?_eq_none.2 fun x hx => by simpa using apart x (List.mem_append_left _ hx), Option.none_or]
    exact List.find?_cons_of_pos (beq_self_eq_true src)
  have left : s.gestures.trackers.filter (fun t => t.source != src) = before ++ after := by
    rw [trackers, List.filter_append, List.filter_cons_of_neg (by simp), ← List.filter_append]
    exact List.filter_eq_self.2 fun x hx => bne_iff_ne.2 (apart x hx)
  rw [State.trackUp, found]
  dsimp only
  rw [left]
  cases phase <;> rfl

theorem State.handsUp_scanner (s : State) (src : Source) (phase : Phase) : (s.handsUp src phase).scanner = s.scanner := by
  cases phase with
  | short => exact ((s.gesture _ _).gesture_acts _ _).scanner.trans (s.gesture_acts _ _).scanner
  | held => exact (s.gesture_acts _ _).scanner

end

/-! ### Debounced presses and releases (R121 to R123) -/

theorem completesRectangle_iff (k : Key) (listed : List Key) :
    completesRectangle k listed = true ↔
      ∃ a ∈ listed, ∃ b ∈ listed, ∃ d ∈ listed,
        a.val / 6 = k.val / 6 ∧ a.val % 6 ≠ k.val % 6
          ∧ b.val % 6 = k.val % 6 ∧ b.val / 6 ≠ k.val / 6
          ∧ d.val / 6 = b.val / 6 ∧ d.val % 6 = a.val % 6 := by
  simp only [completesRectangle, keyRow, keyCol, List.any_eq_true, Bool.and_eq_true, beq_iff_eq, bne_iff_ne, and_assoc]
  refine exists_congr fun a => and_congr_right fun _ => ?_
  constructor
  · rintro ⟨row, col, b, mb, col', row', d, md, last⟩
    exact ⟨b, mb, d, md, row, col, col', row', last⟩
  · rintro ⟨b, mb, d, md, row, col, col', row', last⟩
    exact ⟨row, col, b, mb, col', row', d, md, last⟩

section

variable {s : State} {k : Key}

theorem State.keyPress_of_settling (settling : s.scanner.settling ≠ 0) : s.keyPress k = s.setKey k .heldAtStart := by
  have condition : s.pressCondition k = .heldAtStart := if_pos settling
  rw [State.keyPress, condition]
  rfl

theorem State.keyPress_of_ignored (settled : s.scanner.settling = 0)
    (full : 4 ≤ s.scanner.pressed.length ∨ completesRectangle k (s.scanner.pressed.map Pressed.key) = true) :
    s.keyPress k = s.setKey k .ignored := by
  have condition : s.pressCondition k = .ignored := by
    refine (if_neg (not_not.2 settled)).trans ?_
    by_cases many : 4 ≤ s.scanner.pressed.length
    · exact if_pos many
    · exact (if_neg many).trans (if_pos (full.resolve_left many))
  rw [State.keyPress, condition]
  rfl

theorem State.keyPress_of_listed (settled : s.scanner.settling = 0) (few : s.scanner.pressed.length < 4)
    (free : ¬completesRectangle k (s.scanner.pressed.map Pressed.key) = true) :
    s.keyPress k =
      ((s.setKey k .listed).setPressed
        (s.scanner.pressed ++ [{ key := k, stuckAt := s.now + 30000 * ms }])).trackDown (.key k) := by
  have condition : s.pressCondition k = .listed :=
    (if_neg (not_not.2 settled)).trans ((if_neg (Nat.not_le.2 few : ¬pressedSize ≤ _)).trans (if_neg free))
  rw [State.keyPress, condition]
  rfl

theorem State.keyRelease_of_unlisted (unlisted : (s.keyRec k).state ≠ .listed) : s.keyRelease k = s.setKey k .up :=
  if_neg unlisted

theorem State.keyRelease_of_listed (listed : (s.keyRec k).state = .listed) :
    s.keyRelease k =
      ((s.setKey k .up).setPressed (s.scanner.pressed.filter fun p => p.key != k)).trackUp (.key k) :=
  if_pos listed

/-! ### A scan (R119, R120) -/

theorem KeyRec.counted_eq (r : KeyRec) (down : Bool) :
    r.counted down =
      { r with count := if (down != (r.state != .up)) = true ∧ r.count < 2 then r.count + 1 else 0 } := by
  have completes : r.completes down = true ↔ r.disagrees down = true ∧ 2 ≤ r.count := by
    rw [KeyRec.completes, Bool.and_eq_true, decide_eq_true_iff]
  unfold KeyRec.counted
  show _ = { r with count := if r.disagrees down = true ∧ r.count < 2 then r.count + 1 else 0 }
  by_cases third : r.completes down = true
  · have full : ¬(r.disagrees down = true ∧ r.count < 2) := fun h => Nat.not_le.2 h.2 (completes.1 third).2
    rw [if_pos third, if_neg full]
  · rw [if_neg third]
    have same : r.disagrees down = true ↔ r.disagrees down = true ∧ r.count < 2 :=
      ⟨fun d => ⟨d, Nat.not_le.1 fun two => third (completes.2 ⟨d, two⟩)⟩, And.left⟩
    exact congrArg (fun n => { r with count := n }) (if_congr same rfl rfl)

theorem State.changes_eq (s : State) (down : BitVec 48) (pressed : Bool) :
    s.changes down pressed =
      (List.finRange 48).filter fun k =>
        reads down k == pressed && (reads down k != ((s.keyRec k).state != .up))
          && decide (2 ≤ (s.keyRec k).count) :=
  List.filter_congr fun _ _ => (Bool.and_assoc _ _ _).symm

theorem State.keyPress_now (s : State) (k : Key) : (s.keyPress k).now = s.now := by
  unfold State.keyPress
  dsimp only
  split
  · exact (State.gesture_acts _ _ _).now
  · rfl

theorem State.trackUp_now (s : State) (src : Source) : (s.trackUp src).now = s.now := by
  unfold State.trackUp
  split
  · rfl
  · dsimp only
    split
    · exact (State.gesture_acts _ _ _).now.trans (State.gesture_acts _ _ _).now
    · exact (State.gesture_acts _ _ _).now

theorem State.keyRelease_now (s : State) (k : Key) : (s.keyRelease k).now = s.now := by
  unfold State.keyRelease
  dsimp only
  split
  · exact State.trackUp_now _ _
  · rfl

theorem State.foldl_now {f : State → Key → State} (now : ∀ s k, (f s k).now = s.now) (l : List Key) (s : State) :
    (l.foldl f s).now = s.now := by
  induction l generalizing s with
  | nil => rfl
  | cons k l ih => exact (ih _).trans (now s k)

/-- The keys a scan changes, over the counts of its readings (R120). -/
def State.scanned (s : State) (down : BitVec 48) : State :=
  (s.changes down true).foldl State.keyPress
    ((s.changes down false).foldl State.keyRelease { s with scanner := s.scanner.count down })

theorem State.scan_of_due {t : Time} (at_ : s.scanner.scanAt = some t) (late : t ≤ s.now) (down : BitVec 48) :
    s.scan down =
      { s.scanned down with
        scanner :=
          { (s.scanned down).scanner with
            scanAt := some (s.now + 8 * ms), settling := (s.scanned down).scanner.settling - 1 } } := by
  have now : (s.scanned down).now = s.now :=
    (State.foldl_now State.keyPress_now _ _).trans (State.foldl_now State.keyRelease_now _ _)
  refine (if_pos ((due_iff _ _).2 ⟨t, at_, late⟩)).trans ?_
  exact congrArg
    (fun n : Time =>
      ({ s.scanned down with
        scanner :=
          { (s.scanned down).scanner with
            scanAt := some (n + 8 * ms), settling := (s.scanned down).scanner.settling - 1 } } : State)) now

theorem State.changes_of_agreement {down : BitVec 48} (agree : ∀ k, (reads down k != ((s.keyRec k).state != .up)) = false)
    (pressed : Bool) : s.changes down pressed = [] := by
  rw [State.changes_eq]
  refine List.filter_eq_nil_iff.2 fun k _ => ?_
  rw [agree k, Bool.and_false, Bool.false_and]
  exact nofun

end

/-- Settles O45. -/
theorem scanReadsTheKeys : Obligations.ScanReadsTheKeys := by
  refine ⟨?_, fun s k => ?_⟩
  · intro s dt columns t0 awake at_ late down disagrees changed counted u
    have read (k : Key) : reads (readings columns) k = down k := reads_readings columns k
    have changes (pressed : Bool) : (s.advance dt).changes (readings columns) pressed = changed pressed := by
      refine (State.changes_eq _ _ _).trans (List.filter_congr fun k _ => ?_)
      rw [read k]
      rfl
    have counts : ({ s.advance dt with scanner := s.scanner.count (readings columns) } : State) = counted := by
      refine congrArg (fun ks => ({ s.advance dt with scanner := { s.scanner with keys := tabV ks } } : State))
        (funext fun k => ?_)
      rw [KeyRec.counted_eq, read k]
      rfl
    have scanned : (s.advance dt).scanned (readings columns) = u := by
      show ((s.advance dt).changes _ true).foldl State.keyPress (((s.advance dt).changes _ false).foldl State.keyRelease
        { s.advance dt with scanner := s.scanner.count (readings columns) }) = _
      rw [changes, changes, counts]
    have scan := State.scan_of_due (s := s.advance dt) at_ late (readings columns)
    rw [scanned] at scan
    have next := (awake.event dt (State.scan (readings columns))).trans
      (congrArg (fun t : State => Host.Outcome.next t.settle) scan)
    refine ⟨next, fun agree => next.trans ?_⟩
    have none (pressed : Bool) : changed pressed = [] := by
      rw [← changes]
      refine State.changes_of_agreement (fun k => ?_) pressed
      rw [read k]
      exact agree k
    have cleared : counted =
        { s.advance dt with
          scanner := { s.scanner with keys := mapV (fun r => { r with count := 0 }) s.scanner.keys } } := by
      refine congrArg (fun ks => ({ s.advance dt with scanner := { s.scanner with keys := ks } } : State))
        (Vector.ext fun i below => ?_)
      rw [getElem_tabV, getElem_mapV]
      have agrees := agree ⟨i, below⟩
      refine congrArg (fun n => ({ s.scanner.keys[i] with count := n } : KeyRec)) (if_neg fun h => ?_)
      exact Bool.noConfusion (h.1.symm.trans agrees)
    have quiet : u = counted := by
      show (changed true).foldl State.keyPress ((changed false).foldl State.keyRelease counted) = _
      rw [none, none]
      rfl
    rw [quiet, cleared]
    exact congrArg Host.Outcome.next (State.settle_of_not_evicted awake.2.1)
  · intro put listed rectangle off
    refine ⟨State.keyPress_of_settling, fun settled full => ?_, fun settled few free => ?_,
      State.keyRelease_of_unlisted, fun before phase after isListed trackers apart => ?_⟩
    · exact State.keyPress_of_ignored settled (full.imp_right (completesRectangle_iff k listed).2)
    · exact State.keyPress_of_listed settled few ((completesRectangle_iff k listed).not.2 free)
    · refine (State.keyRelease_of_listed isListed).trans ((State.trackUp_of (s := (s.setKey k .up).setPressed off)
        trackers apart).trans ?_)
      cases phase <;> rfl

/-! ### Stuck keys (R124) -/

theorem State.stuckExpiry_of_due {s : State} {p : Pressed}
    (first : s.scanner.pressed.find? (fun q => decide (q.stuckAt ≤ s.now)) = some p) :
    s.stuckExpiry =
      ((s.setKey p.key .stuck).trackUp (.key p.key)).setPressed
        (((s.setKey p.key .stuck).trackUp (.key p.key)).scanner.pressed.filter fun q => q.key != p.key) := by
  rw [State.stuckExpiry, first]

/-- Settles O46. -/
theorem keyIsStuck : Obligations.KeyIsStuck := by
  intro s dt p before after phase awake first trackers apart stuck u
  have ended : ((s.advance dt).setKey p.key .stuck).trackUp (.key p.key) = stuck.handsUp (.key p.key) phase :=
    State.trackUp_of (s := (s.advance dt).setKey p.key .stuck) trackers apart
  have expiry := State.stuckExpiry_of_due (s := s.advance dt) first
  have handed : stuck.handsUp (.key p.key) phase = u := by
    cases phase <;> rfl
  have scanner : u.scanner = stuck.scanner := handed ▸ stuck.handsUp_scanner _ _
  rw [ended, handed, scanner] at expiry
  exact (awake.event dt State.stuckExpiry).trans (congrArg (fun t : State => Host.Outcome.next t.settle) expiry)

/-! ### Hold and repeat deadlines (R127) -/

theorem State.holdExpiry_of_due {s : State} {which : TrackerSel} {x : Tracker} {d : Time}
    (chosen : s.nextTracker which = some x) (short : x.phase = .short d) (late : d ≤ s.now) :
    s.holdExpiry which = (s.setPhase x.source (.held (s.now + s.gestures.repeatPeriod))).gesture x.source .hold := by
  unfold State.holdExpiry
  rw [chosen]
  dsimp only
  rw [short]
  exact if_pos late

theorem State.repeatExpiry_of_due {s : State} {which : TrackerSel} {x : Tracker} {d : Time}
    (chosen : s.nextTracker which = some x) (held : x.phase = .held d) (late : d ≤ s.now) :
    s.repeatExpiry which =
      (s.setPhase x.source (.held (s.now + s.gestures.repeatPeriod))).gesture x.source .repeated := by
  unfold State.repeatExpiry
  rw [chosen]
  dsimp only
  rw [held]
  exact if_pos late

/-- Among trackers none of which is due before a first one, the first is taken. -/
theorem earlier_foldl_of_first {x : Tracker} {after : List Tracker}
    (later : ∀ y ∈ after, x.phase.deadline ≤ y.phase.deadline) : after.foldl earlier x = x := by
  induction after with
  | nil => rfl
  | cons y after ih =>
    have stays : earlier x y = x := if_neg (Nat.not_lt.2 (later y List.mem_cons_self))
    rw [List.foldl_cons, stays]
    exact ih fun z hz => later z (List.mem_cons_of_mem _ hz)

/-- The one that is due before all before it, and not after those behind it, is taken. -/
theorem earlier_foldl {x a : Tracker} {before after : List Tracker} (sooner : x.phase.deadline < a.phase.deadline)
    (before_ : ∀ y ∈ before, x.phase.deadline < y.phase.deadline)
    (later : ∀ y ∈ after, x.phase.deadline ≤ y.phase.deadline) : (before ++ x :: after).foldl earlier a = x := by
  induction before generalizing a with
  | nil =>
    have taken : earlier a x = x := if_pos sooner
    rw [List.nil_append, List.foldl_cons, taken]
    exact earlier_foldl_of_first later
  | cons y before ih =>
    have still : x.phase.deadline < (earlier a y).phase.deadline := by
      unfold earlier
      split
      · exact before_ y List.mem_cons_self
      · exact sooner
    exact ih still fun z hz => before_ z (List.mem_cons_of_mem _ hz)

/-- The tracker of a key or of the held code is taken by its deadline. -/
theorem State.nextTracker_key_of {s : State} {before after : List Tracker} {x : Tracker}
    (ofKeys : (s.scanner.pressed.filterMap fun p => s.gestures.trackers.find? fun t => t.source == .key p.key) =
      before ++ x :: after)
    (before_ : ∀ y ∈ before, x.phase.deadline < y.phase.deadline)
    (later : ∀ y ∈ after, x.phase.deadline ≤ y.phase.deadline) : s.nextTracker .key = some x := by
  unfold State.nextTracker
  dsimp only
  rw [ofKeys]
  cases before with
  | nil => exact congrArg some (earlier_foldl_of_first later)
  | cons a before =>
    exact congrArg some (earlier_foldl (before_ a List.mem_cons_self)
      (fun y hy => before_ y (List.mem_cons_of_mem _ hy)) later)

theorem State.nextTracker_key_of_none {s : State}
    (none : (s.scanner.pressed.filterMap fun p => s.gestures.trackers.find? fun t => t.source == .key p.key) = []) :
    s.nextTracker .key = .none := by
  unfold State.nextTracker
  dsimp only
  rw [none]

/-- Settles O47. -/
theorem holdAndRepeat : Obligations.HoldAndRepeat := by
  refine ⟨fun s dt which x d awake chosen late => ⟨fun short => ?_, fun held => ?_⟩, ?_⟩
  · exact (awake.event dt (State.holdExpiry which)).trans
      (congrArg (fun t : State => Host.Outcome.next t.settle)
        (State.holdExpiry_of_due (s := s.advance dt) chosen short late))
  · exact (awake.event dt (State.repeatExpiry which)).trans
      (congrArg (fun t : State => Host.Outcome.next t.settle)
        (State.repeatExpiry_of_due (s := s.advance dt) chosen held late))
  · intro s due ofKeys
    have deadline (x : Tracker) : x.phase.deadline = due x := by
      show _ = (match x.phase with | .short t => t | .held t => t)
      cases x.phase <;> rfl
    refine ⟨State.nextTracker_key_of_none, fun before x after split before_ later => ?_, ?_⟩
    · refine State.nextTracker_key_of split (fun y hy => ?_) fun y hy => ?_
      · rw [deadline, deadline]
        exact before_ y hy
      · rw [deadline, deadline]
        exact later y hy
    · refine congrArg (fun p => s.gestures.trackers.find? p) (funext fun x => ?_)
      unfold Tracker.isKey
      cases x.source <;> rfl

end Sys2Proof.Machine
end

section
/-! PROOFS. The infrared decoder and the edges of its input: O48. -/

namespace Sys2Proof.Machine

/-! ### Windows and leaders (R131, R133) -/

theorem inWindow_iff (nominal tolerance : Nat) (d : Time) :
    inWindow nominal tolerance d = true ↔
      nominal * (100 - tolerance) * us ≤ 100 * d ∧ 100 * d ≤ nominal * (100 + tolerance) * us :=
  decide_eq_true_iff

theorem pastWindow_iff (nominal tolerance : Nat) (d : Time) :
    pastWindow nominal tolerance d = true ↔ nominal * (100 + tolerance) * us < 100 * d :=
  decide_eq_true_iff

/-- The leader window of a declared set holds a mark. -/
def IrReceiver.leads (r : IrReceiver) (d : Time) (x : SetId) : Bool :=
  match r.codeSet x with
  | some c => inWindow c.leaderMark c.tolerance d
  | none => false

theorem IrReceiver.leads_iff (r : IrReceiver) (d : Time) (x : SetId) :
    r.leads d x = true ↔ ∃ c, r.codeSets[x.val]? = some c ∧ inWindow c.leaderMark c.tolerance d = true := by
  show (match r.codeSets[x.val]? with | some c => inWindow c.leaderMark c.tolerance d | none => false) = true ↔ _
  cases r.codeSets[x.val]? with
  | none => exact ⟨nofun, nofun⟩
  | some c => exact ⟨fun h => ⟨c, rfl, h⟩, fun ⟨_, e, h⟩ => Option.some.inj e ▸ h⟩

theorem IrReceiver.leaderSet_eq (r : IrReceiver) (d : Time) : r.leaderSet d = (List.finRange 4).find? (r.leads d) := rfl

/-! ### Spaces and limits (R132 to R134, R136) -/

section

variable {r : IrReceiver} {d : Time} {set : SetId} {c : CodeSet}

theorem IrReceiver.spaceEnd_leader (leader : r.decoder = .leader set) (declared : r.codeSet set = some c) :
    r.spaceEnd d =
      if inWindow c.leaderSpace c.tolerance d = true then .bits set 0 0
      else if inWindow c.holdSpace c.tolerance d = true then .stop set .hold
      else .idle := by
  unfold IrReceiver.spaceEnd
  rw [leader]
  dsimp only
  rw [declared]

theorem IrReceiver.spaceEnd_bits {n : Nat} {v : CodeValue} (bits : r.decoder = .bits set n v)
    (declared : r.codeSet set = some c) :
    let read (v : CodeValue) : Decoder := if n + 1 = c.bitCount then .stop set (.code v) else .bits set (n + 1) v
    r.spaceEnd d =
      if inWindow c.zeroSpace c.tolerance d = true then read v
      else if inWindow c.oneSpace c.tolerance d = true then read (v ||| (1#32 <<< n))
      else .idle := by
  unfold IrReceiver.spaceEnd
  rw [bits]
  dsimp only
  rw [declared]
  rfl

theorem IrReceiver.limitPassed_leader (leader : r.decoder = .leader set) (declared : r.codeSet set = some c) :
    r.limitPassed d = true ↔
      r.level = false ∧ c.leaderSpace * (100 + c.tolerance) * us < 100 * d
        ∧ c.holdSpace * (100 + c.tolerance) * us < 100 * d := by
  rw [← pastWindow_iff, ← pastWindow_iff, ← Bool.not_eq_true', ← Bool.and_eq_true, ← Bool.and_eq_true, ← Bool.and_assoc]
  unfold IrReceiver.limitPassed
  rw [leader]
  dsimp only
  rw [declared]

theorem IrReceiver.limitPassed_bits {n : Nat} {v : CodeValue} (bits : r.decoder = .bits set n v)
    (declared : r.codeSet set = some c) :
    r.limitPassed d = true ↔
      (r.level = true ∧ c.bitMark * (100 + c.tolerance) * us < 100 * d)
        ∨ (r.level = false ∧ c.zeroSpace * (100 + c.tolerance) * us < 100 * d
          ∧ c.oneSpace * (100 + c.tolerance) * us < 100 * d) := by
  rw [← pastWindow_iff, ← pastWindow_iff, ← pastWindow_iff]
  unfold IrReceiver.limitPassed
  rw [bits]
  dsimp only
  rw [declared]
  cases r.level <;> simp

theorem IrReceiver.limitPassed_stop {res : IrResult} (stop : r.decoder = .stop set res)
    (declared : r.codeSet set = some c) :
    r.limitPassed d = true ↔ r.level = true ∧ c.bitMark * (100 + c.tolerance) * us < 100 * d := by
  rw [← pastWindow_iff, ← Bool.and_eq_true]
  unfold IrReceiver.limitPassed
  rw [stop]
  dsimp only
  rw [declared]

/-! ### Marks (R133 to R136) -/

theorem IrReceiver.markEnd_idle (idle : r.decoder = .idle) : r.markEnd d = (r.leaderMark d, none) := by
  unfold IrReceiver.markEnd
  rw [idle]

theorem IrReceiver.markEnd_bits {n : Nat} {v : CodeValue} (bits : r.decoder = .bits set n v)
    (declared : r.codeSet set = some c) :
    r.markEnd d = (if inWindow c.bitMark c.tolerance d = true then r.decoder else r.leaderMark d, none) := by
  unfold IrReceiver.markEnd
  rw [bits]
  dsimp only
  rw [declared]
  exact (apply_ite (Prod.mk · none) _ _ _).symm

/-- What a stop mark completes (R135). -/
def IrResult.decoded (set : SetId) : IrResult → Decoded
  | .code v => .code set v
  | .hold => .hold set

theorem IrReceiver.markEnd_stop {res : IrResult} (stop : r.decoder = .stop set res)
    (declared : r.codeSet set = some c) :
    r.markEnd d =
      if inWindow c.bitMark c.tolerance d = true then (.idle, some (res.decoded set)) else (r.leaderMark d, none) := by
  unfold IrReceiver.markEnd
  rw [stop]
  dsimp only
  rw [declared]
  cases res <;> rfl

theorem IrReceiver.leaderMark_eq (r : IrReceiver) (d : Time) :
    r.leaderMark d =
      match r.leaderSet d with
      | some set => .leader set
      | none => .idle := by
  unfold IrReceiver.leaderMark
  cases r.leaderSet d <;> rfl

end

/-! ### Edges (R132) -/

section

variable {s : State} {t : Time}

theorem State.irEdge_of_same {mark : Bool} (same : s.ir.level = mark) : s.irEdge mark = s :=
  if_pos same

theorem State.irEdge_mark (space : s.ir.level = false) : s.irEdge true = s.markStart :=
  (if_neg (by rw [space]; exact nofun)).trans (if_pos rfl)

theorem State.irEdge_space (mark : s.ir.level = true) : s.irEdge false = s.markEnd :=
  (if_neg (by rw [mark]; exact nofun)).trans (if_neg nofun)

/-- While the receiver is blanked only the level of its input is followed. -/
theorem State.irEdge_of_blanked {mark : Bool} (blanked : s.ir.blanking ≠ .off) :
    s.irEdge mark = s.setIr { s.ir with level := mark } := by
  by_cases same : s.ir.level = mark
  · rw [State.irEdge_of_same same, ← same]
    rfl
  · unfold State.irEdge
    rw [if_neg same]
    cases mark with
    | true => exact if_pos blanked
    | false => exact if_pos blanked

theorem State.markStart_of_unmeasured (off : s.ir.blanking = .off) (unmeasured : s.ir.since = none) :
    s.markStart = s.setIr { s.ir with level := true, since := some s.now } := by
  unfold State.markStart
  rw [if_neg (not_not.2 off), unmeasured]

theorem State.markStart_of_measured (off : s.ir.blanking = .off) (measured : s.ir.since = some t) :
    s.markStart =
      s.setIr { s.ir with level := true, since := some s.now, decoder := s.ir.spaceEnd (s.now - t) } := by
  unfold State.markStart
  rw [if_neg (not_not.2 off), measured]

theorem State.markEnd_of_unmeasured (off : s.ir.blanking = .off) (unmeasured : s.ir.since = none) :
    s.markEnd = s.setIr { s.ir with level := false } := by
  unfold State.markEnd
  rw [if_neg (not_not.2 off), unmeasured]

theorem State.markEnd_of_measured {d : Decoder} (off : s.ir.blanking = .off) (measured : s.ir.since = some t)
    (judged : s.ir.markEnd (s.now - t) = (d, none)) :
    s.markEnd = s.setIr { s.ir with level := false, since := some s.now, decoder := d } := by
  unfold State.markEnd
  rw [if_neg (not_not.2 off), measured]
  dsimp only
  rw [judged]

theorem State.markEnd_of_completed {d : Decoder} {x : Decoded} (off : s.ir.blanking = .off)
    (measured : s.ir.since = some t) (judged : s.ir.markEnd (s.now - t) = (d, some x)) :
    s.markEnd = (s.setIr { s.ir with level := false, since := some s.now, decoder := d }).decoded x := by
  unfold State.markEnd
  rw [if_neg (not_not.2 off), measured]
  dsimp only
  rw [judged]

theorem State.limitExpiry_of_blanked (blanked : s.ir.blanking ≠ .off) : s.limitExpiry = s :=
  if_pos blanked

theorem State.limitExpiry_of_unmeasured (unmeasured : s.ir.since = none) : s.limitExpiry = s := by
  unfold State.limitExpiry
  rw [unmeasured]
  exact ite_self _

theorem State.limitExpiry_of_measured (off : s.ir.blanking = .off) (measured : s.ir.since = some t) :
    s.limitExpiry =
      if s.ir.limitPassed (s.now - t) = true then s.setIr { s.ir with decoder := .idle } else s := by
  unfold State.limitExpiry
  rw [if_neg (not_not.2 off), measured]

end

/-- Settles O48. -/
theorem infraredEdges : Obligations.InfraredEdges := by
  refine ⟨inWindow_iff, fun r d set => ?_, fun r d set c declared => ?_, fun s dt mark awake => ?_, ?_⟩
  · intro fits
    refine ⟨?_, ?_⟩
    · rw [IrReceiver.leaderSet_eq, find?_finRange_eq_some, r.leads_iff]
      refine and_congr_right fun _ => forall₂_congr fun x _ => ?_
      rw [← Bool.not_eq_true, r.leads_iff]
    · rw [IrReceiver.leaderSet_eq, List.find?_eq_none]
      exact ⟨fun none x => mt (r.leads_iff d x).2 (none x (List.mem_finRange x)),
        fun none x _ => mt (r.leads_iff d x).1 (none x)⟩
  · intro fitsIn past
    refine ⟨fun idle => ⟨?_, ?_⟩, fun leader => ?_, fun n v bits => ?_,
      fun res stop => IrReceiver.limitPassed_stop stop declared⟩
    · unfold IrReceiver.spaceEnd
      rw [idle]
    · unfold IrReceiver.limitPassed
      rw [idle]
    · have space := IrReceiver.spaceEnd_leader (d := d) leader declared
      exact ⟨fun fits => space.trans (if_pos fits),
        fun no fits => space.trans ((if_neg no).trans (if_pos fits)),
        fun no no' => space.trans ((if_neg no).trans (if_neg no')), IrReceiver.limitPassed_leader leader declared⟩
    · have space := IrReceiver.spaceEnd_bits (d := d) bits declared
      exact ⟨fun fits => space.trans (if_pos fits),
        fun no fits => space.trans ((if_neg no).trans (if_pos fits)),
        fun no no' => space.trans ((if_neg no).trans (if_neg no')), IrReceiver.limitPassed_bits bits declared⟩
  · have edge {m : Bool} {t : State} (e : (s.advance dt).irEdge m = t) (kept : t.queue.evicted = s.queue.evicted) :
        exec (.irInputEdge dt m) s = .next t :=
      event_eq awake (effect := State.irEdge m) e (kept.trans awake.2.1)
    have limit (e : (s.advance dt).limitExpiry = s.advance dt) : exec (.limitPassed dt) s = .next (s.advance dt) :=
      event_eq awake (effect := State.limitExpiry) e awake.2.1
    refine ⟨fun same => edge (State.irEdge_of_same (s := s.advance dt) same) rfl, fun blanked => ⟨?_, ?_⟩,
      fun unmeasured => ⟨?_, fun off level => ?_, fun off level => ?_⟩⟩
    · exact edge (State.irEdge_of_blanked (s := s.advance dt) blanked) rfl
    · exact limit (State.limitExpiry_of_blanked (s := s.advance dt) blanked)
    · exact limit (State.limitExpiry_of_unmeasured (s := s.advance dt) unmeasured)
    · exact edge ((State.irEdge_space (s := s.advance dt) level).trans
        (State.markEnd_of_unmeasured (s := s.advance dt) off unmeasured)) rfl
    · exact edge ((State.irEdge_mark (s := s.advance dt) level).trans
        (State.markStart_of_unmeasured (s := s.advance dt) off unmeasured)) rfl
  · intro s dt t0 awake off since d judged measured
    have edge {m : Bool} {t : State} (e : (s.advance dt).irEdge m = t) (kept : t.queue.evicted = s.queue.evicted) :
        exec (.irInputEdge dt m) s = .next t :=
      event_eq awake (effect := State.irEdge m) e (kept.trans awake.2.1)
    have leaderMark : s.ir.leaderMark d = judged := s.ir.leaderMark_eq d
    have ends {x : Decoder} (level : s.ir.level = true) (mark : s.ir.markEnd d = (x, none)) :
        exec (.irInputEdge dt false) s = .next (measured false x) :=
      edge ((State.irEdge_space (s := s.advance dt) level).trans
        (State.markEnd_of_measured (s := s.advance dt) off since mark)) rfl
    have limit := State.limitExpiry_of_measured (s := s.advance dt) off since
    refine ⟨fun level => ?_, fun level => ⟨fun idle => ?_, fun set c declared => ⟨fun n v bits => ?_, fun res stop => ?_⟩⟩,
      fun past => ?_, fun within => ?_⟩
    · exact edge ((State.irEdge_mark (s := s.advance dt) level).trans
        (State.markStart_of_measured (s := s.advance dt) off since)) rfl
    · exact ends level (leaderMark ▸ IrReceiver.markEnd_idle idle)
    · have mark := IrReceiver.markEnd_bits (d := d) bits declared
      rw [leaderMark] at mark
      exact ⟨fun fits => ends level (mark.trans (congrArg (Prod.mk · none) (if_pos fits))),
        fun no => ends level (mark.trans (congrArg (Prod.mk · none) (if_neg no)))⟩
    · have mark := IrReceiver.markEnd_stop (d := d) stop declared
      rw [leaderMark] at mark
      refine ⟨fun fits => ?_, fun no => ends level (mark.trans (if_neg no))⟩
      have completed := (State.irEdge_space (s := s.advance dt) level).trans
        (State.markEnd_of_completed (s := s.advance dt) off since (mark.trans (if_pos fits)))
      have next := (awake.event dt (State.irEdge false)).trans
        (congrArg (fun t : State => Host.Outcome.next t.settle) completed)
      cases res <;> exact next
    · exact event_eq awake (effect := State.limitExpiry) (limit.trans (if_pos past)) awake.2.1
    · refine event_eq awake (effect := State.limitExpiry) (limit.trans (if_neg ?_)) awake.2.1
      exact Bool.eq_false_iff.1 within

end Sys2Proof.Machine
end

section
/-! PROOFS. Complete codes, hold markers and the held code: O49. -/

namespace Sys2Proof.Machine

section

variable {s : State} {t : Time} {set : SetId} {c : CodeSet} {v : CodeValue} {h : HeldCode}

/-! ### What a complete reception hands over (R137) -/

theorem State.decoded_code_of_none (none : s.ir.held = none) : s.decoded (.code set v) = s.holdCode set v := by
  unfold State.decoded
  rw [none]

theorem State.decoded_code_of_same (held : s.ir.held = some h) (same : h.set = set ∧ h.value = v) :
    s.decoded (.code set v) = s.refreshHeld h := by
  unfold State.decoded
  rw [held]
  exact if_pos same

theorem State.decoded_code_of_other (held : s.ir.held = some h) (other : ¬(h.set = set ∧ h.value = v)) :
    s.decoded (.code set v) = (s.dropHeld h).holdCode set v := by
  unfold State.decoded
  rw [held]
  exact if_neg other

theorem State.decoded_hold_of_set (held : s.ir.held = some h) (same : h.set = set) :
    s.decoded (.hold set) = s.refreshHeld h := by
  unfold State.decoded
  rw [held]
  exact if_pos same

theorem State.decoded_hold_of_other (other : ∀ h, s.ir.held = some h → h.set ≠ set) : s.decoded (.hold set) = s := by
  unfold State.decoded
  cases held : s.ir.held with
  | none => rfl
  | some h => exact if_neg (other h held)

theorem State.releaseAt_eq (declared : s.ir.codeSet set = some c) :
    s.releaseAt set = s.now + c.releaseTimeout * ms := by
  rw [State.releaseAt, declared]
  rfl

theorem State.refreshHeld_eq (declared : s.ir.codeSet h.set = some c) :
    s.refreshHeld h =
      s.setIr { s.ir with held := some { h with release := .running (s.now + c.releaseTimeout * ms) } } := by
  rw [State.refreshHeld, State.releaseAt_eq declared]

/-- A new release deadline is suspended where the receiver is blanked (R142; log entry 40). -/
theorem IrReceiver.deadline_eq (r : IrReceiver) (now timeout : Time) :
    r.deadline now (now + timeout) =
      if r.blanking = .off then .running (now + timeout) else .suspended timeout := by
  unfold IrReceiver.deadline
  refine if_congr Iff.rfl rfl ?_
  exact congrArg Release.suspended (Nat.add_sub_cancel_left now timeout)

/-- A code becomes the held code: its release deadline, a tracker in SHORT, and PRESS. -/
theorem State.holdCode_eq {n hold : Time} (declared : s.ir.codeSet set = some c) (now : s.now = n)
    (time : s.gestures.holdTime = hold) :
    let release : Release :=
      if s.ir.blanking = .off then .running (n + c.releaseTimeout * ms) else .suspended (c.releaseTimeout * ms)
    s.holdCode set v =
      ({ s with
          ir := { s.ir with held := some { set := set, value := v, release := release } }
          gestures :=
            { s.gestures with
              trackers := s.gestures.trackers ++ [{ source := .ir set v, phase := .short (n + hold) }] } } :
        State).gesture (.ir set v) .press := by
  subst now time
  intro release
  have deadline : s.ir.deadline s.now (s.releaseAt set) = release := by
    rw [State.releaseAt_eq declared]
    exact s.ir.deadline_eq s.now _
  rw [State.holdCode, deadline]
  rfl

/-- An IR up takes no time, and keeps the code sets and the hold time. -/
theorem State.trackUp_keeps (s : State) (src : Source) :
    (s.trackUp src).now = s.now ∧ (s.trackUp src).ir.codeSets = s.ir.codeSets
      ∧ (s.trackUp src).gestures.holdTime = s.gestures.holdTime := by
  have keeps {u : State} (acts : (s.setTrackers (s.gestures.trackers.filter fun t => t.source != src)).Acts u) :
      u.now = s.now ∧ u.ir.codeSets = s.ir.codeSets ∧ u.gestures.holdTime = s.gestures.holdTime :=
    ⟨acts.now, acts.codeSets, (congrArg GestureUnit.holdTime acts.gestures :)⟩
  unfold State.trackUp
  split
  · exact ⟨rfl, rfl, rfl⟩
  · dsimp only
    split
    · exact keeps ((State.gesture_acts _ _ _).trans (State.gesture_acts _ _ _))
    · exact keeps (State.gesture_acts _ _ _)

/-! ### The end of a stop mark (R135) -/

/-- The stop mark in progress lies in its window. -/
structure State.StopFits (s : State) (res : IrResult) (t : Time) (set : SetId) (c : CodeSet) : Prop where
  off : s.ir.blanking = .off
  since : s.ir.since = some t
  level : s.ir.level = true
  declared : s.ir.codeSet set = some c
  fits : inWindow c.bitMark c.tolerance (s.now - t) = true
  stop : s.ir.decoder = .stop set res

namespace State.StopFits

variable {res : IrResult}

theorem judged (fit : s.StopFits res t set c) : s.ir.markEnd (s.now - t) = (.idle, some (res.decoded set)) :=
  (IrReceiver.markEnd_stop fit.stop fit.declared).trans (if_pos fit.fits)

theorem completion (fit : s.StopFits res t set c) : s.completion = some (res.decoded set) := by
  unfold State.completion
  rw [if_neg, fit.since]
  · exact congrArg Prod.snd fit.judged
  · rw [fit.off, fit.level]
    exact fun h => h.elim (fun h => h rfl) nofun

theorem markEnd (fit : s.StopFits res t set c) :
    s.markEnd =
      (s.setIr { s.ir with level := false, since := some s.now, decoder := .idle }).decoded (res.decoded set) :=
  State.markEnd_of_completed fit.off fit.since fit.judged

theorem completeCode (fit : s.StopFits (.code v) t set c) :
    s.completeCode =
      (s.setIr { s.ir with level := false, since := some s.now, decoder := .idle }).decoded (.code set v) := by
  rw [State.completeCode, fit.completion]
  exact fit.markEnd

theorem holdMarker (fit : s.StopFits .hold t set c) :
    s.holdMarker =
      (s.setIr { s.ir with level := false, since := some s.now, decoder := .idle }).decoded (.hold set) := by
  rw [State.holdMarker, fit.completion]
  exact fit.markEnd

end State.StopFits

/-! ### The release deadline (R138) -/

theorem State.releaseExpiry_of_due (off : s.ir.blanking = .off) (held : s.ir.held = some h)
    (running : h.release = .running t) (late : t ≤ s.now) : s.releaseExpiry = s.dropHeld h := by
  unfold State.releaseExpiry
  rw [held]
  dsimp only
  rw [running]
  exact if_pos ⟨off, late⟩

end

/-- Settles O49. -/
theorem codesAreHeldAndReleased : Obligations.CodesAreHeldAndReleased := by
  refine ⟨?_, ?_, ?_⟩
  · intro s dt t0 set c awake off since level declared fits measured release tracked
    have fit {res : IrResult} (stop : s.ir.decoder = .stop set res) : (s.advance dt).StopFits res t0 set c :=
      ⟨off, since, level, declared, fits, stop⟩
    have code {v : CodeValue} {t : State} (stop : s.ir.decoder = .stop set (.code v))
        (e : (measured s.ir.held).decoded (.code set v) = t) : exec (.completeCode dt) s = .next t.settle :=
      (awake.event dt State.completeCode).trans
        (congrArg (fun t : State => Host.Outcome.next t.settle) ((fit stop).completeCode.trans e))
    have marker {t : State} (stop : s.ir.decoder = .stop set .hold)
        (e : (measured s.ir.held).decoded (.hold set) = t) : exec (.holdMarker dt) s = .next t.settle :=
      (awake.event dt State.holdMarker).trans
        (congrArg (fun t : State => Host.Outcome.next t.settle) ((fit stop).holdMarker.trans e))
    have quiet (held : Option HeldCode) : (measured held).settle = measured held :=
      State.settle_of_not_evicted awake.2.1
    have refresh {h : HeldCode} (same : h.set = set) :
        (measured s.ir.held).refreshHeld h = measured (some { h with release := release }) :=
      State.refreshHeld_eq (s := measured s.ir.held) (c := c) (same ▸ declared)
    refine ⟨fun v stop => ⟨fun none => ?_, fun h held same value => ?_, fun h held other => ?_⟩,
      fun stop => ⟨fun h held same => ?_, fun other => ?_⟩⟩
    · refine code stop ((State.decoded_code_of_none (s := measured s.ir.held) none).trans ?_)
      have hold := State.holdCode_eq (s := measured s.ir.held) (v := v) declared rfl rfl
      exact hold.trans (congrArg (fun r : Release =>
        (tracked (measured (some { set := set, value := v, release := r })) v).gesture (.ir set v) .press) (if_pos off))
    · refine (code stop ((State.decoded_code_of_same (s := measured s.ir.held) held ⟨same, value⟩).trans
        (refresh same))).trans ?_
      exact congrArg Host.Outcome.next (quiet _)
    · intro u r
      obtain ⟨now, sets, hold⟩ := (measured none).trackUp_keeps (.ir h.set h.value)
      refine code stop ((State.decoded_code_of_other (s := measured s.ir.held) held other).trans ?_)
      have declared' : u.ir.codeSet set = some c := (congrArg (·[set.val]?) sets).trans declared
      exact State.holdCode_eq (s := u) (v := v) declared' now hold
    · refine (marker stop ((State.decoded_hold_of_set (s := measured s.ir.held) held same).trans (refresh same))).trans ?_
      exact congrArg Host.Outcome.next (quiet _)
    · refine (marker stop (State.decoded_hold_of_other (s := measured s.ir.held) other)).trans ?_
      exact congrArg Host.Outcome.next (quiet _)
  · intro s dt t0 h awake off held running late
    exact (awake.event dt State.releaseExpiry).trans
      (congrArg (fun t : State => Host.Outcome.next t.settle)
        (State.releaseExpiry_of_due (s := s.advance dt) off held running late))
  · intro s src before phase after trackers apart u
    refine (State.trackUp_of trackers apart).trans ?_
    cases phase <;> rfl

end Sys2Proof.Machine
end

section
/-! PROOFS. Emissions: O50. -/

namespace Sys2Proof.Machine

/-! ### An offer, and the blanking of the receiver (R140, R142) -/

theorem IrReceiver.blank_eq (r : IrReceiver) (now : Time) :
    r.blank now =
      match r.blanking with
      | .off =>
        { r with
          decoder := .idle, since := none, blanking := .on
          held :=
            r.held.map fun h =>
              { h with
                release :=
                  match h.release with
                  | .running t => .suspended (t - now)
                  | .suspended x => .suspended x } }
      | .on => r
      | .ending _ => { r with blanking := .on } := by
  have suspend (h : HeldCode) : h.release.suspend now =
      match h.release with
      | .running t => .suspended (t - now)
      | .suspended x => .suspended x := by
    cases h.release <;> rfl
  unfold IrReceiver.blank
  cases r.blanking with
  | off =>
    exact congrArg
      (fun f : HeldCode → Release =>
        ({ r with
          decoder := .idle, since := none, blanking := .on
          held := r.held.map fun h => { h with release := f h } } : IrReceiver)) (funext suspend)
  | on => rfl
  | ending => rfl

section

variable {s : State} {e : Emission}

theorem State.offerEmission_of_conflict (conflict : s.start.state = .addressConflict) : s.offerEmission e = (false, s) :=
  if_pos conflict

theorem State.offerEmission_of_rest (other : s.start.state ≠ .addressConflict) (rest : s.emitter.current = none) :
    s.offerEmission e = (true, s.beginEmission e) := by
  unfold State.offerEmission
  rw [if_neg other, rest]

theorem State.offerEmission_of_current (other : s.start.state ≠ .addressConflict) (busy : s.emitter.current ≠ none) :
    s.offerEmission e =
      if s.emitter.queue.length < 4 then
        (true, { s with emitter := { s.emitter with queue := s.emitter.queue ++ [e] } })
      else (false, s) := by
  obtain ⟨x, current⟩ := Option.ne_none_iff_exists'.1 busy
  unfold State.offerEmission
  rw [if_neg other, current]
  rfl

/-! ### Frames, and the end of an emission (R141, R144) -/

variable {x : Current} {c : CodeSet}

theorem State.frameIsDue_iff (declared : s.ir.codeSet x.emission.set = some c) :
    s.frameIsDue x = true ↔ x.frameStart + max (c.framePeriod * ms) ((x.intervals c).sum * us) ≤ s.now := by
  unfold State.frameIsDue
  rw [declared]
  exact decide_eq_true_iff

theorem State.emissionFrame_of_due (current : s.emitter.current = some x) (more : x.begun < x.emission.repeats)
    (due : s.frameIsDue x = true) :
    s.emissionFrame =
      { s with
        emitter := { s.emitter with current := some { x with begun := x.begun + 1, frameStart := s.now } } } := by
  unfold State.emissionFrame
  rw [current]
  exact if_pos ⟨more, due⟩

theorem State.emissionEnd_of_last (current : s.emitter.current = some x) (last : x.emission.repeats ≤ x.begun)
    (due : s.frameIsDue x = true) (none : s.emitter.queue = []) :
    s.emissionEnd =
      { s with
        emitter := { s.emitter with current := .none }
        ir := { s.ir with blanking := .ending (s.now + 10 * ms) } } := by
  unfold State.emissionEnd
  rw [current]
  refine (if_pos ⟨last, due⟩).trans ?_
  rw [none]
  rfl

/-- Behind the last frame the oldest waiting emission begins, in the blanking that is on. -/
theorem State.emissionEnd_of_next {rest : List Emission} (current : s.emitter.current = some x)
    (last : x.emission.repeats ≤ x.begun) (due : s.frameIsDue x = true) (next : s.emitter.queue = e :: rest)
    (on : s.ir.blanking = .on) :
    s.emissionEnd =
      ({ s with
          emitter :=
            { current := some { emission := e, begun := 1, frameStart := s.now }
              queue := rest, waiting := s.emitter.waiting } } : State).placeFreed := by
  have blanked : s.ir.blank s.now = s.ir := by
    rw [IrReceiver.blank, on]
  unfold State.emissionEnd
  rw [current]
  refine (if_pos ⟨last, due⟩).trans ?_
  rw [next]
  exact congrArg
    (fun r : IrReceiver =>
      ({ s with
          emitter :=
            { current := some { emission := e, begun := 1, frameStart := s.now }
              queue := rest, waiting := s.emitter.waiting }
          ir := r } : State).placeFreed) blanked

theorem State.placeFreed_of_no_rival (free : s.rival = 0) : s.placeFreed = s.emitterGrant :=
  State.thenDo_of_no_rival free _ _

/-- The grant of a freed place that the next rival reaches first is owed (log entry 37). -/
theorem State.placeFreed_of_rival (rival : s.rival = 1) (owes : s.owed = []) (waits : s.emitter.waiting ≠ [])
    (place : s.emitter.queue.length < 4) : s.placeFreed = { s with owed := [.emitter] } := by
  obtain ⟨i, rest, waits⟩ := List.exists_cons_of_ne_nil waits
  rw [State.placeFreed, State.thenDo_eq, if_neg fun h => h.2 owes, State.emitterGrant_of_place s waits place,
    if_pos rival, owes]
  rfl

/-- With only the emitter's grant owed, an event goes on with it. -/
theorem State.goOn_emitter (owes : s.owed = [.emitter]) :
    s.goOn 0 = ({ s with rival := 0, owed := [] } : State).emitterGrant.settle := by
  rw [State.goOn, owes]
  exact congrArg State.settle (State.thenDo_of_no_rival (s := s.calm 0) rfl .emitter fun s => s.pay .emitter)

theorem State.blankingEnd_of_due {t : Time} (ending : s.ir.blanking = .ending t) (late : t ≤ s.now) :
    s.blankingEnd =
      s.setIr
        { s.ir with
          blanking := .off, decoder := .idle, since := none
          held :=
            s.ir.held.map fun h =>
              { h with
                release :=
                  match h.release with
                  | .running t => .running t
                  | .suspended r => .running (s.now + r) } } := by
  have resume (h : HeldCode) : h.release.resume s.now =
      match h.release with
      | .running t => .running t
      | .suspended r => .running (s.now + r) := by
    cases h.release <;> rfl
  unfold State.blankingEnd
  rw [ending]
  refine (if_pos late).trans ?_
  exact congrArg
    (fun f : HeldCode → Release =>
      s.setIr
        { s.ir with
          blanking := .off, decoder := .idle, since := none
          held := s.ir.held.map fun h => { h with release := f h } }) (funext resume)

end

/-- Settles O50. -/
theorem emissionProceeds : Obligations.EmissionProceeds := by
  refine ⟨fun s e => ⟨State.offerEmission_of_conflict, fun other rest => ?_, State.offerEmission_of_current⟩,
    fun x c => rfl, ?_, ?_, ?_⟩
  · refine (State.offerEmission_of_rest other rest).trans (congrArg (Prod.mk true) ?_)
    unfold State.beginEmission
    exact congrArg
      (fun r : IrReceiver =>
        ({ s with
          emitter := { s.emitter with current := some { emission := e, begun := 1, frameStart := s.now } }
          ir := r } : State)) (s.ir.blank_eq s.now)
  · intro s dt x c awake current declared late
    have due : (s.advance dt).frameIsDue x = true := (State.frameIsDue_iff (s := s.advance dt) declared).2 late
    refine ⟨fun more => ?_, fun last none => ?_, fun e rest last next on => ?_⟩
    · exact event_eq awake (effect := State.emissionFrame)
        (State.emissionFrame_of_due (s := s.advance dt) current more due) awake.2.1
    · exact event_eq awake (effect := State.emissionEnd)
        (State.emissionEnd_of_last (s := s.advance dt) current last due none) awake.2.1
    · intro u
      have granted : exec (.emissionEnd dt) s = .next u.emitterGrant.settle :=
        (awake.event dt State.emissionEnd).trans (congrArg (fun t : State => Host.Outcome.next t.settle)
          ((State.emissionEnd_of_next (s := s.advance dt) current last due next on).trans
            (State.placeFreed_of_no_rival (s := u) awake.2.2.1)))
      refine ⟨fun none => granted.trans ?_, granted⟩
      rw [u.emitterGrant_of_none (.inl none)]
      exact congrArg Host.Outcome.next (State.settle_of_not_evicted awake.2.1)
  · intro s dt x c e rest rival sound free kept owes untaken others one current declared late last next on waits u v
      active clear
    have due : ((s.calm 1).advance dt).frameIsDue x = true :=
      (State.frameIsDue_iff (s := (s.calm 1).advance dt) declared).2 late
    have place : rest.length < 4 := by
      have few := sound.1
      rw [next] at few
      exact few
    have same : ({ u with owed := [] } : State) = u :=
      congrArg (fun o => ({ u with owed := o } : State)) owes.symm
    have first : (s.calm 1).happens dt State.emissionEnd = { u with owed := [.emitter] } := by
      have ended := (State.emissionEnd_of_next (s := (s.calm 1).advance dt) current last due next on).trans
        (State.placeFreed_of_rival (s := { u with owed := [] }) rfl rfl waits place)
      exact (congrArg State.settle ended).trans (State.settle_of_not_evicted kept)
    have beside : ({ u with owed := [.emitter] } : State).beside rival = { v with owed := [.emitter] } := by
      have met : (({ u with owed := [.emitter] } : State).calm 1).happens (moment rival) (effectOf rival) = v :=
        congrArg (fun w : State => (effectOf rival (w.advance (moment rival))).settle) same
      rw [State.beside, show (({ u with owed := [.emitter] } : State).calm _).happens (moment rival) (effectOf rival) = v
        from met, clear]
      rfl
    have meets : ((s.calm (moment rival).rival).happens dt State.emissionEnd).metBy rival =
        some { v with owed := [.emitter] } := by
      rw [one, first, ← beside]
      refine State.metBy_of_some _ nofun (fun h => Bool.noConfusion h.2) ?_
      rw [beside]
      exact active
    have goes : ({ v with owed := [.emitter] } : State).goOn 0 = ({ v with rival := 0 } : State).emitterGrant.settle := by
      refine (State.goOn_emitter rfl).trans ?_
      exact congrArg (fun o => ({ v with rival := 0, owed := o } : State).emitterGrant.settle) clear.symm
    refine (event_of_not_taken free untaken).trans ?_
    rw [State.withRivals_of_some others meets]
    exact congrArg (fun w : State => Host.Outcome.next { w with taken := 1 }) goes
  · intro s dt t0 awake ending late
    exact event_eq awake (effect := State.blankingEnd) (State.blankingEnd_of_due (s := s.advance dt) ending late) awake.2.1

end Sys2Proof.Machine
end

section
/-! PROOFS. Fades and flashes: O51. -/

namespace Sys2Proof.Machine

/-! ### Fade steps (R164) -/

/-- A fade step in the terms of R164. -/
theorem LoadOutput.fade_eq (o : LoadOutput) (rate : Byte) (now : Time) :
    o.fade rate now =
      if o.duty.toNat ≤ o.target.toNat + rate.toNat ∧ o.target.toNat ≤ o.duty.toNat + rate.toNat then
        { o with duty := o.target, stepAt := none }
      else if o.duty.toNat < o.target.toNat then { o with duty := o.duty + rate, stepAt := some (now + 20 * ms) }
      else { o with duty := o.duty - rate, stepAt := some (now + 20 * ms) } := by
  have near : (if o.duty.toNat ≤ o.target.toNat then o.target.toNat - o.duty.toNat
        else o.duty.toNat - o.target.toNat) ≤ rate.toNat ↔
      o.duty.toNat ≤ o.target.toNat + rate.toNat ∧ o.target.toNat ≤ o.duty.toNat + rate.toNat := by
    split <;> omega
  by_cases within : o.duty.toNat ≤ o.target.toNat + rate.toNat ∧ o.target.toNat ≤ o.duty.toNat + rate.toNat
  · exact (if_pos (near.2 within)).trans (if_pos within).symm
  · refine Eq.trans (if_neg (mt near.1 within)) (Eq.trans ?_ (if_neg within).symm)
    have moved : BitVec.ofNat 8 (if o.duty.toNat ≤ o.target.toNat then o.duty.toNat + rate.toNat
          else o.duty.toNat - rate.toNat) =
        if o.duty.toNat < o.target.toNat then o.duty + rate else o.duty - rate := by
      by_cases up : o.duty.toNat < o.target.toNat
      · rw [if_pos up, if_pos (Nat.le_of_lt up), BitVec.ofNat_add, BitVec.ofNat_toNat, BitVec.ofNat_toNat,
          BitVec.setWidth_eq, BitVec.setWidth_eq]
      · rw [if_neg up, if_neg (by omega)]
        bv_omega
    refine (congrArg (fun d => ({ o with duty := d, stepAt := some (now + 20 * ms) } : LoadOutput)) moved).trans ?_
    exact apply_ite (fun d => ({ o with duty := d, stepAt := some (now + 20 * ms) } : LoadOutput)) _ _ _

theorem LoadOutput.step_of_due {o : LoadOutput} {m : OutputMap} {rate : Byte} {now t : Time} (map : o.map = some m)
    (dim : m.mode = .dim rate) (at_ : o.stepAt = some t) (late : t ≤ now) : o.step now = o.fade rate now := by
  have fades : (o.map.map fun m => m.mode.rate).getD 0 = rate := by
    rw [map]
    show m.mode.rate = rate
    rw [dim]
    rfl
  refine (if_pos ((due_iff _ _).2 ⟨t, at_, late⟩)).trans ?_
  rw [fades]

/-! ### The end of a flash (R169) -/

theorem State.endFlash_of_due {s : State} {i : OutId} {t : Time} (flash : (s.indicators.indicators[i]).flash = some t)
    (late : t ≤ s.now) :
    s.endFlash i =
      { s with
        indicators :=
          { s.indicators with
            indicators :=
              s.indicators.indicators.set i { s.indicators.indicators[i] with flash := none } } } :=
  if_pos ((due_iff _ _).2 ⟨t, flash, late⟩)

/-- Settles O51. -/
theorem fadesAndFlashes : Obligations.FadesAndFlashes := by
  refine ⟨fun s dt i m rate t0 awake map dim at_ late => ?_, fun s dt i t0 awake flash late => ?_⟩
  · intro o stepped
    have load : o = { s.outputs.loads[i] with shown := o.shown } := by
      show (s.advance dt).outputs.loads[i] = { s.outputs.loads[i] with shown := ((s.advance dt).outputs.loads[i]).shown }
      rw [State.advance_load, LoadOutput.at_eq]
    have fades : o.step (s.now + dt.after) = stepped := by
      refine (LoadOutput.step_of_due ?_ dim ?_ late).trans (o.fade_eq rate _)
      · rw [load]
        exact map
      · rw [load]
        exact at_
    refine event_eq awake (effect := State.stepOutput i) ?_ awake.2.1
    exact congrArg
      (fun x : LoadOutput =>
        ({ s.advance dt with
          outputs := { (s.advance dt).outputs with loads := (s.advance dt).outputs.loads.set i x } } : State)) fades
  · exact event_eq awake (effect := State.endFlash i) (State.endFlash_of_due (s := s.advance dt) flash late) awake.2.1

end Sys2Proof.Machine
end

section
/-! PROOFS. What the pins show: O52. -/

namespace Sys2Proof.Machine

/-! ### Indicators (R167 to R170) -/

section

variable {s : State} {i : OutId}

theorem State.indicatorPin_of_override {p : Pattern} (override : s.start.state.override = some p) :
    s.indicatorPin i = p.shows ((s.now - s.indicators.clockStart) % (1000 * ms)) := by
  unfold State.indicatorPin
  dsimp only
  rw [override]
  rfl

/-- The states that leave the indicators to their flashes and base patterns. -/
theorem StationState.override_of_normal {st : StationState} (normal : st ∈ [.listening, .joining, .active]) :
    st.override = none := by
  revert normal
  cases st <;> decide

theorem State.indicatorPin_of_flash {e : Time} (normal : s.start.state ∈ [.listening, .joining, .active])
    (flash : (s.indicators.indicators[i]).flash = some e) (running : s.now < e) :
    s.indicatorPin i = flashShows (600 * ms - (e - s.now)) := by
  unfold State.indicatorPin
  dsimp only
  rw [StationState.override_of_normal normal]
  dsimp only
  rw [flash]
  exact if_pos running

theorem State.indicatorPin_of_base (normal : s.start.state ∈ [.listening, .joining, .active])
    (over_ : ∀ e, (s.indicators.indicators[i]).flash = some e → e ≤ s.now) :
    s.indicatorPin i =
      (s.basePattern (s.indicators.indicators[i]).map).shows ((s.now - s.indicators.clockStart) % (1000 * ms)) := by
  unfold State.indicatorPin
  dsimp only
  rw [StationState.override_of_normal normal]
  dsimp only
  cases flash : (s.indicators.indicators[i]).flash with
  | none => rfl
  | some e => exact if_neg (Nat.not_lt.2 (over_ e flash))

/-- The base patterns (R168). -/
theorem State.basePattern_shows (s : State) (map : IndicatorMap) (clock : Time) :
    (s.basePattern map).shows clock = true ↔
      match map with
      | .none => False
      | .station =>
        s.start.state = .active
          ∨ ((s.start.state = .listening ∨ s.start.state = .joining) ∧ clock < 500 * ms)
      | .channel c want =>
        let shows (v : Byte) : Prop :=
          match want with
          | some w => v = w
          | none => v ≠ 0
        match s.chan c with
        | .unused => clock < 500 * ms
        | .home h => if h.state = .live then shows h.value else clock < 500 * ms
        | .mirror m => if m.state = .fresh then shows m.value else clock < 500 * ms := by
  have onIf (p : Prop) [Decidable p] : (if p then Pattern.on else Pattern.off).shows clock = true ↔ p := by
    split
    next yes => exact iff_of_true rfl yes
    next no => exact iff_of_false nofun no
  have slow : Pattern.slowBlink.shows clock = true ↔ clock < 500 * ms := decide_eq_true_iff
  have value (want : Option Byte) (v : Byte) :
      (match want with
        | some w => if v = w then Pattern.on else Pattern.off
        | none => if v ≠ 0 then Pattern.on else Pattern.off).shows clock = true ↔
        match want with
        | some w => v = w
        | none => v ≠ 0 := by
    cases want with
    | some w => exact onIf _
    | none => exact onIf _
  cases map with
  | none => exact ⟨nofun, nofun⟩
  | station =>
    unfold State.basePattern
    dsimp only
    cases s.start.state with
    | active => exact iff_of_true rfl (.inl rfl)
    | listening => exact slow.trans ⟨fun h => .inr ⟨.inl rfl, h⟩, fun h => (h.resolve_left nofun).2⟩
    | joining => exact slow.trans ⟨fun h => .inr ⟨.inr rfl, h⟩, fun h => (h.resolve_left nofun).2⟩
    | loading | configFault | addressConflict =>
      exact iff_of_false nofun fun h => h.elim nofun fun h => h.1.elim nofun nofun
  | channel c want =>
    unfold State.basePattern
    dsimp only
    cases s.chan c with
    | unused => exact slow
    | home h =>
      unfold Record.shownValue
      dsimp only
      by_cases live : h.state = .live
      · rw [if_pos live, if_pos live]
        exact value want h.value
      · rw [if_neg live, if_neg live]
        exact slow
    | mirror m =>
      unfold Record.shownValue
      dsimp only
      by_cases fresh : m.state = .fresh
      · rw [if_pos fresh, if_pos fresh]
        exact value want m.value
      · rw [if_neg fresh, if_neg fresh]
        exact slow

end

/-! ### The carrier (R141) -/

/-- The time into the mark that holds at a moment within interval k: a mark and a space in turn. -/
theorem markTime_of_within {l : List Nat} {k : Nat} {t : Time} {mark : Bool} (long : k < l.length)
    (begun : (l.take k).sum * us ≤ t) (ends : t < (l.take (k + 1)).sum * us) :
    markTime mark l t = if (k % 2 = 0 ↔ mark = true) then some (t - (l.take k).sum * us) else none := by
  induction l generalizing k t mark with
  | nil => exact absurd long (Nat.not_lt_zero k)
  | cons d l ih =>
    cases k with
    | zero =>
      have first : t < d * us := by
        rw [List.take_succ_cons, List.take_zero, List.sum_singleton] at ends
        exact ends
      rw [markTime, if_pos first]
      exact if_congr (by simp) (congrArg some (by simp)) rfl
    | succ k =>
      rw [List.take_succ_cons, List.sum_cons, Nat.add_mul] at begun ends
      have behind : ¬t < d * us := Nat.not_lt.2 (Nat.le_trans (Nat.le_add_right _ _) begun)
      have turn : (k % 2 = 0 ↔ (!mark) = true) ↔ ((k + 1) % 2 = 0 ↔ mark = true) := by
        have flip : (k + 1) % 2 = 0 ↔ ¬k % 2 = 0 := by omega
        rw [flip, Bool.not_eq_true', ← Bool.not_eq_true]
        tauto
      rw [markTime, if_neg behind,
        ih (Nat.lt_of_succ_lt_succ long) (Nat.le_sub_of_add_le' begun)
          (Nat.sub_lt_left_of_lt_add (Nat.not_lt.1 behind) ends),
        List.take_succ_cons, List.sum_cons, Nat.add_mul, Nat.sub_sub]
      exact if_congr turn rfl rfl

theorem markTime_of_past {l : List Nat} {t : Time} {mark : Bool} (past : l.sum * us ≤ t) : markTime mark l t = none := by
  induction l generalizing t mark with
  | nil => rfl
  | cons d l ih =>
    rw [List.sum_cons, Nat.add_mul] at past
    have behind : ¬t < d * us := Nat.not_lt.2 (Nat.le_trans (Nat.le_add_right _ _) past)
    rw [markTime, if_neg behind, ih (Nat.le_sub_of_add_le' past)]

section

variable {s : State} {x : Current} {c : CodeSet}

theorem State.carrierPin_of_rest (rest : s.emitter.current = none) : s.carrierPin = false := by
  unfold State.carrierPin
  rw [rest]

theorem State.carrierPin_of_mark {t : Time} (current : s.emitter.current = some x)
    (declared : s.ir.codeSet x.emission.set = some c)
    (mark : markTime true (x.intervals c) (s.now - x.frameStart) = some t) : s.carrierPin = carrierOn c.carrier t := by
  unfold State.carrierPin
  rw [current]
  dsimp only
  rw [declared]
  dsimp only
  rw [mark]

theorem State.carrierPin_of_space (current : s.emitter.current = some x)
    (declared : s.ir.codeSet x.emission.set = some c)
    (space : markTime true (x.intervals c) (s.now - x.frameStart) = none) : s.carrierPin = false := by
  unfold State.carrierPin
  rw [current]
  dsimp only
  rw [declared]
  dsimp only
  rw [space]

end

/-! ### The line (R1, R17) -/

theorem Attempt.drives_iff (a : Attempt) (now : Time) :
    a.drives now = true ↔
      (now - a.start) / 100 < 43 + 8 * a.frame.body.length
        ∧ (now - a.start) % 100
          < if (a.frame.bits ++ [true, true, true]).getD ((now - a.start) / 100) true = true then 25 else 75 := by
  have length : a.bits.length = 43 + 8 * a.frame.body.length := by
    rw [Attempt.bits, List.length_append, Frame.bits, Frame.length_bitsWith, Nat.add_right_comm]
    rfl
  show (match a.bits[(now - a.start) / 100]? with
    | some b => decide ((now - a.start) % 100 < lowTime b)
    | none => false) = true ↔ _ ∧ _ < if a.bits.getD ((now - a.start) / 100) true = true then 25 else 75
  rw [← length]
  by_cases within : (now - a.start) / 100 < a.bits.length
  · rw [List.getElem?_eq_getElem within, List.getD_eq_getElem _ _ within]
    exact decide_eq_true_iff.trans (and_iff_right within).symm
  · rw [List.getElem?_eq_none (Nat.not_lt.1 within)]
    exact ⟨nofun, fun h => absurd h.1 within⟩

theorem Answer.drives_iff (a : Answer) (edge now : Time) :
    a.drives edge now = true ↔ a.seen = a.slot.position + 1 ∧ edge ≤ now ∧ now < edge + 75 :=
  decide_eq_true_iff

/-- Settles O52. -/
theorem pinsShow : Obligations.PinsShow := by
  refine ⟨fun s i => decide_eq_true_iff, fun s i => ⟨fun fast => ?_, fun double => ?_, fun normal => ⟨?_, ?_⟩⟩,
    fun s => ⟨State.carrierPin_of_rest, fun x c current declared => ⟨?_, ?_⟩⟩, fun s => ⟨?_, ?_, ?_⟩,
    fun reading row => ?_, fun row => rfl⟩
  · have override : s.start.state.override = some .fastBlink := by
      rcases fast with h | h <;> rw [h] <;> rfl
    rw [State.indicatorPin_of_override override]
    exact decide_eq_true_iff
  · have override : s.start.state.override = some .doubleBlink := by
      rw [double]
      rfl
    rw [State.indicatorPin_of_override override]
    exact decide_eq_true_iff
  · intro e flash running
    rw [State.indicatorPin_of_flash normal flash running]
    exact decide_eq_true_iff
  · intro over_
    rw [State.indicatorPin_of_base normal over_]
    exact s.basePattern_shows _ _
  · intro k long begun running
    have at_ := markTime_of_within (t := s.now - x.frameStart) (mark := true) long (Nat.le_sub_of_add_le' begun)
      (Nat.sub_lt_left_of_lt_add (Nat.le_trans (Nat.le_add_right _ _) begun) running)
    by_cases even : k % 2 = 0
    · rw [if_pos (iff_of_true even rfl), Nat.sub_sub] at at_
      rw [State.carrierPin_of_mark current declared at_]
      exact decide_eq_true_iff.trans (and_iff_right even).symm
    · rw [if_neg fun h => even (h.2 rfl)] at at_
      rw [State.carrierPin_of_space current declared at_]
      exact ⟨nofun, fun h => absurd h.1 even⟩
  · intro past
    exact State.carrierPin_of_space current declared (markTime_of_past (Nat.le_sub_of_add_le' past))
  · intro attempt answer
    rw [State.lineDriven, attempt, answer]
    rfl
  · intro a attempt answer begun
    rw [State.lineDriven, attempt, answer, Bool.or_false]
    exact a.drives_iff s.now
  · intro a attempt answer edge
    rw [State.lineDriven, attempt, answer, Bool.false_or, Answer.drives_iff, and_iff_right edge]
    refine and_congr_left' (iff_of_eq (congrArg (a.seen = ·) ?_))
    cases a.slot <;> rfl
  · refine Bool.eq_iff_iff.2 (beq_iff_eq.trans (Iff.trans ?_ decide_eq_true_iff.symm))
    rw [Option.some.injEq, eq_comm]

end Sys2Proof.Machine
end
